-- ==== Sys2Proof/Word.lean ====
section
/-! DEFINITION. The word types of the IL-9600-M (R4, R30) and the vector of thread values that one 32-bit
register name holds (R26). -/

namespace Sys2Proof

/-- One byte of memory or tile memory (R4). -/
abbrev Byte := BitVec 8
/-- One parcel of an instruction (R18). -/
abbrev Parcel := BitVec 16
/-- A 32-bit register value, and the word of a 32-bit instruction (R18, R28). -/
abbrev Word := BitVec 32
/-- A 64-bit value: an s-register, a pair, an address (R30). -/
abbrev DWord := BitVec 64
/-- A 128-bit value: a quad (R30). -/
abbrev QWord := BitVec 128

/-- The values one vector register holds, thread 0 first. A thread beyond the list reads zero. -/
abbrev Lanes := List Word

/-- The value of thread `k`. -/
def Lanes.at (l : Lanes) (k : Nat) : Word := l.getD k 0

/-- A sparse table: entries sorted by key, no key twice. What an absent key means is said where the table is read. -/
abbrev Table (α : Type) := List (Nat × α)

end Sys2Proof
end

