-- ==== Sys2Proof/Syntax.lean ====
section
/-! DEFINITION. The instruction set as syntax: operand names (R27, R33), the operands of the messages and events, and
`Instr`, with one constructor per row of the opcode table. -/

namespace Sys2Proof

/-- An s-register named by a 5-bit field (R24). -/
abbrev SReg := Fin 32

/-- The 7-bit operand name space (R27). -/
inductive Name where
  /-- v0 to v79, names 0x00 to 0x4F -/
  | v (n : Fin 80)
  /-- o0 to o7, names 0x50 to 0x57 -/
  | o (n : Fin 8)
  | lx | ly | zero | laneid | tid | plyid | skeinid
  /-- name 0x5F, which traps in any field -/
  | reserved
  /-- s0 to s31, names 0x60 to 0x7F -/
  | s (n : SReg)
deriving DecidableEq, Repr

/-- An 8-bit source field: the dead bit and a name (R24, R31). -/
structure Src where
  dead : Bool
  name : Name
deriving DecidableEq, Repr

/-- The 5-bit name space of the 16-bit forms (R33). -/
inductive Short where
  | v (n : Fin 16)
  | o (n : Fin 8)
  | lx | ly | zero
  | s (n : Fin 5)
deriving DecidableEq, Repr

/-- The 7-bit name a 5-bit name stands for (R33). -/
def Short.name : Short → Name
  | .v n => .v ⟨n.val, by omega⟩
  | .o n => .o n
  | .lx => .lx
  | .ly => .ly
  | .zero => .zero
  | .s n => .s ⟨n.val, by omega⟩

/-- An endpoint of the mesh (R91): a core, an L2 slice, an RDC slice, the service die's port on a die, or a router's own
port 6, named by its number in the module. -/
inductive Endpoint where
  | core (c : Nat)
  | slice (s : Nat)
  | rdc (r : Nat)
  | service (d : Nat)
  | router (m : Nat)
deriving DecidableEq, Repr

/-- A party of the classifier (R96, R147), and the outside parties of R458, R161 and R163. A ply is named by
core * 512 + slot * 32 + plyid, an engine context by core * 16 + slot. -/
inductive Party where
  | ply (key : Nat)
  | engine (skein : Nat)
  | link (n : Nat)
  | host
  | service
deriving DecidableEq, Repr

/-- The fields that every flit carries (R96 to R98). -/
structure Hdr where
  tag : Nat
  ten : Nat
  cls : Nat
  src : Endpoint
  dst : Endpoint
deriving DecidableEq, Repr

/-- A REQ flit of OP 0 to 4 (R96). -/
structure ReqFlit where
  hdr : Hdr
  loc : Nat
  sect : BitVec 16
  grain : BitVec 2
  key : Nat
  strict : Bool
  owner : Party
  aux : Nat
deriving DecidableEq, Repr

/-- A translation miss on its way to the service die (R96 ATSREQ, R71). -/
structure AtsFlit where
  hdr : Hdr
  ctx : Nat
  pasid : Nat
  vpage : Nat
  exec : Bool
deriving DecidableEq, Repr

/-- A steal request (R96 STEAL, R380): its tag is the thief's outstanding request. -/
structure StealFlit where
  hdr : Hdr
deriving DecidableEq, Repr

/-- STAT of a DATA flit (R97). -/
inductive Stat where
  | done | memlost | prot
deriving DecidableEq, Repr

/-- A DATA flit that carries memory bytes (R97): RDATA, WR and WB. `bytes` are the bytes from `loc` on. `lease` is the
code g of R130, 7 for no lease; `own` says that the reply grants ownership. -/
structure DataFlit where
  hdr : Hdr
  loc : Nat
  stat : Stat
  sect : BitVec 16
  grain : BitVec 2
  key : Nat
  strict : Bool
  owner : Party
  lease : Nat
  own : Bool
  bytes : List Byte
deriving DecidableEq, Repr

/-- An atomic at its home (ATOMQ) and its reply (ATOMR), R97, R180, R181. `a` is the operand or the new value, `c` the
compare value, `old` the value returned. `quiet` marks a RED that is performed at the home (R182). -/
structure AtomFlit where
  hdr : Hdr
  loc : Nat
  stat : Stat
  op : BitVec 4
  a : DWord
  c : DWord
  old : DWord
  grain : BitVec 2
  key : Nat
  strict : Bool
  owner : Party
  quiet : Bool
deriving DecidableEq, Repr

/-- Update-only partials returned to the home (R133, R134): for each word its location, operation and partial. -/
structure PartialFlit where
  hdr : Hdr
  loc : Nat
  core : Nat
  parts : List (Nat × BitVec 4 × DWord)
deriving DecidableEq, Repr

/-- A skein control block (R377). `save` is the save area of a SAVED TCB. -/
structure Tcb where
  ctx : Nat
  lid : Nat
  pcls : Nat
  det : Bool
  gang : Bool
  nskein : Nat
  skein : Nat
  saved : Option Nat
deriving DecidableEq, Repr

/-- Donated TCBs (R380): empty means none. -/
structure TcbFlit where
  hdr : Hdr
  tcbs : List Tcb
deriving DecidableEq, Repr

/-- A reduction packet (R97, R109): NUP up the tree, arriving at input `input` of the router (the input code of R107),
or NDOWN down it. -/
structure TreeFlit where
  hdr : Hdr
  slot : Nat
  round : Nat
  input : Nat
  flushed : Bool
  vals : List Word
  mask : BitVec 128
deriving DecidableEq, Repr

/-- A translation reply to a die (R94 ATSRSP): the page that was looked up and what the ATS cache holds for it. -/
structure AtsReply where
  hdr : Hdr
  pasid : Nat
  vpage : Nat
deriving DecidableEq, Repr

/-- INV, DOWN, WAKE and DRAIN (R98, R126, R146). -/
structure ProbeFlit where
  hdr : Hdr
  loc : Nat
  grain : BitVec 2
  aslot : Nat
deriving DecidableEq, Repr

/-- DRAINACK (R146). -/
structure DrainAck where
  hdr : Hdr
  loc : Nat
  aslot : Nat
  wrote : Bool
  held : Bool
deriving DecidableEq, Repr

/-- The two forms of ACK's ARG (R98): a class answer or write acknowledgement, or an answer to INV or DOWN. -/
inductive AckArg where
  | classAnswer (credit : Bool) (cls : BitVec 2) (mix : Bool) (loc : Nat)
  | probeAnswer (aslot : Nat) (held : Bool) (loc : Nat)
deriving DecidableEq, Repr

structure AckFlit where
  hdr : Hdr
  arg : AckArg
deriving DecidableEq, Repr

/-- FBWAKE (R98): context, page and verdict of R80. -/
structure FbWake where
  hdr : Hdr
  ctx : Nat
  vpage : Nat
  refused : Bool
deriving DecidableEq, Repr

/-- TLBINV (R98): context, first page, log2 of the pages. -/
structure TlbInv where
  hdr : Hdr
  ctx : Nat
  vpage : Nat
  log2Pages : Nat
deriving DecidableEq, Repr

/-- ANSWER and NFLUSH (R98). -/
structure TreeProbe where
  hdr : Hdr
  slot : Nat
  round : Nat
deriving DecidableEq, Repr

/-- An ATS completion (R70, R75): the translation the host IOMMU returned for a page, `size` the log2 of the returned
size in bytes, `hpa` the host physical address of the page. -/
structure AtsCompletion where
  pasid : Nat
  vpage : Nat
  exec : Bool
  size : Nat
  hpa : Nat
  r : Bool
  w : Bool
  x : Bool
deriving DecidableEq, Repr

/-- A Hjelley read or write frame (R457, R458): the window and offset it names, the bytes it carries, its length. -/
structure PeerFrame where
  link : Nat
  tag : Nat
  window : Nat
  offset : Nat
  len : Nat
  bytes : List Byte
  refused : Bool
deriving DecidableEq, Repr

/-- A user-interrupt message or its status on a peer link (R412, R417, R457). -/
structure UiFrame where
  link : Nat
  tag : Nat
  sctx : Nat
  ctx : Nat
  vec : Nat
  payload : DWord
  status : Nat
deriving DecidableEq, Repr

/-- A part that sends heartbeats and can be fenced (R137, R463), or that can fail (R465). -/
inductive Agent where
  | core (c : Nat)
  | slice (s : Nat)
  | rdc (r : Nat)
  | serviceCore (i : Nat)
  | optical (i : Nat)
  | hostPort (p : Nat)
  | peerLink (l : Nat)
  | router (m : Nat)
deriving DecidableEq, Repr

/-- A watch unit: a unit of a die or of a core (R474). -/
inductive WatchId where
  | die (d : Nat) (u : Nat)
  | core (c : Nat) (u : Nat)
deriving DecidableEq, Repr

/-- Where a stream event arises (R475). -/
inductive WatchScope where
  | core (c : Nat)
  | die (d : Nat)
  | module
deriving DecidableEq, Repr

/-- Four 64-bit words: a region attribute entry (R61), a generator register (R334). -/
structure Words4 where
  w0 : DWord
  w1 : DWord
  w2 : DWord
  w3 : DWord
deriving DecidableEq, Repr

/-- What Bruvik writes when it creates a context or writes its tables again (R60, R61, R413, R414, R416, R462): `hostKeys`
are the regions of the host key map it sets, with the byte of R64; `watchUnits` are the units assigned to the context
(R477). -/
structure ContextSpec where
  desc : List DWord
  rat : List Words4
  perms : List (DWord × DWord)
  vectors : List DWord
  mailboxPasid : Nat
  xvec : DWord
  hostKeys : List (Nat × BitVec 8)
  watchUnits : List WatchId
deriving DecidableEq, Repr

/-- Writes by host firmware and software to the module's configuration space (R52, R77). -/
inductive CfgWrite where
  | decoderBase (i : Nat) (base : Nat)
  | pageRequestAllocation (n : Nat)
deriving DecidableEq, Repr


/-- The instructions and steps of the machine: one constructor per row of the opcode table. The first 189 are the
encoded instructions of R34 to R38, their fields named as the table names them (`s` is the switch marker of R19). The
rest are the steps that have no encoding: messages on the three networks (R94), timers, and what the host, Bruvik and
peer modules do to the module. -/
inductive Instr where
  /-- IADD (R286) -/
  | iadd (d : Name) (a : Src) (b : Src) (s : Bool)
  /-- ISUB (R286) -/
  | isub (d : Name) (a : Src) (b : Src) (s : Bool)
  /-- IMUL (R286) -/
  | imul (d : Name) (a : Src) (b : Src) (s : Bool)
  /-- IMAD (R286) -/
  | imad (d : Name) (a : Src) (b : Src) (s : Bool)
  /-- IMULH (R286) -/
  | imulh (d : Name) (a : Src) (b : Src) (s : Bool)
  /-- IMULHN (R286) -/
  | imulhn (d : Name) (a : Src) (b : Src) (s : Bool)
  /-- IMIN (R286) -/
  | imin (d : Name) (a : Src) (b : Src) (s : Bool)
  /-- IMINN (R286) -/
  | iminn (d : Name) (a : Src) (b : Src) (s : Bool)
  /-- IMAX (R286) -/
  | imax (d : Name) (a : Src) (b : Src) (s : Bool)
  /-- IMAXN (R286) -/
  | imaxn (d : Name) (a : Src) (b : Src) (s : Bool)
  /-- AND (R286) -/
  | and (d : Name) (a : Src) (b : Src) (s : Bool)
  /-- OR (R286) -/
  | or (d : Name) (a : Src) (b : Src) (s : Bool)
  /-- XOR (R286) -/
  | xor (d : Name) (a : Src) (b : Src) (s : Bool)
  /-- ANDN (R286) -/
  | andn (d : Name) (a : Src) (b : Src) (s : Bool)
  /-- SHL (R286) -/
  | shl (d : Name) (a : Src) (b : Src) (s : Bool)
  /-- SHR (R286) -/
  | shr (d : Name) (a : Src) (b : Src) (s : Bool)
  /-- SAR (R286) -/
  | sar (d : Name) (a : Src) (b : Src) (s : Bool)
  /-- ROTL (R286) -/
  | rotl (d : Name) (a : Src) (b : Src) (s : Bool)
  /-- IADD64 (R286) -/
  | iadd64 (d : Name) (a : Src) (b : Src) (s : Bool)
  /-- ISUB64 (R286) -/
  | isub64 (d : Name) (a : Src) (b : Src) (s : Bool)
  /-- LEA (R286) -/
  | lea (d : Name) (a : Src) (b : Src) (s : Bool)
  /-- SEL (R286) -/
  | sel (d : Name) (a : Src) (b : Src) (s : Bool)
  /-- BFE (R288) -/
  | bfe (d : Name) (a : Src) (b : Src) (s : Bool)
  /-- BFI (R288) -/
  | bfi (d : Name) (a : Src) (b : Src) (s : Bool)
  /-- IADDI (R287) -/
  | iaddi (d : Name) (a : Src) (i : BitVec 8) (s : Bool)
  /-- ANDI (R287) -/
  | andi (d : Name) (a : Src) (i : BitVec 8) (s : Bool)
  /-- ORI (R287) -/
  | ori (d : Name) (a : Src) (i : BitVec 8) (s : Bool)
  /-- XORI (R287) -/
  | xori (d : Name) (a : Src) (i : BitVec 8) (s : Bool)
  /-- SHLI (R287) -/
  | shli (d : Name) (a : Src) (i : BitVec 7) (s : Bool)
  /-- SHRI (R287) -/
  | shri (d : Name) (a : Src) (i : BitVec 7) (s : Bool)
  /-- SARI (R287) -/
  | sari (d : Name) (a : Src) (i : BitVec 7) (s : Bool)
  /-- MOVI (R287) -/
  | movi (d : Name) (i : BitVec 16) (s : Bool)
  /-- MOVHI (R287) -/
  | movhi (d : Name) (i : BitVec 16) (s : Bool)
  /-- ICMP (R290) -/
  | icmp (a : Src) (b : Name) (p : BitVec 3) (c : BitVec 5) (s : Bool)
  /-- IUN (R289) -/
  | iun (d : Name) (a : Src) (f : BitVec 5) (s : Bool)
  /-- IDIV (R291) -/
  | idiv (d : Name) (a : Src) (b : Src) (s : Bool)
  /-- IDIVN (R291) -/
  | idivn (d : Name) (a : Src) (b : Src) (s : Bool)
  /-- IREM (R291) -/
  | irem (d : Name) (a : Src) (b : Src) (s : Bool)
  /-- IREMN (R291) -/
  | iremn (d : Name) (a : Src) (b : Src) (s : Bool)
  /-- ELSE (R358) -/
  | elseI (o : BitVec 19) (s : Bool)
  /-- FADD (R292) -/
  | fadd (d : Name) (a : Src) (b : Src) (s : Bool)
  /-- FSUB (R292) -/
  | fsub (d : Name) (a : Src) (b : Src) (s : Bool)
  /-- FMUL (R292) -/
  | fmul (d : Name) (a : Src) (b : Src) (s : Bool)
  /-- FFMA (R292) -/
  | ffma (d : Name) (a : Src) (b : Src) (s : Bool)
  /-- FMIN (R292) -/
  | fmin (d : Name) (a : Src) (b : Src) (s : Bool)
  /-- FMAX (R292) -/
  | fmax (d : Name) (a : Src) (b : Src) (s : Bool)
  /-- FDIV (R292) -/
  | fdiv (d : Name) (a : Src) (b : Src) (s : Bool)
  /-- FADD2 (R293) -/
  | fadd2 (d : Name) (a : Src) (b : Src) (s : Bool)
  /-- FMUL2 (R293) -/
  | fmul2 (d : Name) (a : Src) (b : Src) (s : Bool)
  /-- FFMA2 (R293) -/
  | ffma2 (d : Name) (a : Src) (b : Src) (s : Bool)
  /-- FDOT2 (R294) -/
  | fdot2 (d : Name) (a : Src) (b : Src) (s : Bool)
  /-- FCMP (R295) -/
  | fcmp (a : Src) (b : Name) (p : BitVec 3) (c : BitVec 5) (s : Bool)
  /-- FUN (R296) -/
  | funI (d : Name) (a : Src) (f : BitVec 5) (m : BitVec 3) (s : Bool)
  /-- CVT_F2BF (R276) -/
  | cvtF2bf (d : Name) (a : Src) (m : BitVec 3) (s : Bool)
  /-- CVT_BF2F (R276) -/
  | cvtBf2f (d : Name) (a : Src) (m : Bool) (s : Bool)
  /-- CVT_F2I (R276) -/
  | cvtF2i (d : Name) (a : Src) (m : BitVec 3) (s : Bool)
  /-- CVT_F2N (R276) -/
  | cvtF2n (d : Name) (a : Src) (m : BitVec 3) (s : Bool)
  /-- CVT_I2F (R276) -/
  | cvtI2f (d : Name) (a : Src) (m : BitVec 3) (s : Bool)
  /-- CVT_N2F (R276) -/
  | cvtN2f (d : Name) (a : Src) (m : BitVec 3) (s : Bool)
  /-- CVT_F2I64 (R276) -/
  | cvtF2i64 (d : Name) (a : Src) (m : BitVec 3) (s : Bool)
  /-- CVT_I642F (R276) -/
  | cvtI642f (d : Name) (a : Src) (m : BitVec 3) (s : Bool)
  /-- LOOP (R360) -/
  | loop (o : BitVec 19) (s : Bool)
  /-- ENDLOOP (R360) -/
  | endloop (o : BitVec 19) (s : Bool)
  /-- SHFL (R299) -/
  | shfl (d : Name) (a : Src) (b : Src) (s : Bool)
  /-- SHFLX (R299) -/
  | shflx (d : Name) (a : Src) (i : BitVec 8) (s : Bool)
  /-- RDLANE (R299) -/
  | rdlane (d : Name) (a : Src) (i : BitVec 8) (s : Bool)
  /-- WRLANE (R299) -/
  | wrlane (d : Name) (a : Src) (i : BitVec 8) (s : Bool)
  /-- VOTE_ANY (R300) -/
  | voteAny (d : Name) (p : BitVec 3) (s : Bool)
  /-- VOTE_ALL (R300) -/
  | voteAll (d : Name) (p : BitVec 3) (s : Bool)
  /-- VOTE_BALLOT (R300) -/
  | voteBallot (d : Name) (p : BitVec 3) (s : Bool)
  /-- VOTE_COUNT (R300) -/
  | voteCount (d : Name) (p : BitVec 3) (s : Bool)
  /-- SCAN (R301) -/
  | scan (d : Name) (a : Src) (f : BitVec 5) (e : Bool) (s : Bool)
  /-- REDUCE (R301) -/
  | reduce (d : Name) (a : Src) (f : BitVec 5) (s : Bool)
  /-- MATCH (R302) -/
  | matchI (d : Name) (a : Src) (b : Src) (s : Bool)
  /-- HASH (R307) -/
  | hash (d : Name) (a : Src) (b : Src) (s : Bool)
  /-- HASH64 (R307) -/
  | hash64 (d : Name) (a : Src) (b : Src) (s : Bool)
  /-- CRC (R308) -/
  | crc (d : Name) (a : Src) (b : Src) (s : Bool)
  /-- PART (R309) -/
  | part (d : Name) (a : Src) (b : Src) (s : Bool)
  /-- HIST (R310) -/
  | hist (d : Name) (a : Src) (b : Src) (s : Bool)
  /-- SCMP (R314) -/
  | scmp (d : Name) (a : Src) (b : Src) (s : Bool)
  /-- SHASH (R316) -/
  | shash (d : Name) (a : Src) (s : Bool)
  /-- SPFX (R316) -/
  | spfx (d : Name) (a : Src) (s : Bool)
  /-- SLEN (R316) -/
  | slen (d : Name) (a : Src) (s : Bool)
  /-- SFIND (R315) -/
  | sfind (d : Name) (a : Src) (b : Src) (s : Bool)
  /-- LD (R178) -/
  | ld (d : Name) (b : SReg) (v : Name) (c : BitVec 2) (w : BitVec 2) (s : Bool)
  /-- ST (R178) -/
  | st (d : Name) (b : SReg) (v : Name) (c : BitVec 2) (w : BitVec 2) (s : Bool)
  /-- LDQ (R178) -/
  | ldq (d : Name) (b : SReg) (v : Name) (c : BitVec 2) (s : Bool)
  /-- STQ (R178) -/
  | stq (d : Name) (b : SReg) (v : Name) (c : BitVec 2) (s : Bool)
  /-- LDCV (R179) -/
  | ldcv (d : Name) (b : SReg) (v : Name) (c : BitVec 2) (w : BitVec 2) (s : Bool)
  /-- STCV (R179) -/
  | stcv (d : Name) (b : SReg) (v : Name) (c : BitVec 2) (w : BitVec 2) (s : Bool)
  /-- ATOM (R180) -/
  | atom (d : Name) (b : SReg) (v : Name) (o : BitVec 4) (s : Bool)
  /-- RED (R182) -/
  | red (d : Name) (b : SReg) (v : Name) (o : BitVec 4) (s : Bool)
  /-- TLD (R229) -/
  | tld (d : Name) (b : SReg) (v : Name) (c : BitVec 2) (w : BitVec 2) (s : Bool)
  /-- TST (R229) -/
  | tst (d : Name) (b : SReg) (v : Name) (c : BitVec 2) (w : BitVec 2) (s : Bool)
  /-- TLDT (R230) -/
  | tldt (d : Name) (b : SReg) (v : Name) (c : BitVec 2) (w : Bool) (s : Bool)
  /-- TATOM (R231) -/
  | tatom (d : Name) (b : SReg) (v : Name) (o : BitVec 4) (s : Bool)
  /-- PREF (R183) -/
  | pref (b : SReg) (v : Name) (c : BitVec 2) (w : BitVec 2) (s : Bool)
  /-- MONA (R184) -/
  | mona (d : Name) (b : SReg) (v : Name) (c : BitVec 2) (w : BitVec 2) (s : Bool)
  /-- WAITM (R186) -/
  | waitm (a : Src) (s : Bool)
  /-- POLL (R187) -/
  | poll (d : Name) (b : SReg) (v : Name) (c : BitVec 2) (w : BitVec 2) (s : Bool)
  /-- CPYIN (R197) -/
  | cpyin (d : Name) (t : SReg) (k : SReg) (l : SReg) (h : Bool) (s : Bool)
  /-- CPYOUT (R197) -/
  | cpyout (d : Name) (t : SReg) (k : SReg) (l : SReg) (h : Bool) (s : Bool)
  /-- CPYGG (R197) -/
  | cpygg (d : Name) (t : SReg) (k : SReg) (l : SReg) (h : Bool) (s : Bool)
  /-- GATHER (R197) -/
  | gather (d : Name) (t : SReg) (k : SReg) (l : SReg) (h : Bool) (s : Bool)
  /-- SCATTER (R197) -/
  | scatter (d : Name) (t : SReg) (k : SReg) (l : SReg) (h : Bool) (s : Bool)
  /-- PSCAT (R197) -/
  | pscat (d : Name) (t : SReg) (k : SReg) (l : SReg) (h : Bool) (s : Bool)
  /-- DEFARR (R209) -/
  | defarr (a : Src) (f : BitVec 5) (s : Bool)
  /-- CPYQ_STATUS (R210) -/
  | cpyqStatus (d : Name) (a : Src) (s : Bool)
  /-- CPYQ_TL (R210) -/
  | cpyqTl (d : Name) (s : Bool)
  /-- CPYQ_DROP (R210) -/
  | cpyqDrop (d : Name) (a : Src) (s : Bool)
  /-- TBIND (R225) -/
  | tbind (d : Name) (a : Src) (h : BitVec 5) (s : Bool)
  /-- TSET_EMPTY (R226) -/
  | tsetEmpty (a : Src) (s : Bool)
  /-- TSET_FILLING (R226) -/
  | tsetFilling (a : Src) (s : Bool)
  /-- TSET_READY (R226) -/
  | tsetReady (a : Src) (s : Bool)
  /-- TSET_DRAINING (R226) -/
  | tsetDraining (a : Src) (s : Bool)
  /-- TWAIT (R227) -/
  | twait (a : Src) (k : BitVec 5) (s : Bool)
  /-- TFREE (R228) -/
  | tfree (a : Src) (s : Bool)
  /-- MMA (R340) -/
  | mma (d : Name) (a : SReg) (b : SReg) (f : BitVec 4) (e : BitVec 2) (s : Bool)
  /-- MCLOSE (R341) -/
  | mclose (d : Name) (s : Bool)
  /-- MCLOSE_RESUME (R341) -/
  | mcloseResume (d : Name) (a : Src) (s : Bool)
  /-- MWAIT (R341) -/
  | mwait (d : Name) (s : Bool)
  /-- MABORT (R341) -/
  | mabort (d : Name) (s : Bool)
  /-- MEPI (R342) -/
  | mepi (d : Name) (a : SReg) (b : SReg) (f : BitVec 4) (e : BitVec 2) (s : Bool)
  /-- GSET (R343) -/
  | gset (a : Src) (g : BitVec 3) (s : Bool)
  /-- GGET (R344) -/
  | gget (d : Name) (i : BitVec 8) (s : Bool)
  /-- BAR (R400) -/
  | bar (d : Name) (a : Src) (b : BitVec 4) (m : BitVec 3) (s : Bool)
  /-- BARA (R400) -/
  | bara (a : Src) (b : BitVec 4) (m : BitVec 3) (s : Bool)
  /-- BARW (R400) -/
  | barw (d : Name) (b : BitVec 4) (s : Bool)
  /-- TKT_TAKE (R403) -/
  | tktTake (d : Name) (a : Src) (c : BitVec 3) (s : Bool)
  /-- TKT_WAITP (R403) -/
  | tktWaitp (d : Name) (c : BitVec 3) (s : Bool)
  /-- TKT_PUT (R403) -/
  | tktPut (a : Src) (c : BitVec 3) (s : Bool)
  /-- TKT_SKIP (R403) -/
  | tktSkip (c : BitVec 3) (s : Bool)
  /-- QPUSH (R366) -/
  | qpush (a : Src) (q : BitVec 3) (s : Bool)
  /-- QPOP (R366) -/
  | qpop (d : Name) (q : BitVec 3) (s : Bool)
  /-- TLWAIT (R406) -/
  | tlwait (d : Name) (a : Src) (f : BitVec 5) (s : Bool)
  /-- TLRD (R406) -/
  | tlrd (d : Name) (f : Bool) (s : Bool)
  /-- NRED (R113) -/
  | nred (d : Name) (a : Src) (t : BitVec 5) (m : BitVec 3) (s : Bool)
  /-- BRA (R357) -/
  | bra (o : BitVec 23) (s : Bool)
  /-- BRQ (R357) -/
  | brq (p : BitVec 4) (o : BitVec 19) (s : Bool)
  /-- IFP (R358) -/
  | ifp (p : BitVec 4) (o : BitVec 19) (s : Bool)
  /-- CALL (R357) -/
  | call (o : BitVec 23) (s : Bool)
  /-- ENDIF (R358) -/
  | endif (s : Bool)
  /-- BRK (R361) -/
  | brk (s : Bool)
  /-- CONT (R361) -/
  | cont (s : Bool)
  /-- RET (R357) -/
  | ret (a : Src) (s : Bool)
  /-- JMPI (R357) -/
  | jmpi (a : Src) (s : Bool)
  /-- CALLI (R357) -/
  | calli (d : Name) (a : Src) (s : Bool)
  /-- ELECT (R359) -/
  | elect (d : Name) (s : Bool)
  /-- YIELD (R364) -/
  | yield (s : Bool)
  /-- EXIT (R362) -/
  | exit (s : Bool)
  /-- NOP (R364) -/
  | nop (s : Bool)
  /-- SPAWN (R394) -/
  | spawn (d : Name) (a : Src) (q : BitVec 3) (s : Bool)
  /-- UISEND (R425) -/
  | uisend (d : Name) (a : Src) (s : Bool)
  /-- UIMASK (R426) -/
  | uimask (d : Name) (a : Src) (s : Bool)
  /-- UIPEND (R427) -/
  | uipend (d : Name) (a : Src) (s : Bool)
  /-- UIACK (R428) -/
  | uiack (d : Name) (a : Src) (s : Bool)
  /-- UIRET (R429) -/
  | uiret (s : Bool)
  /-- UIWAIT (R430) -/
  | uiwait (a : Src) (s : Bool)
  /-- VACQ (R253) -/
  | vacq (s : Bool)
  /-- VREL (R254) -/
  | vrel (s : Bool)
  /-- VKILL (R255) -/
  | vkill (a : Src) (s : Bool)
  /-- RDLIVE (R256) -/
  | rdlive (d : Name) (a : Src) (s : Bool)
  /-- UPRD (R257) -/
  | uprd (d : Name) (a : Src) (s : Bool)
  /-- UPWR (R257) -/
  | upwr (d : Name) (a : Src) (s : Bool)
  /-- TRAP (R442) -/
  | trap (a : Src) (s : Bool)
  /-- TRET (R443) -/
  | tret (s : Bool)
  /-- HALT (R444) -/
  | halt (s : Bool)
  /-- CLASSQ (R445) -/
  | classq (d : Name) (a : Src) (s : Bool)
  /-- EVICT (R448) -/
  | evict (s : Bool)
  /-- FAULTREQ (R446) -/
  | faultreq (d : Name) (a : Src) (s : Bool)
  /-- WAITF (R446) -/
  | waitf (d : Name) (a : Src) (s : Bool)
  /-- RDSR (R441) -/
  | rdsr (d : Name) (i : BitVec 8) (s : Bool)
  /-- WRSR (R441) -/
  | wrsr (a : Src) (i : BitVec 8) (s : Bool)
  /-- MOV_H (R38) -/
  | movH (d : Short) (b : Short) (s : Bool)
  /-- MOVI5_H (R38) -/
  | movi5H (d : Short) (i : BitVec 5) (s : Bool)
  /-- IADD_H (R38) -/
  | iaddH (d : Short) (b : Short) (s : Bool)
  /-- IADDI5_H (R38) -/
  | iaddi5H (d : Short) (i : BitVec 5) (s : Bool)
  /-- ISUB_H (R38) -/
  | isubH (d : Short) (b : Short) (s : Bool)
  /-- IMUL_H (R38) -/
  | imulH (d : Short) (b : Short) (s : Bool)
  /-- AND_H (R38) -/
  | andH (d : Short) (b : Short) (s : Bool)
  /-- OR_H (R38) -/
  | orH (d : Short) (b : Short) (s : Bool)
  /-- XOR_H (R38) -/
  | xorH (d : Short) (b : Short) (s : Bool)
  /-- SHLI5_H (R38) -/
  | shli5H (d : Short) (i : BitVec 5) (s : Bool)
  /-- SHRI5_H (R38) -/
  | shri5H (d : Short) (i : BitVec 5) (s : Bool)
  /-- SARI5_H (R38) -/
  | sari5H (d : Short) (i : BitVec 5) (s : Bool)
  /-- FADD_H (R38) -/
  | faddH (d : Short) (b : Short) (s : Bool)
  /-- FMUL_H (R38) -/
  | fmulH (d : Short) (b : Short) (s : Bool)
  /-- FFMA_H (R38) -/
  | ffmaH (d : Short) (b : Short) (s : Bool)
  /-- FMAX_H (R38) -/
  | fmaxH (d : Short) (b : Short) (s : Bool)
  /-- RD (R125) -/
  | rd (f : ReqFlit)
  /-- RDO (R125) -/
  | rdo (f : ReqFlit)
  /-- UPG (R133) -/
  | upg (f : ReqFlit)
  /-- ARM (R159) -/
  | arm (f : ReqFlit)
  /-- RENEW (R130) -/
  | renew (f : ReqFlit)
  /-- ATSREQ (R72) -/
  | atsreq (f : AtsFlit)
  /-- STEAL (R380) -/
  | steal (f : StealFlit)
  /-- RDATA (R130) -/
  | rdata (f : DataFlit)
  /-- WR (R125) -/
  | wr (f : DataFlit)
  /-- WB (R126) -/
  | wb (f : DataFlit)
  /-- ATOMQ (R125) -/
  | atomq (f : AtomFlit)
  /-- ATOMR (R181) -/
  | atomr (f : AtomFlit)
  /-- REDP (R134) -/
  | redp (f : PartialFlit)
  /-- TCB (R380) -/
  | tcb (f : TcbFlit)
  /-- NUP (R109) -/
  | nup (f : TreeFlit)
  /-- NDOWN (R111) -/
  | ndown (f : TreeFlit)
  /-- ATSRSP (R94) -/
  | atsrsp (f : AtsReply)
  /-- INV (R126) -/
  | inv (f : ProbeFlit)
  /-- DOWN (R126) -/
  | down (f : ProbeFlit)
  /-- DRAIN (R148) -/
  | drain (f : ProbeFlit)
  /-- DRAINACK (R148) -/
  | drainack (f : DrainAck)
  /-- ACK (R146) -/
  | ack (f : AckFlit)
  /-- WAKE (R159) -/
  | wake (f : ProbeFlit)
  /-- FBWAKE (R81) -/
  | fbwake (f : FbWake)
  /-- TLBINV (R84) -/
  | tlbinv (f : TlbInv)
  /-- ANSWER (R127) -/
  | answer (f : TreeProbe)
  /-- NFLUSH (R110) -/
  | nflush (f : TreeProbe)
  /-- WATCH_EVENT (R476) -/
  | watchEvent (scope : WatchScope) (stream : Nat) (ctx : Nat) (v : Nat)
  /-- PREEMPT_REQUEST (R447) -/
  | preemptRequest (skein : Nat) (gang : Bool)
  /-- BIRSPI (R136) -/
  | birspi (loc : Nat)
  /-- SWITCH_POINT_LANDING (R246) -/
  | switchPointLanding (ply : Nat)
  /-- VACQ_GRANT (R253) -/
  | vacqGrant (core : Nat) (part : Nat)
  /-- PLY_AGING (R385) -/
  | plyAging (ply : Nat)
  /-- PLY_RETIREMENT (R363) -/
  | plyRetirement (ply : Nat)
  /-- TRAP_ENTRY (R433) -/
  | trapEntry (ply : Nat)
  /-- KILL_RECORD_WRITE (R437) -/
  | killRecordWrite (ctx : Nat)
  /-- WATCHDOG_EXPIRY (R410) -/
  | watchdogExpiry (ctx : Nat)
  /-- ORPHAN_DETECTION (R407) -/
  | orphanDetection (skein : Nat)
  /-- CONTEXT_RESUME (R444) -/
  | contextResume (ctx : Nat)
  /-- LAUNCH_ACCEPTANCE (R372) -/
  | launchAcceptance (ctx : Nat) (q : Nat)
  /-- SKEIN_DEAL (R378) -/
  | skeinDeal (ctx : Nat) (lid : Nat)
  /-- GANG_PLACEMENT (R382) -/
  | gangPlacement (ctx : Nat) (lid : Nat)
  /-- GANG_RESERVATION (R383) -/
  | gangReservation (ctx : Nat) (lid : Nat)
  /-- STARVE_COUNT (R383) -/
  | starveCount (ctx : Nat) (lid : Nat)
  /-- SKEIN_START (R379) -/
  | skeinStart (core : Nat)
  /-- STEAL_BACKOFF_EXPIRY (R380) -/
  | stealBackoffExpiry (core : Nat)
  /-- QUANTUM_BOUNDARY (R391) -/
  | quantumBoundary (ctx : Nat)
  /-- KERNEL_BOUNDARY (R168) -/
  | kernelBoundary (ctx : Nat) (lid : Nat)
  /-- COMPLETION_RECORD_WRITE (R376) -/
  | completionRecordWrite (ctx : Nat) (q : Nat)
  /-- COPY_CHUNK_SERVE (R204) -/
  | copyChunkServe (core : Nat)
  /-- COPY_DONE (R207) -/
  | copyDone (skein : Nat) (n : Nat)
  /-- BATCH_COMPLETE (R326) -/
  | batchComplete (core : Nat) (part : Nat)
  /-- BUDGET_REFILL (R333) -/
  | budgetRefill 
  /-- BARRIER_PHASE_COMPLETION (R399) -/
  | barrierPhaseCompletion (skein : Nat) (b : Nat)
  /-- TICKET_CHAIN_ADVANCE (R402) -/
  | ticketChainAdvance (ctx : Nat) (lid : Nat) (c : Nat)
  /-- WAITM_TIMEOUT (R186) -/
  | waitmTimeout (ply : Nat)
  /-- POLL_RETRY (R187) -/
  | pollRetry (ply : Nat)
  /-- UIWAIT_TIMEOUT (R430) -/
  | uiwaitTimeout (ply : Nat)
  /-- USER_INTERRUPT_DIVERSION (R420) -/
  | userInterruptDiversion (ply : Nat)
  /-- MAILBOX_MSG_WRITE (R416) -/
  | mailboxMsgWrite (ctx : Nat) (control : DWord) (payload : DWord)
  /-- MAILBOX_OTHER_WRITE (R416) -/
  | mailboxOtherWrite (ctx : Nat)
  /-- RATE_COUNTER_RELOAD (R413) -/
  | rateCounterReload 
  /-- TREE_TIMEOUT (R110) -/
  | treeTimeout (slot : Nat)
  /-- HELD_WRITE_PERFORMANCE (R125) -/
  | heldWritePerformance (slice : Nat)
  /-- BURNISHER_SWEEP (R124) -/
  | burnisherSweep 
  /-- REPLICA_COMPARE (R166) -/
  | replicaCompare 
  /-- GRANULE_WITHDRAWAL (R88) -/
  | granuleWithdrawal (loc : Nat)
  /-- GRANULE_CLEAR (R90) -/
  | granuleClear (loc : Nat)
  /-- REGION_MIGRATION (R68) -/
  | regionMigration (src : Nat) (dst : Nat)
  /-- ATS_TRANSLATION_COMPLETION (R75) -/
  | atsTranslationCompletion (c : AtsCompletion)
  /-- FAULT_BATCH_CLOSE (R77) -/
  | faultBatchClose 
  /-- PRG_RESPONSE (R80) -/
  | prgResponse (port : Nat) (prgi : Nat) (code : BitVec 4)
  /-- ATS_INVALIDATE_REQUEST (R84) -/
  | atsInvalidateRequest (pasid : Nat) (vpage : Nat) (log2Pages : Nat)
  /-- INVALIDATE_COMPLETION (R84) -/
  | invalidateCompletion (pasid : Nat) (vpage : Nat)
  /-- FBCFG_WRITE (R79) -/
  | fbcfgWrite (value : DWord)
  /-- SNPINV (R135) -/
  | snpinv (loc : Nat)
  /-- SNPDATA (R135) -/
  | snpdata (loc : Nat)
  /-- SNPCUR (R135) -/
  | snpcur (loc : Nat)
  /-- MEMRD (R136) -/
  | memrd (hpa : Nat) (size : Nat) (cached : Bool)
  /-- MEMWR (R136) -/
  | memwr (hpa : Nat) (bytes : List Byte)
  /-- BICONFLICT (R136) -/
  | biconflict (loc : Nat)
  /-- WINDESC (R457) -/
  | windesc (link : Nat) (windows : List (Nat × Nat)) (exports : List (Nat × Nat × Nat))
  /-- RDREQ (R458) -/
  | rdreq (f : PeerFrame)
  /-- RDRSP (R457) -/
  | rdrsp (f : PeerFrame)
  /-- WRREQ (R458) -/
  | wrreq (f : PeerFrame)
  /-- WRACK (R458) -/
  | wrack (f : PeerFrame)
  /-- UIMSG (R457) -/
  | uimsg (f : UiFrame)
  /-- UISTAT (R457) -/
  | uistat (f : UiFrame)
  /-- HB (R457) -/
  | hb (link : Nat) (seq : BitVec 16)
  /-- HEARTBEAT (R463) -/
  | heartbeat (agent : Agent) (seq : BitVec 16)
  /-- AGENT_FENCE (R137) -/
  | agentFence (agent : Agent)
  /-- WHEEL_REGISTER_WRITE (R104) -/
  | wheelRegisterWrite (reg : Nat) (value : DWord)
  /-- WHEEL_SETTING_EFFECT (R104) -/
  | wheelSettingEffect 
  /-- GATE_ENTRY (R461) -/
  | gateEntry (svc : Nat) (target : DWord)
  /-- MODULE_RESET (R467) -/
  | moduleReset 
  /-- RECOVERY_IMAGE (R469) -/
  | recoveryImage (image : List Byte)
  /-- ATTESTATION_REQUEST (R470) -/
  | attestationRequest (nonce : List Byte)
  /-- WCFG_WRITE (R474) -/
  | wcfgWrite (unit : WatchId) (value : DWord)
  /-- WATCH_PAGE_WRITE (R477) -/
  | watchPageWrite (ctx : Nat)
  /-- POWER_WINDOW (R478) -/
  | powerWindow (watts : Nat) (temps : List Nat)
  /-- CLOCK_RAISE (R478) -/
  | clockRaise 
  /-- CONTEXT_SUSPEND (R444) -/
  | contextSuspend (ctx : Nat)
  /-- CONTEXT_CREATION (R462) -/
  | contextCreation (spec : ContextSpec)
  /-- CONTEXT_TEARDOWN (R462) -/
  | contextTeardown (ctx : Nat)
  /-- CONFIGURATION_SPACE_WRITE (R52) -/
  | configurationSpaceWrite (w : CfgWrite)
  /-- CXL_CACHE_COMPLETION (R135) -/
  | cxlCacheCompletion (loc : Nat) (excl : Bool) (bytes : List Byte)
  /-- FIBRE_LOSS (R456) -/
  | fibreLoss (port : Nat) (fibres : Nat)
  /-- AUTHENTICATION_FAILURE (R457) -/
  | authenticationFailure (link : Nat)
  /-- TENANT_KEY_LOAD (R63) -/
  | tenantKeyLoad (key : Nat)
deriving DecidableEq, Repr

end Sys2Proof
end

