-- ==== Sys2Proof/Machine/Shape.lean ====
section
/-! DEFINITION. The operands of every instruction: what each field names, how wide the operand is, whether it is read
or written, and by which pipe the result is made. The checks of R29 to R33 and R40, the debug traps of R247 to R250, the
dead bits of R31 and the timing of R236 to R240 are all computed from this one description. -/

namespace Sys2Proof

/-- Operand widths (R30). -/
inductive Width where
  | one | pair | quad
deriving DecidableEq, Repr

/-- What a destination field may name, beyond the rules that hold for every name (R28 to R30). -/
inductive DstKind where
  /-- the instruction has no destination field -/
  | none
  /-- any name that can be a destination -/
  | any
  /-- an s-name -/
  | sOnly
  /-- an s-name or zero -/
  | sZero
  /-- an even s-name or zero -/
  | sEvenZero
  /-- not an s-name -/
  | vec
  /-- a v name or zero -/
  | vZero
  /-- o0 to o7 of the level below (UPWR) -/
  | lowerO
deriving DecidableEq, Repr

/-- One source operand. `uni` marks a field that must hold a uniform name whatever the destination. -/
structure Use where
  name : Name
  width : Width
  dead : Bool
  uni : Bool
deriving DecidableEq, Repr

/-- Where a result is made (R240, R245). `uni` is the uniform unit, `land` a result that lands at a switch point. -/
inductive Pipe where
  | x | y | sfu | uni | tile | land | none
deriving DecidableEq, Repr

/-- The description of one instruction. `uniform` holds when it is a uniform instruction (R29, R173),
`thread` when it acts once for each active thread, so that an empty EM makes it a no-op (R281). `lxRead` marks an
implicit read of lx, `ok` the conditions on the other fields. -/
structure Shape where
  kind : DstKind
  dst : Name
  dstW : Width
  srcs : List Use
  uniform : Bool
  thread : Bool
  lxRead : Bool
  pipe : Pipe
  drain : Bool
  ok : Bool
deriving DecidableEq, Repr

/-- s-names and the uniform special names, and zero (R26). -/
def Name.isUniform : Name → Bool
  | .s _ | .plyid | .skeinid | .zero => true
  | _ => false

def Name.isS : Name → Bool
  | .s _ => true
  | _ => false

def Name.isV : Name → Bool
  | .v _ => true
  | _ => false

def Name.isO : Name → Bool
  | .o _ => true
  | _ => false

/-- The null value of a name field (R40). -/
def Src.null : Src := ⟨false, .zero⟩

def Src.use (a : Src) : Use := ⟨a.name, .one, a.dead, false⟩
def Src.use64 (a : Src) : Use := ⟨a.name, .pair, a.dead, false⟩
def Src.useU (a : Src) : Use := ⟨a.name, .one, a.dead, true⟩
def Name.use (n : Name) : Use := ⟨n, .one, false, false⟩
def Name.use64 (n : Name) : Use := ⟨n, .pair, false, false⟩
def Name.useW (n : Name) (w : Width) : Use := ⟨n, w, false, false⟩
def SReg.use (r : SReg) : Use := ⟨.s r, .one, false, true⟩

namespace Shape

/-- A lane instruction with destination `d`: uniform exactly when `d` is an s-name (R29). -/
def lane (p : Pipe) (d : Name) (srcs : List Use) (w : Width := .one) (ok : Bool := true) : Shape :=
  ⟨.any, d, w, srcs, d.isS, !d.isS, false, p, false, ok⟩

/-- A lane instruction without a uniform form (R285, R298). -/
def laneVec (p : Pipe) (d : Name) (srcs : List Use) (w : Width := .one) (ok : Bool := true) : Shape :=
  ⟨.vec, d, w, srcs, false, true, false, p, false, ok⟩

/-- A compare: it writes a predicate, and is uniform when both sources are (R29). -/
def cmp (a b : Use) (ok : Bool) : Shape :=
  ⟨.none, .zero, .one, [a, b], a.name.isUniform && b.name.isUniform, !(a.name.isUniform && b.name.isUniform), false, .x,
    false, ok⟩

/-- A load or another instruction of the drain class whose d7 decides its uniformity (R173). -/
def load (p : Pipe) (d : Name) (w : Width) (srcs : List Use) (ok : Bool := true) : Shape :=
  ⟨.any, d, w, srcs, d.isS, !d.isS, false, p, true, ok⟩

/-- A store: uniform when its data name is an s-name or zero and its offset is uniform (R173). -/
def store (d : Name) (w : Width) (v : Name) (srcs : List Use) (ok : Bool := true) : Shape :=
  ⟨.none, .zero, .one, d.useW w :: srcs, (d.isS || decide (d = .zero)) && v.isUniform,
    !((d.isS || decide (d = .zero)) && v.isUniform), false, .none, true, ok⟩

/-- An action of the whole ply of the drain class. -/
def act (k : DstKind) (d : Name) (srcs : List Use) (p : Pipe := .uni) (ok : Bool := true) : Shape :=
  ⟨k, d, .one, srcs, false, false, false, p, true, ok⟩

/-- A control instruction (R356): no result but what it names, not of the drain class. -/
def ctl (k : DstKind) (d : Name) (srcs : List Use) (ok : Bool := true) : Shape :=
  ⟨k, d, .one, srcs, false, false, false, .uni, false, ok⟩

/-- A step of the machine that is no instruction word. -/
def event : Shape := ⟨.none, .zero, .one, [], false, false, false, .none, false, true⟩

end Shape

/-- The access width of LD, ST, MONA and POLL as an operand width (R178): 8 bytes name a pair. -/
def ldWidth (w : BitVec 2) : Width := if w = 3 then .pair else .one

/-- The operand width of TLD and TST (R223). -/
def tldWidth (w : BitVec 2) : Width := if w = 3 then .quad else if w = 2 then .pair else .one

/-- The operand width of an atomic (R180). -/
def atomWidth (o : BitVec 4) : Width :=
  if o = 1 ∨ o = 12 ∨ o = 13 then .pair else if o = 14 then .quad else .one

/-- The s-register `k` places above `r`, as a source. -/
def SReg.up (r : SReg) (k : Nat) : Use := ⟨.s ⟨(r.val + k) % 32, Nat.mod_lt _ (by decide)⟩, .one, false, true⟩

/-- The format block registers of MMA and MEPI (R323). -/
def fmtBlock (f : BitVec 4) : List Use :=
  (List.range 4).map fun k => SReg.up ⟨2 * f.toNat % 32, Nat.mod_lt _ (by decide)⟩ k

/-- The numbers of the system registers that exist (R439). -/
def sysRegExists (i : BitVec 8) : Bool :=
  let n := i.toNat
  n ≤ 0x0E || (0x10 ≤ n && n ≤ 0x13) || (0x20 ≤ n && n ≤ 0x25) || (0x28 ≤ n && n ≤ 0x2D)

def copyShape (d : Name) (t k l : SReg) : Shape :=
  Shape.act .sZero d ([t.use] ++ (List.range 4).map (SReg.up k) ++ [l.use]) .uni (decide (k.val ≤ 28))

/-- The dead bit and name of a register quadruple of GSET (R339). -/
def gsetSrcs (a : Src) : List Use :=
  match a.name with
  | .s r => (List.range 4).map fun k => { SReg.up r k with dead := a.dead }
  | _ => [a.useU]

/-- The two registers UISEND reads (R423, R425). -/
def uisendSrcs (a : Src) : List Use :=
  match a.name with
  | .s r => (List.range 2).map fun k => { SReg.up r k with dead := a.dead }
  | _ => [a.useU]

def Short.useD (n : Short) : Use := n.name.use

/-- A two-address 16-bit form (R25, R33, R303). -/
def shortShape (p : Pipe) (d b : Short) (lx : Bool := false) : Shape :=
  { Shape.lane p d.name [d.useD, b.useD] with lxRead := lx, ok := !(lx && d.name.isS) }

/-- A 16-bit form with an immediate; `rd` says that d5 is also a source. -/
def shortImm (d : Short) (rd : Bool) : Shape := Shape.lane .x d.name (if rd then [d.useD] else [])

/-- The parity and bound that GSET asks of a8 (R339). -/
def gsetOk : Name → Bool
  | .s r => r.val % 4 = 0
  | _ => false

/-- An even s-name (R423). -/
def evenS : Name → Bool
  | .s r => r.val % 2 = 0
  | _ => false

/-- The description of each instruction, field by field, from the chapter that owns it (R35). -/
def Instr.shape : Instr → Shape
  | .iadd d a b _ | .isub d a b _ | .imin d a b _ | .iminn d a b _ | .imax d a b _ | .imaxn d a b _
  | .and d a b _ | .or d a b _ | .xor d a b _ | .andn d a b _ | .shl d a b _ | .shr d a b _ | .sar d a b _
  | .rotl d a b _ | .sel d a b _ | .bfe d a b _ | .fadd d a b _ | .fsub d a b _ | .fmul d a b _
  | .fmin d a b _ | .fmax d a b _ => Shape.lane .x d [a.use, b.use]
  | .ffma d a b _ => Shape.lane .x d [d.use, a.use, b.use]
  | .imul d a b _ | .imulh d a b _ | .imulhn d a b _ | .fadd2 d a b _ | .fmul2 d a b _ | .fdot2 d a b _
  | .hash d a b _ => Shape.lane .y d [a.use, b.use]
  | .imad d a b _ | .ffma2 d a b _ => Shape.lane .y d [d.use, a.use, b.use]
  | .iadd64 d a b _ | .isub64 d a b _ => Shape.lane .x d [a.use64, b.use64] .pair
  | .lea d a b _ => Shape.lane .x d [a.use64, b.use] .pair
  | .bfi d a b _ => { Shape.laneVec .x d [a.use, b.use] with lxRead := true }
  | .iaddi d a _ _ | .andi d a _ _ | .ori d a _ _ | .xori d a _ _ => Shape.lane .x d [a.use]
  | .shli d a _ _ | .shri d a _ _ | .sari d a _ _ => Shape.lane .x d [a.use]
  | .movi d _ _ | .movhi d _ _ => Shape.lane .x d []
  | .icmp a b _ c _ =>
    let ok := decide (c.toNat % 16 ≤ 9)
    if c.toNat < 16 then Shape.cmp a.use b.use ok else Shape.cmp a.use64 b.use64 ok
  | .fcmp a b _ c _ => Shape.cmp a.use b.use (decide (c.toNat ≤ 7))
  | .iun d a f _ =>
    if f = 11 then Shape.lane .x d [a.use64] .pair else Shape.lane .x d [a.use] .one (decide (f.toNat ≤ 11))
  | .idiv d a b _ | .idivn d a b _ | .irem d a b _ | .iremn d a b _ => Shape.lane .land d [a.use, b.use]
  | .fdiv d a b _ => Shape.lane .sfu d [a.use, b.use]
  | .funI d a f m _ => Shape.lane .sfu d [a.use] .one
      (decide (f.toNat ≤ 15) && (m = 0 || (m = 1 && decide (f.toNat ≠ 7 ∧ f.toNat ≠ 8 ∧ f.toNat ≤ 13))))
  | .cvtF2bf d a m _ | .cvtF2i d a m _ | .cvtF2n d a m _ | .cvtI2f d a m _ | .cvtN2f d a m _ =>
    Shape.lane .x d [a.use] .one (decide (m.toNat ≤ 5))
  | .cvtBf2f d a _ _ => Shape.lane .x d [a.use]
  | .cvtF2i64 d a m _ => Shape.lane .x d [a.use] .pair (decide (m.toNat ≤ 5))
  | .cvtI642f d a m _ => Shape.lane .x d [a.use64] .one (decide (m.toNat ≤ 5))
  | .shfl d a b _ => Shape.laneVec .y d [a.use, b.use]
  | .shflx d a i _ | .rdlane d a i _ | .wrlane d a i _ => Shape.laneVec .y d [a.use] .one (decide (i.toNat < 64))
  | .voteAny d _ _ | .voteAll d _ _ | .voteCount d _ _ => Shape.laneVec .y d []
  | .voteBallot d _ _ => Shape.laneVec .y d [] .pair
  | .scan d a f _ _ | .reduce d a f _ => Shape.laneVec .y d [a.use] .one (decide (f.toNat ≤ 7))
  | .matchI d a b _ => Shape.laneVec .y d [a.use, b.use] .pair
  | .hash64 d a b _ => Shape.lane .y d [a.use64, b.use] .pair
  | .crc d a b _ => Shape.lane .y d [a.use64, b.use]
  | .part d a b _ => Shape.laneVec .y d [a.use, b.use] .pair
  | .hist d a b _ =>
    { Shape.load .tile d .one [a.use, b.useU] b.name.isS with
      uniform := d.isS || (decide (d = .zero) && a.name.isUniform)
      thread := !(d.isS || (decide (d = .zero) && a.name.isUniform)) }
  | .scmp d a b _ => Shape.load .land d .one [a.use64, b.use64, SReg.use 27]
  | .sfind d a b _ => Shape.load .land d .one [a.use64, b.use, SReg.use 27]
  | .shash d a _ => Shape.load .land d .one [a.use64, SReg.use 27]
  | .spfx d a _ | .slen d a _ => Shape.load .land d .pair [a.use64, SReg.use 27]
  | .ld d b v _ w _ => Shape.load .land d (ldWidth w) [b.use, v.use]
  | .ldq d b v _ _ => Shape.load .land d .quad [b.use, v.use]
  | .ldcv d b v _ _ _ => Shape.load .land d .one [b.use, v.use]
  | .st d b v _ w _ => Shape.store d (ldWidth w) v [b.use, v.use]
  | .stq d b v _ _ => Shape.store d .quad v [b.use, v.use]
  | .stcv d b v _ _ _ => Shape.store d .one v [b.use, v.use]
  | .atom d b v o _ =>
    Shape.load .land d (atomWidth o) [d.useW (atomWidth o), b.use, v.use] (decide (o.toNat ≤ 14))
  | .red d b v o _ => Shape.store d (atomWidth o) v [b.use, v.use] (decide (o.toNat ≤ 10))
  | .pref b v _ w _ => { Shape.act .none .zero [b.use, v.use] .none (decide (w.toNat ≤ 2)) with thread := true }
  | .mona d b v _ w _ =>
    { Shape.load .land d (ldWidth w) [b.use, { v.use with uni := true }] with uniform := false, thread := false }
  | .poll d b v _ _ _ =>
    { Shape.load .land d .one [d.use, b.use, { v.use with uni := true }] with kind := .sOnly, thread := false }
  | .waitm a _ => Shape.act .none .zero [a.useU] .none
  | .tld d b v _ w _ => Shape.load .tile d (tldWidth w) [b.use, v.use]
  | .tst d b v _ w _ => Shape.store d (tldWidth w) v [b.use, v.use]
  | .tldt d b v _ w _ =>
    { Shape.load .tile d (if w then .quad else .pair) [b.use, v.use] (!d.isO) with kind := .vec }
  | .tatom d b v o _ =>
    Shape.load .tile d (atomWidth o) [d.useW (atomWidth o), b.use, v.use] (decide (o.toNat ≤ 14))
  | .cpyin d t k l _ _ | .cpyout d t k l _ _ | .cpygg d t k l _ _ | .gather d t k l _ _ | .scatter d t k l _ _
  | .pscat d t k l _ _ => copyShape d t k l
  | .defarr a f _ => Shape.act .none .zero [a.useU] .none (decide (f.toNat ≤ 15))
  | .cpyqStatus d a _ | .cpyqDrop d a _ => Shape.act .sZero d [a.useU] .land
  | .cpyqTl d _ => Shape.act .sZero d [] .land
  | .tbind d a _ _ => Shape.act .sZero d [a.useU]
  | .tsetEmpty a _ | .tsetFilling a _ | .tsetReady a _ | .tsetDraining a _ | .tfree a _ =>
    Shape.act .none .zero [a.useU] .none
  | .twait a k _ => Shape.act .none .zero [a.useU] .none (decide (1 ≤ k.toNat ∧ k.toNat ≤ 15))
  | .mma d a b f _ _ | .mepi d a b f _ _ =>
    Shape.act .sOnly d (fmtBlock f ++ [a.use, b.use, d.use]) .none (decide (f.toNat ≠ 15))
  | .mclose d _ => Shape.act .sZero d []
  | .mcloseResume d a _ => Shape.act .sZero d [a.useU]
  | .mwait d _ | .mabort d _ => Shape.act .sZero d [] .land
  | .gset a _ _ => Shape.act .none .zero (gsetSrcs a) .none (gsetOk a.name)
  | .gget d i _ => Shape.act .sOnly d [] .uni (decide (i.toNat < 40))
  | .bar d a _ m _ => Shape.act .any d [a.use] .uni (decide (m.toNat ≤ 6) &&
      (decide (m ≠ 0) || (decide (a = Src.null) && decide (d = .zero))))
  | .bara a _ m _ => Shape.act .none .zero [a.use] .none (decide (m.toNat ≤ 6) &&
      (decide (m ≠ 0) || decide (a = Src.null)))
  | .barw d _ _ => Shape.act .any d []
  | .tktTake d a _ _ => Shape.act .sEvenZero d [a.useU]
  | .tktWaitp d _ _ => Shape.act .sEvenZero d []
  | .tktPut a _ _ => Shape.act .none .zero [a.useU] .none
  | .tktSkip _ _ => Shape.act .none .zero [] .none
  | .qpush a _ _ => Shape.act .none .zero [a.useU] .none
  | .qpop d _ _ => Shape.act .sZero d []
  | .tlwait d a f _ => Shape.act .sZero d [a.useU] .uni (decide (f.toNat ≤ 1 ∨ (8 ≤ f.toNat ∧ f.toNat ≤ 15)))
  | .tlrd d _ _ => Shape.act .sOnly d []
  | .nred d a _ m _ => ⟨.vZero, d, .pair, [a.use], false, true, false, .land, false, decide (m.toNat ≤ 5)⟩
  | .elseI _ _ | .loop _ _ | .endloop _ _ | .bra _ _ | .brq _ _ _ | .ifp _ _ _ | .endif _ | .brk _ | .cont _
  | .yield _ | .exit _ | .nop _ => Shape.ctl .none .zero []
  | .call _ _ => Shape.ctl .none .zero []
  | .ret a _ | .jmpi a _ => Shape.ctl .none .zero [a.useU]
  | .calli d a _ => Shape.ctl .sOnly d [a.useU]
  | .elect d _ => Shape.ctl .sZero d []
  | .spawn d a _ _ => Shape.act .sZero d [a.useU] .land
  | .uisend d a _ => Shape.act .sZero d (uisendSrcs a) .land (evenS a.name)
  | .uimask d a _ | .uiack d a _ => Shape.act .sZero d [a.useU] .land
  | .uipend d a _ => Shape.act .sOnly d [a.useU] .land
  | .uiret _ => Shape.act .none .zero [] .none
  | .uiwait a _ => Shape.act .none .zero [a.useU] .none
  | .vacq _ | .vrel _ => Shape.act .none .zero [] .none
  | .vkill a _ => Shape.act .none .zero [] .none (decide (a.name ≠ .reserved))
  | .rdlive d a _ => Shape.act .sOnly d [a.useU]
  | .uprd d a _ => { Shape.act .vec d [] .x (a.name.isO || decide (a.name = .lx) || decide (a.name = .ly)) with
      kind := .vec }
  | .upwr d a _ => Shape.act .lowerO d [a.use] .none d.isO
  | .trap a _ => Shape.act .none .zero [a.useU] .none
  | .tret _ | .halt _ | .evict _ => Shape.act .none .zero [] .none
  | .classq d a _ | .faultreq d a _ => Shape.act .sZero d [a.useU] .land
  | .waitf d a _ => Shape.act .sZero d [a.useU]
  | .rdsr d i _ => Shape.act .sZero d [] .uni (sysRegExists i)
  | .wrsr a i _ => Shape.act .none .zero [a.useU] .none (sysRegExists i)
  | .movH d b s => { Shape.lane .x d.name [b.useD] with
      ok := !(decide (d = .v 0) && decide (b = .v 0) && !s) }
  | .movi5H d _ _ => shortImm d false
  | .iaddi5H d _ _ | .shli5H d _ _ | .shri5H d _ _ | .sari5H d _ _ => shortImm d true
  | .iaddH d b _ | .isubH d b _ | .andH d b _ | .orH d b _ | .xorH d b _ | .faddH d b _ | .fmulH d b _
  | .fmaxH d b _ => shortShape .x d b
  | .imulH d b _ => shortShape .y d b
  | .ffmaH d b _ => shortShape .x d b true
  | _ => Shape.event

/-- The switch marker of an instruction (R19); a step of the machine carries none. -/
def Instr.sw : Instr → Bool
  | .endif s | .brk s | .cont s | .yield s | .exit s | .nop s => s
  | .uiret s | .vacq s | .vrel s | .tret s | .halt s | .evict s => s
  | .elseI _ s | .loop _ s | .endloop _ s | .waitm _ s | .cpyqTl _ s | .tsetEmpty _ s => s
  | .tsetFilling _ s | .tsetReady _ s | .tsetDraining _ s | .tfree _ s | .mclose _ s | .mwait _ s => s
  | .mabort _ s | .tktSkip _ s | .bra _ s | .call _ s | .ret _ s | .jmpi _ s => s
  | .elect _ s | .uiwait _ s | .vkill _ s | .trap _ s => s
  | .movi _ _ s | .movhi _ _ s | .voteAny _ _ s | .voteAll _ _ s | .voteBallot _ _ s | .voteCount _ _ s => s
  | .shash _ _ s | .spfx _ _ s | .slen _ _ s | .defarr _ _ s | .cpyqStatus _ _ s | .cpyqDrop _ _ s => s
  | .twait _ _ s | .mcloseResume _ _ s | .gset _ _ s | .gget _ _ s | .barw _ _ s | .tktWaitp _ _ s => s
  | .tktPut _ _ s | .qpush _ _ s | .qpop _ _ s | .tlrd _ _ s | .brq _ _ s | .ifp _ _ s => s
  | .calli _ _ s | .uisend _ _ s | .uimask _ _ s | .uipend _ _ s | .uiack _ _ s | .rdlive _ _ s => s
  | .uprd _ _ s | .upwr _ _ s | .classq _ _ s | .faultreq _ _ s | .waitf _ _ s | .rdsr _ _ s => s
  | .wrsr _ _ s | .movH _ _ s | .movi5H _ _ s | .iaddH _ _ s | .iaddi5H _ _ s | .isubH _ _ s => s
  | .imulH _ _ s | .andH _ _ s | .orH _ _ s | .xorH _ _ s | .shli5H _ _ s | .shri5H _ _ s => s
  | .sari5H _ _ s | .faddH _ _ s | .fmulH _ _ s | .ffmaH _ _ s | .fmaxH _ _ s => s
  | .iadd _ _ _ s | .isub _ _ _ s | .imul _ _ _ s | .imad _ _ _ s | .imulh _ _ _ s | .imulhn _ _ _ s => s
  | .imin _ _ _ s | .iminn _ _ _ s | .imax _ _ _ s | .imaxn _ _ _ s | .and _ _ _ s | .or _ _ _ s => s
  | .xor _ _ _ s | .andn _ _ _ s | .shl _ _ _ s | .shr _ _ _ s | .sar _ _ _ s | .rotl _ _ _ s => s
  | .iadd64 _ _ _ s | .isub64 _ _ _ s | .lea _ _ _ s | .sel _ _ _ s | .bfe _ _ _ s | .bfi _ _ _ s => s
  | .iaddi _ _ _ s | .andi _ _ _ s | .ori _ _ _ s | .xori _ _ _ s | .shli _ _ _ s | .shri _ _ _ s => s
  | .sari _ _ _ s | .iun _ _ _ s | .idiv _ _ _ s | .idivn _ _ _ s | .irem _ _ _ s | .iremn _ _ _ s => s
  | .fadd _ _ _ s | .fsub _ _ _ s | .fmul _ _ _ s | .ffma _ _ _ s | .fmin _ _ _ s | .fmax _ _ _ s => s
  | .fdiv _ _ _ s | .fadd2 _ _ _ s | .fmul2 _ _ _ s | .ffma2 _ _ _ s | .fdot2 _ _ _ s | .cvtF2bf _ _ _ s => s
  | .cvtBf2f _ _ _ s | .cvtF2i _ _ _ s | .cvtF2n _ _ _ s | .cvtI2f _ _ _ s | .cvtN2f _ _ _ s | .cvtF2i64 _ _ _ s => s
  | .cvtI642f _ _ _ s | .shfl _ _ _ s | .shflx _ _ _ s | .rdlane _ _ _ s | .wrlane _ _ _ s | .reduce _ _ _ s => s
  | .matchI _ _ _ s | .hash _ _ _ s | .hash64 _ _ _ s | .crc _ _ _ s | .part _ _ _ s | .hist _ _ _ s => s
  | .scmp _ _ _ s | .sfind _ _ _ s | .tbind _ _ _ s | .bara _ _ _ s | .tktTake _ _ _ s | .tlwait _ _ _ s => s
  | .spawn _ _ _ s => s
  | .icmp _ _ _ _ s | .fcmp _ _ _ _ s | .funI _ _ _ _ s | .scan _ _ _ _ s | .ldq _ _ _ _ s | .stq _ _ _ _ s => s
  | .atom _ _ _ _ s | .red _ _ _ _ s | .tatom _ _ _ _ s | .pref _ _ _ _ s | .bar _ _ _ _ s | .nred _ _ _ _ s => s
  | .ld _ _ _ _ _ s | .st _ _ _ _ _ s | .ldcv _ _ _ _ _ s | .stcv _ _ _ _ _ s | .tld _ _ _ _ _ s | .tst _ _ _ _ _ s => s
  | .tldt _ _ _ _ _ s | .mona _ _ _ _ _ s | .poll _ _ _ _ _ s | .cpyin _ _ _ _ _ s | .cpyout _ _ _ _ _ s | .cpygg _ _ _ _ _ s => s
  | .gather _ _ _ _ _ s | .scatter _ _ _ _ _ s | .pscat _ _ _ _ _ s | .mma _ _ _ _ _ s | .mepi _ _ _ _ _ s => s
  | _ => false

/-- Whether a name can stand for an operand of the width (R27, R30). -/
def Name.fits (w : Width) : Name → Bool
  | .v n => match w with
    | .one => true
    | .pair => n.val % 2 = 0
    | .quad => n.val % 4 = 0
  | .o n => match w with
    | .one => true
    | .pair => n.val % 2 = 0
    | .quad => false
  | .s n => match w with
    | .quad => n.val % 2 = 0
    | _ => true
  | .zero => true
  | .reserved => false
  | _ => decide (w = .one)

/-- Whether a name can be the destination (R28, R30 and the owning chapter's condition). -/
def Name.dstFits (w : Width) (n : Name) : DstKind → Bool
  | .none => true
  | .any => n.fits w && (n.isV || n.isO || n.isS || decide (n = .zero))
  | .sOnly => n.fits w && n.isS
  | .sZero => n.fits w && (n.isS || decide (n = .zero))
  | .sEvenZero => match n with
    | .s r => r.val % 2 = 0
    | n => decide (n = .zero)
  | .vec => n.fits w && (n.isV || n.isO || decide (n = .zero))
  | .vZero => n.fits w && (n.isV || decide (n = .zero))
  | .lowerO => n.isO

/-- Whether the operands of an instruction are what R29, R30 and R40 allow: the check before issue that traps with
ILLEGAL. It needs no state; what depends on the ply (R39, R32, the producer role of DEFARR) is checked at issue. -/
def Instr.legal (i : Instr) : Bool :=
  let h := i.shape
  h.ok && h.dst.dstFits h.dstW h.kind &&
    h.srcs.all fun u => u.name.fits u.width && (!(h.uniform || u.uni) || u.name.isUniform)

end Sys2Proof
end

