-- ==== Sys2Proof/Decode.lean ====
section
/-! DEFINITION. Decoding and encoding (R18 to R40). Decoding is total: it answers the one instruction whose fixed bits a
word holds, or a named reason. What R40 asks of operand names beyond the fixed bits is `Instr.legal`. The encoder is
written from the same field layouts (R23, R25). -/

namespace Sys2Proof

/-- Why bits are not an instruction (R40). -/
inductive DecodeError where
  /-- fewer bytes than the first parcel asks for -/
  | truncated
  /-- the parcel 0x0000 (R22) -/
  | zeroParcel
  /-- op7 = 0x7F -/
  | reservedOpcode
  /-- a minor that R37 or the owning chapter does not list -/
  | reservedMinor (op : Nat)
  /-- an unused field that does not hold its null value -/
  | nonNullField (op : Nat)
deriving DecidableEq, Repr

/-- The 7-bit code of a name (R27). -/
def Name.bits : Name → BitVec 7
  | .v n => BitVec.ofNat 7 n.val
  | .o n => BitVec.ofNat 7 (0x50 + n.val)
  | .lx => 0x58
  | .ly => 0x59
  | .zero => 0x5A
  | .laneid => 0x5B
  | .tid => 0x5C
  | .plyid => 0x5D
  | .skeinid => 0x5E
  | .reserved => 0x5F
  | .s n => BitVec.ofNat 7 (0x60 + n.val)

/-- The name of a 7-bit code (R27). -/
def Name.ofBits (b : BitVec 7) : Name :=
  let n := b.toNat
  if h : n < 80 then .v ⟨n, h⟩
  else if h : n < 88 then .o ⟨n - 80, by omega⟩
  else if h : 96 ≤ n then .s ⟨n - 96, by have := b.isLt; omega⟩
  else match n with
    | 88 => .lx
    | 89 => .ly
    | 90 => .zero
    | 91 => .laneid
    | 92 => .tid
    | 93 => .plyid
    | 94 => .skeinid
    | _ => .reserved

/-- The 8 bits of a source field (R24). -/
def Src.bits (a : Src) : BitVec 8 := BitVec.ofBool a.dead ++ a.name.bits

def Src.ofBits (b : BitVec 8) : Src := ⟨b.getLsbD 7, Name.ofBits (b.extractLsb' 0 7)⟩

/-- The 5-bit code of a name of a 16-bit form (R33). -/
def Short.bits : Short → BitVec 5
  | .v n => BitVec.ofNat 5 n.val
  | .o n => BitVec.ofNat 5 (16 + n.val)
  | .lx => 24
  | .ly => 25
  | .zero => 26
  | .s n => BitVec.ofNat 5 (27 + n.val)

def Short.ofBits (b : BitVec 5) : Short :=
  let n := b.toNat
  if h : n < 16 then .v ⟨n, h⟩
  else if h : n < 24 then .o ⟨n - 16, by omega⟩
  else if h : 27 ≤ n then .s ⟨n - 27, by have := b.isLt; omega⟩
  else match n with
    | 24 => .lx
    | 25 => .ly
    | _ => .zero

/-- A 5-bit field that names an s-register (R24). -/
def SReg.bits (r : SReg) : BitVec 5 := BitVec.ofNat 5 r.val

def SReg.ofBits (b : BitVec 5) : SReg := ⟨b.toNat, b.isLt⟩

/-- The bits of an instruction: one parcel, one word of two parcels, or none for a step without an encoding. -/
inductive Enc where
  | short (p : Parcel)
  | long (w : Word)
  | none
deriving DecidableEq, Repr

/-- The encoding as XVAL holds it (R40). -/
def Enc.value : Enc → DWord
  | .short p => p.setWidth 64
  | .long w => w.setWidth 64
  | .none => 0

/-- How many bytes the instruction takes (R18). -/
def Enc.size : Enc → Nat
  | .short _ => 2
  | .long _ => 4
  | .none => 0

/-- The bytes in memory, lowest address first: little-endian parcels (R18). -/
def Enc.bytes : Enc → List Byte
  | .short p => [p.extractLsb' 0 8, p.extractLsb' 8 8]
  | .long w => [w.extractLsb' 0 8, w.extractLsb' 8 8, w.extractLsb' 16 8, w.extractLsb' 24 8]
  | .none => []

/-- A word of format F3 (R23). -/
def encF3 (op : BitVec 7) (sw : Bool) (b : BitVec 8) (a : BitVec 8) (d : BitVec 7) : Enc :=
  .long (b ++ a ++ d ++ op ++ BitVec.ofBool sw ++ 1#1)

/-- A word of format FI (R23). -/
def encFI (op : BitVec 7) (sw : Bool) (i : BitVec 8) (a : BitVec 8) (d : BitVec 7) : Enc :=
  .long (i ++ a ++ d ++ op ++ BitVec.ofBool sw ++ 1#1)

/-- A word of format FW (R23). -/
def encFW (op : BitVec 7) (sw : Bool) (i : BitVec 16) (d : BitVec 7) : Enc :=
  .long (i ++ d ++ op ++ BitVec.ofBool sw ++ 1#1)

/-- A word of format FC (R23). -/
def encFC (op : BitVec 7) (sw : Bool) (p : BitVec 3) (c : BitVec 5) (a : BitVec 8) (b : BitVec 7) : Enc :=
  .long (p ++ c ++ a ++ b ++ op ++ BitVec.ofBool sw ++ 1#1)

/-- A word of format FX (R23). -/
def encFX (op : BitVec 7) (sw : Bool) (m : BitVec 3) (f : BitVec 5) (a : BitVec 8) (d : BitVec 7) : Enc :=
  .long (m ++ f ++ a ++ d ++ op ++ BitVec.ofBool sw ++ 1#1)

/-- A word of format FM (R23). -/
def encFM (op : BitVec 7) (sw : Bool) (w : BitVec 2) (c : BitVec 2) (v : BitVec 7) (b : BitVec 5) (d : BitVec 7) : Enc :=
  .long (w ++ c ++ v ++ b ++ d ++ op ++ BitVec.ofBool sw ++ 1#1)

/-- A word of format FA (R23). -/
def encFA (op : BitVec 7) (sw : Bool) (o : BitVec 4) (v : BitVec 7) (b : BitVec 5) (d : BitVec 7) : Enc :=
  .long (o ++ v ++ b ++ d ++ op ++ BitVec.ofBool sw ++ 1#1)

/-- A word of format FB (R23). -/
def encFB (op : BitVec 7) (sw : Bool) (o : BitVec 19) (p : BitVec 4) : Enc :=
  .long (o ++ p ++ op ++ BitVec.ofBool sw ++ 1#1)

/-- A word of format FBL (R23). -/
def encFBL (op : BitVec 7) (sw : Bool) (o : BitVec 23) : Enc :=
  .long (o ++ op ++ BitVec.ofBool sw ++ 1#1)

/-- A word of format FK (R23). -/
def encFK (op : BitVec 7) (sw : Bool) (h : BitVec 1) (t : BitVec 5) (k : BitVec 5) (l : BitVec 5) (d : BitVec 7) : Enc :=
  .long (h ++ t ++ k ++ l ++ d ++ op ++ BitVec.ofBool sw ++ 1#1)

/-- A word of format FMM (R23). -/
def encFMM (op : BitVec 7) (sw : Bool) (e : BitVec 2) (f : BitVec 4) (b : BitVec 5) (a : BitVec 5) (d : BitVec 7) : Enc :=
  .long (e ++ f ++ b ++ a ++ d ++ op ++ BitVec.ofBool sw ++ 1#1)

/-- A 16-bit form (R25). -/
def encH (op : BitVec 4) (sw : Bool) (b d : BitVec 5) : Enc :=
  .short (b ++ d ++ op ++ BitVec.ofBool sw ++ 0#1)

/-- The encoding of each instruction, field by field (R23 to R38). -/
def encode : Instr → Enc
  | .iadd d a b s => encF3 0x00 s b.bits a.bits d.bits
  | .isub d a b s => encF3 0x01 s b.bits a.bits d.bits
  | .imul d a b s => encF3 0x02 s b.bits a.bits d.bits
  | .imad d a b s => encF3 0x03 s b.bits a.bits d.bits
  | .imulh d a b s => encF3 0x04 s b.bits a.bits d.bits
  | .imulhn d a b s => encF3 0x05 s b.bits a.bits d.bits
  | .imin d a b s => encF3 0x06 s b.bits a.bits d.bits
  | .iminn d a b s => encF3 0x07 s b.bits a.bits d.bits
  | .imax d a b s => encF3 0x08 s b.bits a.bits d.bits
  | .imaxn d a b s => encF3 0x09 s b.bits a.bits d.bits
  | .and d a b s => encF3 0x0A s b.bits a.bits d.bits
  | .or d a b s => encF3 0x0B s b.bits a.bits d.bits
  | .xor d a b s => encF3 0x0C s b.bits a.bits d.bits
  | .andn d a b s => encF3 0x0D s b.bits a.bits d.bits
  | .shl d a b s => encF3 0x0E s b.bits a.bits d.bits
  | .shr d a b s => encF3 0x0F s b.bits a.bits d.bits
  | .sar d a b s => encF3 0x10 s b.bits a.bits d.bits
  | .rotl d a b s => encF3 0x11 s b.bits a.bits d.bits
  | .iadd64 d a b s => encF3 0x12 s b.bits a.bits d.bits
  | .isub64 d a b s => encF3 0x13 s b.bits a.bits d.bits
  | .lea d a b s => encF3 0x14 s b.bits a.bits d.bits
  | .sel d a b s => encF3 0x15 s b.bits a.bits d.bits
  | .bfe d a b s => encF3 0x16 s b.bits a.bits d.bits
  | .bfi d a b s => encF3 0x17 s b.bits a.bits d.bits
  | .iaddi d a i s => encFI 0x18 s i a.bits d.bits
  | .andi d a i s => encFI 0x19 s i a.bits d.bits
  | .ori d a i s => encFI 0x1A s i a.bits d.bits
  | .xori d a i s => encFI 0x1B s i a.bits d.bits
  | .shli d a i s => encFI 0x1C s (0#1 ++ i) a.bits d.bits
  | .shri d a i s => encFI 0x1D s (0#1 ++ i) a.bits d.bits
  | .sari d a i s => encFI 0x1E s (0#1 ++ i) a.bits d.bits
  | .movi d i s => encFW 0x1F s i d.bits
  | .movhi d i s => encFW 0x20 s i d.bits
  | .icmp a b p c s => encFC 0x21 s p c a.bits b.bits
  | .iun d a f s => encFX 0x22 s 0x0#3 f a.bits d.bits
  | .idiv d a b s => encF3 0x23 s b.bits a.bits d.bits
  | .idivn d a b s => encF3 0x24 s b.bits a.bits d.bits
  | .irem d a b s => encF3 0x25 s b.bits a.bits d.bits
  | .iremn d a b s => encF3 0x26 s b.bits a.bits d.bits
  | .elseI o s => encFB 0x27 s o 0x0#4
  | .fadd d a b s => encF3 0x28 s b.bits a.bits d.bits
  | .fsub d a b s => encF3 0x29 s b.bits a.bits d.bits
  | .fmul d a b s => encF3 0x2A s b.bits a.bits d.bits
  | .ffma d a b s => encF3 0x2B s b.bits a.bits d.bits
  | .fmin d a b s => encF3 0x2C s b.bits a.bits d.bits
  | .fmax d a b s => encF3 0x2D s b.bits a.bits d.bits
  | .fdiv d a b s => encF3 0x2E s b.bits a.bits d.bits
  | .fadd2 d a b s => encF3 0x2F s b.bits a.bits d.bits
  | .fmul2 d a b s => encF3 0x30 s b.bits a.bits d.bits
  | .ffma2 d a b s => encF3 0x31 s b.bits a.bits d.bits
  | .fdot2 d a b s => encF3 0x32 s b.bits a.bits d.bits
  | .fcmp a b p c s => encFC 0x33 s p c a.bits b.bits
  | .funI d a f m s => encFX 0x34 s m f a.bits d.bits
  | .cvtF2bf d a m s => encFX 0x35 s m 0x0#5 a.bits d.bits
  | .cvtBf2f d a m s => encFX 0x35 s (0#2 ++ (BitVec.ofBool m)) 0x1#5 a.bits d.bits
  | .cvtF2i d a m s => encFX 0x35 s m 0x2#5 a.bits d.bits
  | .cvtF2n d a m s => encFX 0x35 s m 0x3#5 a.bits d.bits
  | .cvtI2f d a m s => encFX 0x35 s m 0x4#5 a.bits d.bits
  | .cvtN2f d a m s => encFX 0x35 s m 0x5#5 a.bits d.bits
  | .cvtF2i64 d a m s => encFX 0x35 s m 0x6#5 a.bits d.bits
  | .cvtI642f d a m s => encFX 0x35 s m 0x7#5 a.bits d.bits
  | .loop o s => encFB 0x36 s o 0x0#4
  | .endloop o s => encFB 0x37 s o 0x0#4
  | .shfl d a b s => encF3 0x38 s b.bits a.bits d.bits
  | .shflx d a i s => encFI 0x39 s i a.bits d.bits
  | .rdlane d a i s => encFI 0x3A s i a.bits d.bits
  | .wrlane d a i s => encFI 0x3B s i a.bits d.bits
  | .voteAny d p s => encFX 0x3C s p 0x0#5 0x5A#8 d.bits
  | .voteAll d p s => encFX 0x3C s p 0x1#5 0x5A#8 d.bits
  | .voteBallot d p s => encFX 0x3C s p 0x2#5 0x5A#8 d.bits
  | .voteCount d p s => encFX 0x3C s p 0x3#5 0x5A#8 d.bits
  | .scan d a f e s => encFX 0x3D s (0#2 ++ (BitVec.ofBool e)) f a.bits d.bits
  | .reduce d a f s => encFX 0x3E s 0x0#3 f a.bits d.bits
  | .matchI d a b s => encF3 0x3F s b.bits a.bits d.bits
  | .hash d a b s => encF3 0x40 s b.bits a.bits d.bits
  | .hash64 d a b s => encF3 0x41 s b.bits a.bits d.bits
  | .crc d a b s => encF3 0x42 s b.bits a.bits d.bits
  | .part d a b s => encF3 0x43 s b.bits a.bits d.bits
  | .hist d a b s => encF3 0x44 s b.bits a.bits d.bits
  | .scmp d a b s => encF3 0x45 s b.bits a.bits d.bits
  | .shash d a s => encFX 0x46 s 0x0#3 0x0#5 a.bits d.bits
  | .spfx d a s => encFX 0x46 s 0x0#3 0x1#5 a.bits d.bits
  | .slen d a s => encFX 0x46 s 0x0#3 0x2#5 a.bits d.bits
  | .sfind d a b s => encF3 0x47 s b.bits a.bits d.bits
  | .ld d b v c w s => encFM 0x48 s w c v.bits b.bits d.bits
  | .st d b v c w s => encFM 0x49 s w c v.bits b.bits d.bits
  | .ldq d b v c s => encFM 0x4A s 0x0#2 c v.bits b.bits d.bits
  | .stq d b v c s => encFM 0x4B s 0x0#2 c v.bits b.bits d.bits
  | .ldcv d b v c w s => encFM 0x4C s w c v.bits b.bits d.bits
  | .stcv d b v c w s => encFM 0x4D s w c v.bits b.bits d.bits
  | .atom d b v o s => encFA 0x4E s o v.bits b.bits d.bits
  | .red d b v o s => encFA 0x4F s o v.bits b.bits d.bits
  | .tld d b v c w s => encFM 0x50 s w c v.bits b.bits d.bits
  | .tst d b v c w s => encFM 0x51 s w c v.bits b.bits d.bits
  | .tldt d b v c w s => encFM 0x52 s (0#1 ++ (BitVec.ofBool w)) c v.bits b.bits d.bits
  | .tatom d b v o s => encFA 0x53 s o v.bits b.bits d.bits
  | .pref b v c w s => encFM 0x54 s w c v.bits b.bits 0x5A#7
  | .mona d b v c w s => encFM 0x55 s w c v.bits b.bits d.bits
  | .waitm a s => encFX 0x56 s 0x0#3 0x0#5 a.bits 0x5A#7
  | .poll d b v c w s => encFM 0x57 s w c v.bits b.bits d.bits
  | .cpyin d t k l h s => encFK 0x58 s (BitVec.ofBool h) t.bits k.bits l.bits d.bits
  | .cpyout d t k l h s => encFK 0x59 s (BitVec.ofBool h) t.bits k.bits l.bits d.bits
  | .cpygg d t k l h s => encFK 0x5A s (BitVec.ofBool h) t.bits k.bits l.bits d.bits
  | .gather d t k l h s => encFK 0x5B s (BitVec.ofBool h) t.bits k.bits l.bits d.bits
  | .scatter d t k l h s => encFK 0x5C s (BitVec.ofBool h) t.bits k.bits l.bits d.bits
  | .pscat d t k l h s => encFK 0x5D s (BitVec.ofBool h) t.bits k.bits l.bits d.bits
  | .defarr a f s => encFX 0x5E s 0x0#3 f a.bits 0x5A#7
  | .cpyqStatus d a s => encFX 0x5F s 0x0#3 0x0#5 a.bits d.bits
  | .cpyqTl d s => encFX 0x5F s 0x0#3 0x1#5 0x5A#8 d.bits
  | .cpyqDrop d a s => encFX 0x5F s 0x0#3 0x2#5 a.bits d.bits
  | .tbind d a h s => encFX 0x60 s 0x0#3 h a.bits d.bits
  | .tsetEmpty a s => encFX 0x61 s 0x0#3 0x0#5 a.bits 0x5A#7
  | .tsetFilling a s => encFX 0x61 s 0x0#3 0x1#5 a.bits 0x5A#7
  | .tsetReady a s => encFX 0x61 s 0x0#3 0x2#5 a.bits 0x5A#7
  | .tsetDraining a s => encFX 0x61 s 0x0#3 0x3#5 a.bits 0x5A#7
  | .twait a k s => encFX 0x62 s 0x0#3 k a.bits 0x5A#7
  | .tfree a s => encFX 0x63 s 0x0#3 0x0#5 a.bits 0x5A#7
  | .mma d a b f e s => encFMM 0x64 s e f b.bits a.bits d.bits
  | .mclose d s => encFX 0x65 s 0x0#3 0x0#5 0x5A#8 d.bits
  | .mcloseResume d a s => encFX 0x65 s 0x0#3 0x1#5 a.bits d.bits
  | .mwait d s => encFX 0x66 s 0x0#3 0x0#5 0x5A#8 d.bits
  | .mabort d s => encFX 0x67 s 0x0#3 0x0#5 0x5A#8 d.bits
  | .mepi d a b f e s => encFMM 0x68 s e f b.bits a.bits d.bits
  | .gset a g s => encFX 0x69 s 0x0#3 (0#2 ++ g) a.bits 0x5A#7
  | .gget d i s => encFI 0x6A s i 0x5A#8 d.bits
  | .bar d a b m s => encFX 0x6B s m (0#1 ++ b) a.bits d.bits
  | .bara a b m s => encFX 0x6C s m (0#1 ++ b) a.bits 0x5A#7
  | .barw d b s => encFX 0x6D s 0x0#3 (0#1 ++ b) 0x5A#8 d.bits
  | .tktTake d a c s => encFX 0x6E s c 0x0#5 a.bits d.bits
  | .tktWaitp d c s => encFX 0x6E s c 0x1#5 0x5A#8 d.bits
  | .tktPut a c s => encFX 0x6E s c 0x2#5 a.bits 0x5A#7
  | .tktSkip c s => encFX 0x6E s c 0x3#5 0x5A#8 0x5A#7
  | .qpush a q s => encFX 0x6F s 0x0#3 (0#2 ++ q) a.bits 0x5A#7
  | .qpop d q s => encFX 0x70 s 0x0#3 (0#2 ++ q) 0x5A#8 d.bits
  | .tlwait d a f s => encFX 0x71 s 0x0#3 f a.bits d.bits
  | .tlrd d f s => encFX 0x72 s 0x0#3 (0#4 ++ (BitVec.ofBool f)) 0x5A#8 d.bits
  | .nred d a t m s => encFX 0x73 s m t a.bits d.bits
  | .bra o s => encFBL 0x74 s o
  | .brq p o s => encFB 0x75 s o p
  | .ifp p o s => encFB 0x76 s o p
  | .call o s => encFBL 0x77 s o
  | .endif s => encFX 0x78 s 0x0#3 0x0#5 0x5A#8 0x5A#7
  | .brk s => encFX 0x78 s 0x0#3 0x1#5 0x5A#8 0x5A#7
  | .cont s => encFX 0x78 s 0x0#3 0x2#5 0x5A#8 0x5A#7
  | .ret a s => encFX 0x78 s 0x0#3 0x3#5 a.bits 0x5A#7
  | .jmpi a s => encFX 0x78 s 0x0#3 0x4#5 a.bits 0x5A#7
  | .calli d a s => encFX 0x78 s 0x0#3 0x5#5 a.bits d.bits
  | .elect d s => encFX 0x78 s 0x0#3 0x6#5 0x5A#8 d.bits
  | .yield s => encFX 0x78 s 0x0#3 0x7#5 0x5A#8 0x5A#7
  | .exit s => encFX 0x78 s 0x0#3 0x8#5 0x5A#8 0x5A#7
  | .nop s => encFX 0x78 s 0x0#3 0x9#5 0x5A#8 0x5A#7
  | .spawn d a q s => encFX 0x79 s 0x0#3 (0#2 ++ q) a.bits d.bits
  | .uisend d a s => encFX 0x7A s 0x0#3 0x0#5 a.bits d.bits
  | .uimask d a s => encFX 0x7A s 0x0#3 0x1#5 a.bits d.bits
  | .uipend d a s => encFX 0x7A s 0x0#3 0x2#5 a.bits d.bits
  | .uiack d a s => encFX 0x7A s 0x0#3 0x3#5 a.bits d.bits
  | .uiret s => encFX 0x7A s 0x0#3 0x4#5 0x5A#8 0x5A#7
  | .uiwait a s => encFX 0x7A s 0x0#3 0x5#5 a.bits 0x5A#7
  | .vacq s => encFX 0x7B s 0x0#3 0x0#5 0x5A#8 0x5A#7
  | .vrel s => encFX 0x7B s 0x0#3 0x1#5 0x5A#8 0x5A#7
  | .vkill a s => encFX 0x7B s 0x0#3 0x2#5 a.bits 0x5A#7
  | .rdlive d a s => encFX 0x7B s 0x0#3 0x3#5 a.bits d.bits
  | .uprd d a s => encFX 0x7B s 0x0#3 0x4#5 a.bits d.bits
  | .upwr d a s => encFX 0x7B s 0x0#3 0x5#5 a.bits d.bits
  | .trap a s => encFX 0x7C s 0x0#3 0x0#5 a.bits 0x5A#7
  | .tret s => encFX 0x7C s 0x0#3 0x1#5 0x5A#8 0x5A#7
  | .halt s => encFX 0x7C s 0x0#3 0x2#5 0x5A#8 0x5A#7
  | .classq d a s => encFX 0x7C s 0x0#3 0x3#5 a.bits d.bits
  | .evict s => encFX 0x7C s 0x0#3 0x4#5 0x5A#8 0x5A#7
  | .faultreq d a s => encFX 0x7C s 0x0#3 0x5#5 a.bits d.bits
  | .waitf d a s => encFX 0x7C s 0x0#3 0x6#5 a.bits d.bits
  | .rdsr d i s => encFI 0x7D s i 0x5A#8 d.bits
  | .wrsr a i s => encFI 0x7E s i a.bits 0x5A#7
  | .movH d b s => encH 0x00 s b.bits d.bits
  | .movi5H d i s => encH 0x01 s i d.bits
  | .iaddH d b s => encH 0x02 s b.bits d.bits
  | .iaddi5H d i s => encH 0x03 s i d.bits
  | .isubH d b s => encH 0x04 s b.bits d.bits
  | .imulH d b s => encH 0x05 s b.bits d.bits
  | .andH d b s => encH 0x06 s b.bits d.bits
  | .orH d b s => encH 0x07 s b.bits d.bits
  | .xorH d b s => encH 0x08 s b.bits d.bits
  | .shli5H d i s => encH 0x09 s i d.bits
  | .shri5H d i s => encH 0x0A s i d.bits
  | .sari5H d i s => encH 0x0B s i d.bits
  | .faddH d b s => encH 0x0C s b.bits d.bits
  | .fmulH d b s => encH 0x0D s b.bits d.bits
  | .ffmaH d b s => encH 0x0E s b.bits d.bits
  | .fmaxH d b s => encH 0x0F s b.bits d.bits
  | _ => .none

/-- Major opcodes 0x00 to 0x07 (R34). -/
def decodeRow0 (w : Word) : Except DecodeError Instr :=
  match (w.extractLsb' 2 3).toNat with
  | 0 => .ok (.iadd (Name.ofBits (w.extractLsb' 9 7)) (Src.ofBits (w.extractLsb' 16 8)) (Src.ofBits (w.extractLsb' 24 8)) (w.getLsbD 1))
  | 1 => .ok (.isub (Name.ofBits (w.extractLsb' 9 7)) (Src.ofBits (w.extractLsb' 16 8)) (Src.ofBits (w.extractLsb' 24 8)) (w.getLsbD 1))
  | 2 => .ok (.imul (Name.ofBits (w.extractLsb' 9 7)) (Src.ofBits (w.extractLsb' 16 8)) (Src.ofBits (w.extractLsb' 24 8)) (w.getLsbD 1))
  | 3 => .ok (.imad (Name.ofBits (w.extractLsb' 9 7)) (Src.ofBits (w.extractLsb' 16 8)) (Src.ofBits (w.extractLsb' 24 8)) (w.getLsbD 1))
  | 4 => .ok (.imulh (Name.ofBits (w.extractLsb' 9 7)) (Src.ofBits (w.extractLsb' 16 8)) (Src.ofBits (w.extractLsb' 24 8)) (w.getLsbD 1))
  | 5 => .ok (.imulhn (Name.ofBits (w.extractLsb' 9 7)) (Src.ofBits (w.extractLsb' 16 8)) (Src.ofBits (w.extractLsb' 24 8)) (w.getLsbD 1))
  | 6 => .ok (.imin (Name.ofBits (w.extractLsb' 9 7)) (Src.ofBits (w.extractLsb' 16 8)) (Src.ofBits (w.extractLsb' 24 8)) (w.getLsbD 1))
  | _ => .ok (.iminn (Name.ofBits (w.extractLsb' 9 7)) (Src.ofBits (w.extractLsb' 16 8)) (Src.ofBits (w.extractLsb' 24 8)) (w.getLsbD 1))

/-- Major opcodes 0x08 to 0x0F (R34). -/
def decodeRow1 (w : Word) : Except DecodeError Instr :=
  match (w.extractLsb' 2 3).toNat with
  | 0 => .ok (.imax (Name.ofBits (w.extractLsb' 9 7)) (Src.ofBits (w.extractLsb' 16 8)) (Src.ofBits (w.extractLsb' 24 8)) (w.getLsbD 1))
  | 1 => .ok (.imaxn (Name.ofBits (w.extractLsb' 9 7)) (Src.ofBits (w.extractLsb' 16 8)) (Src.ofBits (w.extractLsb' 24 8)) (w.getLsbD 1))
  | 2 => .ok (.and (Name.ofBits (w.extractLsb' 9 7)) (Src.ofBits (w.extractLsb' 16 8)) (Src.ofBits (w.extractLsb' 24 8)) (w.getLsbD 1))
  | 3 => .ok (.or (Name.ofBits (w.extractLsb' 9 7)) (Src.ofBits (w.extractLsb' 16 8)) (Src.ofBits (w.extractLsb' 24 8)) (w.getLsbD 1))
  | 4 => .ok (.xor (Name.ofBits (w.extractLsb' 9 7)) (Src.ofBits (w.extractLsb' 16 8)) (Src.ofBits (w.extractLsb' 24 8)) (w.getLsbD 1))
  | 5 => .ok (.andn (Name.ofBits (w.extractLsb' 9 7)) (Src.ofBits (w.extractLsb' 16 8)) (Src.ofBits (w.extractLsb' 24 8)) (w.getLsbD 1))
  | 6 => .ok (.shl (Name.ofBits (w.extractLsb' 9 7)) (Src.ofBits (w.extractLsb' 16 8)) (Src.ofBits (w.extractLsb' 24 8)) (w.getLsbD 1))
  | _ => .ok (.shr (Name.ofBits (w.extractLsb' 9 7)) (Src.ofBits (w.extractLsb' 16 8)) (Src.ofBits (w.extractLsb' 24 8)) (w.getLsbD 1))

/-- Major opcodes 0x10 to 0x17 (R34). -/
def decodeRow2 (w : Word) : Except DecodeError Instr :=
  match (w.extractLsb' 2 3).toNat with
  | 0 => .ok (.sar (Name.ofBits (w.extractLsb' 9 7)) (Src.ofBits (w.extractLsb' 16 8)) (Src.ofBits (w.extractLsb' 24 8)) (w.getLsbD 1))
  | 1 => .ok (.rotl (Name.ofBits (w.extractLsb' 9 7)) (Src.ofBits (w.extractLsb' 16 8)) (Src.ofBits (w.extractLsb' 24 8)) (w.getLsbD 1))
  | 2 => .ok (.iadd64 (Name.ofBits (w.extractLsb' 9 7)) (Src.ofBits (w.extractLsb' 16 8)) (Src.ofBits (w.extractLsb' 24 8)) (w.getLsbD 1))
  | 3 => .ok (.isub64 (Name.ofBits (w.extractLsb' 9 7)) (Src.ofBits (w.extractLsb' 16 8)) (Src.ofBits (w.extractLsb' 24 8)) (w.getLsbD 1))
  | 4 => .ok (.lea (Name.ofBits (w.extractLsb' 9 7)) (Src.ofBits (w.extractLsb' 16 8)) (Src.ofBits (w.extractLsb' 24 8)) (w.getLsbD 1))
  | 5 => .ok (.sel (Name.ofBits (w.extractLsb' 9 7)) (Src.ofBits (w.extractLsb' 16 8)) (Src.ofBits (w.extractLsb' 24 8)) (w.getLsbD 1))
  | 6 => .ok (.bfe (Name.ofBits (w.extractLsb' 9 7)) (Src.ofBits (w.extractLsb' 16 8)) (Src.ofBits (w.extractLsb' 24 8)) (w.getLsbD 1))
  | _ => .ok (.bfi (Name.ofBits (w.extractLsb' 9 7)) (Src.ofBits (w.extractLsb' 16 8)) (Src.ofBits (w.extractLsb' 24 8)) (w.getLsbD 1))

/-- Major opcodes 0x18 to 0x1F (R34). -/
def decodeRow3 (w : Word) : Except DecodeError Instr :=
  match (w.extractLsb' 2 3).toNat with
  | 0 => .ok (.iaddi (Name.ofBits (w.extractLsb' 9 7)) (Src.ofBits (w.extractLsb' 16 8)) (w.extractLsb' 24 8) (w.getLsbD 1))
  | 1 => .ok (.andi (Name.ofBits (w.extractLsb' 9 7)) (Src.ofBits (w.extractLsb' 16 8)) (w.extractLsb' 24 8) (w.getLsbD 1))
  | 2 => .ok (.ori (Name.ofBits (w.extractLsb' 9 7)) (Src.ofBits (w.extractLsb' 16 8)) (w.extractLsb' 24 8) (w.getLsbD 1))
  | 3 => .ok (.xori (Name.ofBits (w.extractLsb' 9 7)) (Src.ofBits (w.extractLsb' 16 8)) (w.extractLsb' 24 8) (w.getLsbD 1))
  | 4 => if w.extractLsb' 31 1 = 0#1 then .ok (.shli (Name.ofBits (w.extractLsb' 9 7)) (Src.ofBits (w.extractLsb' 16 8)) (w.extractLsb' 24 7) (w.getLsbD 1)) else .error (.nonNullField 0x1C)
  | 5 => if w.extractLsb' 31 1 = 0#1 then .ok (.shri (Name.ofBits (w.extractLsb' 9 7)) (Src.ofBits (w.extractLsb' 16 8)) (w.extractLsb' 24 7) (w.getLsbD 1)) else .error (.nonNullField 0x1D)
  | 6 => if w.extractLsb' 31 1 = 0#1 then .ok (.sari (Name.ofBits (w.extractLsb' 9 7)) (Src.ofBits (w.extractLsb' 16 8)) (w.extractLsb' 24 7) (w.getLsbD 1)) else .error (.nonNullField 0x1E)
  | _ => .ok (.movi (Name.ofBits (w.extractLsb' 9 7)) (w.extractLsb' 16 16) (w.getLsbD 1))

/-- Major opcodes 0x20 to 0x27 (R34). -/
def decodeRow4 (w : Word) : Except DecodeError Instr :=
  match (w.extractLsb' 2 3).toNat with
  | 0 => .ok (.movhi (Name.ofBits (w.extractLsb' 9 7)) (w.extractLsb' 16 16) (w.getLsbD 1))
  | 1 => .ok (.icmp (Src.ofBits (w.extractLsb' 16 8)) (Name.ofBits (w.extractLsb' 9 7)) (w.extractLsb' 29 3) (w.extractLsb' 24 5) (w.getLsbD 1))
  | 2 => if w.extractLsb' 29 3 = 0x0#3 then .ok (.iun (Name.ofBits (w.extractLsb' 9 7)) (Src.ofBits (w.extractLsb' 16 8)) (w.extractLsb' 24 5) (w.getLsbD 1)) else .error (.nonNullField 0x22)
  | 3 => .ok (.idiv (Name.ofBits (w.extractLsb' 9 7)) (Src.ofBits (w.extractLsb' 16 8)) (Src.ofBits (w.extractLsb' 24 8)) (w.getLsbD 1))
  | 4 => .ok (.idivn (Name.ofBits (w.extractLsb' 9 7)) (Src.ofBits (w.extractLsb' 16 8)) (Src.ofBits (w.extractLsb' 24 8)) (w.getLsbD 1))
  | 5 => .ok (.irem (Name.ofBits (w.extractLsb' 9 7)) (Src.ofBits (w.extractLsb' 16 8)) (Src.ofBits (w.extractLsb' 24 8)) (w.getLsbD 1))
  | 6 => .ok (.iremn (Name.ofBits (w.extractLsb' 9 7)) (Src.ofBits (w.extractLsb' 16 8)) (Src.ofBits (w.extractLsb' 24 8)) (w.getLsbD 1))
  | _ => if w.extractLsb' 9 4 = 0x0#4 then .ok (.elseI (w.extractLsb' 13 19) (w.getLsbD 1)) else .error (.nonNullField 0x27)

/-- Major opcodes 0x28 to 0x2F (R34). -/
def decodeRow5 (w : Word) : Except DecodeError Instr :=
  match (w.extractLsb' 2 3).toNat with
  | 0 => .ok (.fadd (Name.ofBits (w.extractLsb' 9 7)) (Src.ofBits (w.extractLsb' 16 8)) (Src.ofBits (w.extractLsb' 24 8)) (w.getLsbD 1))
  | 1 => .ok (.fsub (Name.ofBits (w.extractLsb' 9 7)) (Src.ofBits (w.extractLsb' 16 8)) (Src.ofBits (w.extractLsb' 24 8)) (w.getLsbD 1))
  | 2 => .ok (.fmul (Name.ofBits (w.extractLsb' 9 7)) (Src.ofBits (w.extractLsb' 16 8)) (Src.ofBits (w.extractLsb' 24 8)) (w.getLsbD 1))
  | 3 => .ok (.ffma (Name.ofBits (w.extractLsb' 9 7)) (Src.ofBits (w.extractLsb' 16 8)) (Src.ofBits (w.extractLsb' 24 8)) (w.getLsbD 1))
  | 4 => .ok (.fmin (Name.ofBits (w.extractLsb' 9 7)) (Src.ofBits (w.extractLsb' 16 8)) (Src.ofBits (w.extractLsb' 24 8)) (w.getLsbD 1))
  | 5 => .ok (.fmax (Name.ofBits (w.extractLsb' 9 7)) (Src.ofBits (w.extractLsb' 16 8)) (Src.ofBits (w.extractLsb' 24 8)) (w.getLsbD 1))
  | 6 => .ok (.fdiv (Name.ofBits (w.extractLsb' 9 7)) (Src.ofBits (w.extractLsb' 16 8)) (Src.ofBits (w.extractLsb' 24 8)) (w.getLsbD 1))
  | _ => .ok (.fadd2 (Name.ofBits (w.extractLsb' 9 7)) (Src.ofBits (w.extractLsb' 16 8)) (Src.ofBits (w.extractLsb' 24 8)) (w.getLsbD 1))

/-- Major opcodes 0x30 to 0x37 (R34). -/
def decodeRow6 (w : Word) : Except DecodeError Instr :=
  match (w.extractLsb' 2 3).toNat with
  | 0 => .ok (.fmul2 (Name.ofBits (w.extractLsb' 9 7)) (Src.ofBits (w.extractLsb' 16 8)) (Src.ofBits (w.extractLsb' 24 8)) (w.getLsbD 1))
  | 1 => .ok (.ffma2 (Name.ofBits (w.extractLsb' 9 7)) (Src.ofBits (w.extractLsb' 16 8)) (Src.ofBits (w.extractLsb' 24 8)) (w.getLsbD 1))
  | 2 => .ok (.fdot2 (Name.ofBits (w.extractLsb' 9 7)) (Src.ofBits (w.extractLsb' 16 8)) (Src.ofBits (w.extractLsb' 24 8)) (w.getLsbD 1))
  | 3 => .ok (.fcmp (Src.ofBits (w.extractLsb' 16 8)) (Name.ofBits (w.extractLsb' 9 7)) (w.extractLsb' 29 3) (w.extractLsb' 24 5) (w.getLsbD 1))
  | 4 => .ok (.funI (Name.ofBits (w.extractLsb' 9 7)) (Src.ofBits (w.extractLsb' 16 8)) (w.extractLsb' 24 5) (w.extractLsb' 29 3) (w.getLsbD 1))
  | 5 => match (w.extractLsb' 24 5).toNat with
    | 0 => .ok (.cvtF2bf (Name.ofBits (w.extractLsb' 9 7)) (Src.ofBits (w.extractLsb' 16 8)) (w.extractLsb' 29 3) (w.getLsbD 1))
    | 1 => if w.extractLsb' 30 2 = 0#2 then .ok (.cvtBf2f (Name.ofBits (w.extractLsb' 9 7)) (Src.ofBits (w.extractLsb' 16 8)) ((w.extractLsb' 29 1).getLsbD 0) (w.getLsbD 1)) else .error (.nonNullField 0x35)
    | 2 => .ok (.cvtF2i (Name.ofBits (w.extractLsb' 9 7)) (Src.ofBits (w.extractLsb' 16 8)) (w.extractLsb' 29 3) (w.getLsbD 1))
    | 3 => .ok (.cvtF2n (Name.ofBits (w.extractLsb' 9 7)) (Src.ofBits (w.extractLsb' 16 8)) (w.extractLsb' 29 3) (w.getLsbD 1))
    | 4 => .ok (.cvtI2f (Name.ofBits (w.extractLsb' 9 7)) (Src.ofBits (w.extractLsb' 16 8)) (w.extractLsb' 29 3) (w.getLsbD 1))
    | 5 => .ok (.cvtN2f (Name.ofBits (w.extractLsb' 9 7)) (Src.ofBits (w.extractLsb' 16 8)) (w.extractLsb' 29 3) (w.getLsbD 1))
    | 6 => .ok (.cvtF2i64 (Name.ofBits (w.extractLsb' 9 7)) (Src.ofBits (w.extractLsb' 16 8)) (w.extractLsb' 29 3) (w.getLsbD 1))
    | 7 => .ok (.cvtI642f (Name.ofBits (w.extractLsb' 9 7)) (Src.ofBits (w.extractLsb' 16 8)) (w.extractLsb' 29 3) (w.getLsbD 1))
    | _ => .error (.reservedMinor 0x35)
  | 6 => if w.extractLsb' 9 4 = 0x0#4 then .ok (.loop (w.extractLsb' 13 19) (w.getLsbD 1)) else .error (.nonNullField 0x36)
  | _ => if w.extractLsb' 9 4 = 0x0#4 then .ok (.endloop (w.extractLsb' 13 19) (w.getLsbD 1)) else .error (.nonNullField 0x37)

/-- Major opcodes 0x38 to 0x3F (R34). -/
def decodeRow7 (w : Word) : Except DecodeError Instr :=
  match (w.extractLsb' 2 3).toNat with
  | 0 => .ok (.shfl (Name.ofBits (w.extractLsb' 9 7)) (Src.ofBits (w.extractLsb' 16 8)) (Src.ofBits (w.extractLsb' 24 8)) (w.getLsbD 1))
  | 1 => .ok (.shflx (Name.ofBits (w.extractLsb' 9 7)) (Src.ofBits (w.extractLsb' 16 8)) (w.extractLsb' 24 8) (w.getLsbD 1))
  | 2 => .ok (.rdlane (Name.ofBits (w.extractLsb' 9 7)) (Src.ofBits (w.extractLsb' 16 8)) (w.extractLsb' 24 8) (w.getLsbD 1))
  | 3 => .ok (.wrlane (Name.ofBits (w.extractLsb' 9 7)) (Src.ofBits (w.extractLsb' 16 8)) (w.extractLsb' 24 8) (w.getLsbD 1))
  | 4 => match (w.extractLsb' 24 5).toNat with
    | 0 => if w.extractLsb' 16 8 = 0x5A#8 then .ok (.voteAny (Name.ofBits (w.extractLsb' 9 7)) (w.extractLsb' 29 3) (w.getLsbD 1)) else .error (.nonNullField 0x3C)
    | 1 => if w.extractLsb' 16 8 = 0x5A#8 then .ok (.voteAll (Name.ofBits (w.extractLsb' 9 7)) (w.extractLsb' 29 3) (w.getLsbD 1)) else .error (.nonNullField 0x3C)
    | 2 => if w.extractLsb' 16 8 = 0x5A#8 then .ok (.voteBallot (Name.ofBits (w.extractLsb' 9 7)) (w.extractLsb' 29 3) (w.getLsbD 1)) else .error (.nonNullField 0x3C)
    | 3 => if w.extractLsb' 16 8 = 0x5A#8 then .ok (.voteCount (Name.ofBits (w.extractLsb' 9 7)) (w.extractLsb' 29 3) (w.getLsbD 1)) else .error (.nonNullField 0x3C)
    | _ => .error (.reservedMinor 0x3C)
  | 5 => if w.extractLsb' 30 2 = 0#2 then .ok (.scan (Name.ofBits (w.extractLsb' 9 7)) (Src.ofBits (w.extractLsb' 16 8)) (w.extractLsb' 24 5) ((w.extractLsb' 29 1).getLsbD 0) (w.getLsbD 1)) else .error (.nonNullField 0x3D)
  | 6 => if w.extractLsb' 29 3 = 0x0#3 then .ok (.reduce (Name.ofBits (w.extractLsb' 9 7)) (Src.ofBits (w.extractLsb' 16 8)) (w.extractLsb' 24 5) (w.getLsbD 1)) else .error (.nonNullField 0x3E)
  | _ => .ok (.matchI (Name.ofBits (w.extractLsb' 9 7)) (Src.ofBits (w.extractLsb' 16 8)) (Src.ofBits (w.extractLsb' 24 8)) (w.getLsbD 1))

/-- Major opcodes 0x40 to 0x47 (R34). -/
def decodeRow8 (w : Word) : Except DecodeError Instr :=
  match (w.extractLsb' 2 3).toNat with
  | 0 => .ok (.hash (Name.ofBits (w.extractLsb' 9 7)) (Src.ofBits (w.extractLsb' 16 8)) (Src.ofBits (w.extractLsb' 24 8)) (w.getLsbD 1))
  | 1 => .ok (.hash64 (Name.ofBits (w.extractLsb' 9 7)) (Src.ofBits (w.extractLsb' 16 8)) (Src.ofBits (w.extractLsb' 24 8)) (w.getLsbD 1))
  | 2 => .ok (.crc (Name.ofBits (w.extractLsb' 9 7)) (Src.ofBits (w.extractLsb' 16 8)) (Src.ofBits (w.extractLsb' 24 8)) (w.getLsbD 1))
  | 3 => .ok (.part (Name.ofBits (w.extractLsb' 9 7)) (Src.ofBits (w.extractLsb' 16 8)) (Src.ofBits (w.extractLsb' 24 8)) (w.getLsbD 1))
  | 4 => .ok (.hist (Name.ofBits (w.extractLsb' 9 7)) (Src.ofBits (w.extractLsb' 16 8)) (Src.ofBits (w.extractLsb' 24 8)) (w.getLsbD 1))
  | 5 => .ok (.scmp (Name.ofBits (w.extractLsb' 9 7)) (Src.ofBits (w.extractLsb' 16 8)) (Src.ofBits (w.extractLsb' 24 8)) (w.getLsbD 1))
  | 6 => match (w.extractLsb' 24 5).toNat with
    | 0 => if w.extractLsb' 29 3 = 0x0#3 then .ok (.shash (Name.ofBits (w.extractLsb' 9 7)) (Src.ofBits (w.extractLsb' 16 8)) (w.getLsbD 1)) else .error (.nonNullField 0x46)
    | 1 => if w.extractLsb' 29 3 = 0x0#3 then .ok (.spfx (Name.ofBits (w.extractLsb' 9 7)) (Src.ofBits (w.extractLsb' 16 8)) (w.getLsbD 1)) else .error (.nonNullField 0x46)
    | 2 => if w.extractLsb' 29 3 = 0x0#3 then .ok (.slen (Name.ofBits (w.extractLsb' 9 7)) (Src.ofBits (w.extractLsb' 16 8)) (w.getLsbD 1)) else .error (.nonNullField 0x46)
    | _ => .error (.reservedMinor 0x46)
  | _ => .ok (.sfind (Name.ofBits (w.extractLsb' 9 7)) (Src.ofBits (w.extractLsb' 16 8)) (Src.ofBits (w.extractLsb' 24 8)) (w.getLsbD 1))

/-- Major opcodes 0x48 to 0x4F (R34). -/
def decodeRow9 (w : Word) : Except DecodeError Instr :=
  match (w.extractLsb' 2 3).toNat with
  | 0 => .ok (.ld (Name.ofBits (w.extractLsb' 9 7)) (SReg.ofBits (w.extractLsb' 16 5)) (Name.ofBits (w.extractLsb' 21 7)) (w.extractLsb' 28 2) (w.extractLsb' 30 2) (w.getLsbD 1))
  | 1 => .ok (.st (Name.ofBits (w.extractLsb' 9 7)) (SReg.ofBits (w.extractLsb' 16 5)) (Name.ofBits (w.extractLsb' 21 7)) (w.extractLsb' 28 2) (w.extractLsb' 30 2) (w.getLsbD 1))
  | 2 => if w.extractLsb' 30 2 = 0x0#2 then .ok (.ldq (Name.ofBits (w.extractLsb' 9 7)) (SReg.ofBits (w.extractLsb' 16 5)) (Name.ofBits (w.extractLsb' 21 7)) (w.extractLsb' 28 2) (w.getLsbD 1)) else .error (.nonNullField 0x4A)
  | 3 => if w.extractLsb' 30 2 = 0x0#2 then .ok (.stq (Name.ofBits (w.extractLsb' 9 7)) (SReg.ofBits (w.extractLsb' 16 5)) (Name.ofBits (w.extractLsb' 21 7)) (w.extractLsb' 28 2) (w.getLsbD 1)) else .error (.nonNullField 0x4B)
  | 4 => .ok (.ldcv (Name.ofBits (w.extractLsb' 9 7)) (SReg.ofBits (w.extractLsb' 16 5)) (Name.ofBits (w.extractLsb' 21 7)) (w.extractLsb' 28 2) (w.extractLsb' 30 2) (w.getLsbD 1))
  | 5 => .ok (.stcv (Name.ofBits (w.extractLsb' 9 7)) (SReg.ofBits (w.extractLsb' 16 5)) (Name.ofBits (w.extractLsb' 21 7)) (w.extractLsb' 28 2) (w.extractLsb' 30 2) (w.getLsbD 1))
  | 6 => .ok (.atom (Name.ofBits (w.extractLsb' 9 7)) (SReg.ofBits (w.extractLsb' 16 5)) (Name.ofBits (w.extractLsb' 21 7)) (w.extractLsb' 28 4) (w.getLsbD 1))
  | _ => .ok (.red (Name.ofBits (w.extractLsb' 9 7)) (SReg.ofBits (w.extractLsb' 16 5)) (Name.ofBits (w.extractLsb' 21 7)) (w.extractLsb' 28 4) (w.getLsbD 1))

/-- Major opcodes 0x50 to 0x57 (R34). -/
def decodeRow10 (w : Word) : Except DecodeError Instr :=
  match (w.extractLsb' 2 3).toNat with
  | 0 => .ok (.tld (Name.ofBits (w.extractLsb' 9 7)) (SReg.ofBits (w.extractLsb' 16 5)) (Name.ofBits (w.extractLsb' 21 7)) (w.extractLsb' 28 2) (w.extractLsb' 30 2) (w.getLsbD 1))
  | 1 => .ok (.tst (Name.ofBits (w.extractLsb' 9 7)) (SReg.ofBits (w.extractLsb' 16 5)) (Name.ofBits (w.extractLsb' 21 7)) (w.extractLsb' 28 2) (w.extractLsb' 30 2) (w.getLsbD 1))
  | 2 => if w.extractLsb' 31 1 = 0#1 then .ok (.tldt (Name.ofBits (w.extractLsb' 9 7)) (SReg.ofBits (w.extractLsb' 16 5)) (Name.ofBits (w.extractLsb' 21 7)) (w.extractLsb' 28 2) ((w.extractLsb' 30 1).getLsbD 0) (w.getLsbD 1)) else .error (.nonNullField 0x52)
  | 3 => .ok (.tatom (Name.ofBits (w.extractLsb' 9 7)) (SReg.ofBits (w.extractLsb' 16 5)) (Name.ofBits (w.extractLsb' 21 7)) (w.extractLsb' 28 4) (w.getLsbD 1))
  | 4 => if w.extractLsb' 9 7 = 0x5A#7 then .ok (.pref (SReg.ofBits (w.extractLsb' 16 5)) (Name.ofBits (w.extractLsb' 21 7)) (w.extractLsb' 28 2) (w.extractLsb' 30 2) (w.getLsbD 1)) else .error (.nonNullField 0x54)
  | 5 => .ok (.mona (Name.ofBits (w.extractLsb' 9 7)) (SReg.ofBits (w.extractLsb' 16 5)) (Name.ofBits (w.extractLsb' 21 7)) (w.extractLsb' 28 2) (w.extractLsb' 30 2) (w.getLsbD 1))
  | 6 => if w.extractLsb' 29 3 = 0x0#3 ∧ w.extractLsb' 24 5 = 0x0#5 ∧ w.extractLsb' 9 7 = 0x5A#7 then .ok (.waitm (Src.ofBits (w.extractLsb' 16 8)) (w.getLsbD 1)) else .error (.nonNullField 0x56)
  | _ => .ok (.poll (Name.ofBits (w.extractLsb' 9 7)) (SReg.ofBits (w.extractLsb' 16 5)) (Name.ofBits (w.extractLsb' 21 7)) (w.extractLsb' 28 2) (w.extractLsb' 30 2) (w.getLsbD 1))

/-- Major opcodes 0x58 to 0x5F (R34). -/
def decodeRow11 (w : Word) : Except DecodeError Instr :=
  match (w.extractLsb' 2 3).toNat with
  | 0 => .ok (.cpyin (Name.ofBits (w.extractLsb' 9 7)) (SReg.ofBits (w.extractLsb' 26 5)) (SReg.ofBits (w.extractLsb' 21 5)) (SReg.ofBits (w.extractLsb' 16 5)) ((w.extractLsb' 31 1).getLsbD 0) (w.getLsbD 1))
  | 1 => .ok (.cpyout (Name.ofBits (w.extractLsb' 9 7)) (SReg.ofBits (w.extractLsb' 26 5)) (SReg.ofBits (w.extractLsb' 21 5)) (SReg.ofBits (w.extractLsb' 16 5)) ((w.extractLsb' 31 1).getLsbD 0) (w.getLsbD 1))
  | 2 => .ok (.cpygg (Name.ofBits (w.extractLsb' 9 7)) (SReg.ofBits (w.extractLsb' 26 5)) (SReg.ofBits (w.extractLsb' 21 5)) (SReg.ofBits (w.extractLsb' 16 5)) ((w.extractLsb' 31 1).getLsbD 0) (w.getLsbD 1))
  | 3 => .ok (.gather (Name.ofBits (w.extractLsb' 9 7)) (SReg.ofBits (w.extractLsb' 26 5)) (SReg.ofBits (w.extractLsb' 21 5)) (SReg.ofBits (w.extractLsb' 16 5)) ((w.extractLsb' 31 1).getLsbD 0) (w.getLsbD 1))
  | 4 => .ok (.scatter (Name.ofBits (w.extractLsb' 9 7)) (SReg.ofBits (w.extractLsb' 26 5)) (SReg.ofBits (w.extractLsb' 21 5)) (SReg.ofBits (w.extractLsb' 16 5)) ((w.extractLsb' 31 1).getLsbD 0) (w.getLsbD 1))
  | 5 => .ok (.pscat (Name.ofBits (w.extractLsb' 9 7)) (SReg.ofBits (w.extractLsb' 26 5)) (SReg.ofBits (w.extractLsb' 21 5)) (SReg.ofBits (w.extractLsb' 16 5)) ((w.extractLsb' 31 1).getLsbD 0) (w.getLsbD 1))
  | 6 => if w.extractLsb' 29 3 = 0x0#3 ∧ w.extractLsb' 9 7 = 0x5A#7 then .ok (.defarr (Src.ofBits (w.extractLsb' 16 8)) (w.extractLsb' 24 5) (w.getLsbD 1)) else .error (.nonNullField 0x5E)
  | _ => match (w.extractLsb' 24 5).toNat with
    | 0 => if w.extractLsb' 29 3 = 0x0#3 then .ok (.cpyqStatus (Name.ofBits (w.extractLsb' 9 7)) (Src.ofBits (w.extractLsb' 16 8)) (w.getLsbD 1)) else .error (.nonNullField 0x5F)
    | 1 => if w.extractLsb' 29 3 = 0x0#3 ∧ w.extractLsb' 16 8 = 0x5A#8 then .ok (.cpyqTl (Name.ofBits (w.extractLsb' 9 7)) (w.getLsbD 1)) else .error (.nonNullField 0x5F)
    | 2 => if w.extractLsb' 29 3 = 0x0#3 then .ok (.cpyqDrop (Name.ofBits (w.extractLsb' 9 7)) (Src.ofBits (w.extractLsb' 16 8)) (w.getLsbD 1)) else .error (.nonNullField 0x5F)
    | _ => .error (.reservedMinor 0x5F)

/-- Major opcodes 0x60 to 0x67 (R34). -/
def decodeRow12 (w : Word) : Except DecodeError Instr :=
  match (w.extractLsb' 2 3).toNat with
  | 0 => if w.extractLsb' 29 3 = 0x0#3 then .ok (.tbind (Name.ofBits (w.extractLsb' 9 7)) (Src.ofBits (w.extractLsb' 16 8)) (w.extractLsb' 24 5) (w.getLsbD 1)) else .error (.nonNullField 0x60)
  | 1 => match (w.extractLsb' 24 5).toNat with
    | 0 => if w.extractLsb' 29 3 = 0x0#3 ∧ w.extractLsb' 9 7 = 0x5A#7 then .ok (.tsetEmpty (Src.ofBits (w.extractLsb' 16 8)) (w.getLsbD 1)) else .error (.nonNullField 0x61)
    | 1 => if w.extractLsb' 29 3 = 0x0#3 ∧ w.extractLsb' 9 7 = 0x5A#7 then .ok (.tsetFilling (Src.ofBits (w.extractLsb' 16 8)) (w.getLsbD 1)) else .error (.nonNullField 0x61)
    | 2 => if w.extractLsb' 29 3 = 0x0#3 ∧ w.extractLsb' 9 7 = 0x5A#7 then .ok (.tsetReady (Src.ofBits (w.extractLsb' 16 8)) (w.getLsbD 1)) else .error (.nonNullField 0x61)
    | 3 => if w.extractLsb' 29 3 = 0x0#3 ∧ w.extractLsb' 9 7 = 0x5A#7 then .ok (.tsetDraining (Src.ofBits (w.extractLsb' 16 8)) (w.getLsbD 1)) else .error (.nonNullField 0x61)
    | _ => .error (.reservedMinor 0x61)
  | 2 => if w.extractLsb' 29 3 = 0x0#3 ∧ w.extractLsb' 9 7 = 0x5A#7 then .ok (.twait (Src.ofBits (w.extractLsb' 16 8)) (w.extractLsb' 24 5) (w.getLsbD 1)) else .error (.nonNullField 0x62)
  | 3 => if w.extractLsb' 29 3 = 0x0#3 ∧ w.extractLsb' 24 5 = 0x0#5 ∧ w.extractLsb' 9 7 = 0x5A#7 then .ok (.tfree (Src.ofBits (w.extractLsb' 16 8)) (w.getLsbD 1)) else .error (.nonNullField 0x63)
  | 4 => .ok (.mma (Name.ofBits (w.extractLsb' 9 7)) (SReg.ofBits (w.extractLsb' 16 5)) (SReg.ofBits (w.extractLsb' 21 5)) (w.extractLsb' 26 4) (w.extractLsb' 30 2) (w.getLsbD 1))
  | 5 => match (w.extractLsb' 24 5).toNat with
    | 0 => if w.extractLsb' 29 3 = 0x0#3 ∧ w.extractLsb' 16 8 = 0x5A#8 then .ok (.mclose (Name.ofBits (w.extractLsb' 9 7)) (w.getLsbD 1)) else .error (.nonNullField 0x65)
    | 1 => if w.extractLsb' 29 3 = 0x0#3 then .ok (.mcloseResume (Name.ofBits (w.extractLsb' 9 7)) (Src.ofBits (w.extractLsb' 16 8)) (w.getLsbD 1)) else .error (.nonNullField 0x65)
    | _ => .error (.reservedMinor 0x65)
  | 6 => if w.extractLsb' 29 3 = 0x0#3 ∧ w.extractLsb' 24 5 = 0x0#5 ∧ w.extractLsb' 16 8 = 0x5A#8 then .ok (.mwait (Name.ofBits (w.extractLsb' 9 7)) (w.getLsbD 1)) else .error (.nonNullField 0x66)
  | _ => if w.extractLsb' 29 3 = 0x0#3 ∧ w.extractLsb' 24 5 = 0x0#5 ∧ w.extractLsb' 16 8 = 0x5A#8 then .ok (.mabort (Name.ofBits (w.extractLsb' 9 7)) (w.getLsbD 1)) else .error (.nonNullField 0x67)

/-- Major opcodes 0x68 to 0x6F (R34). -/
def decodeRow13 (w : Word) : Except DecodeError Instr :=
  match (w.extractLsb' 2 3).toNat with
  | 0 => .ok (.mepi (Name.ofBits (w.extractLsb' 9 7)) (SReg.ofBits (w.extractLsb' 16 5)) (SReg.ofBits (w.extractLsb' 21 5)) (w.extractLsb' 26 4) (w.extractLsb' 30 2) (w.getLsbD 1))
  | 1 => if w.extractLsb' 29 3 = 0x0#3 ∧ w.extractLsb' 27 2 = 0#2 ∧ w.extractLsb' 9 7 = 0x5A#7 then .ok (.gset (Src.ofBits (w.extractLsb' 16 8)) (w.extractLsb' 24 3) (w.getLsbD 1)) else .error (.nonNullField 0x69)
  | 2 => if w.extractLsb' 16 8 = 0x5A#8 then .ok (.gget (Name.ofBits (w.extractLsb' 9 7)) (w.extractLsb' 24 8) (w.getLsbD 1)) else .error (.nonNullField 0x6A)
  | 3 => if w.extractLsb' 28 1 = 0#1 then .ok (.bar (Name.ofBits (w.extractLsb' 9 7)) (Src.ofBits (w.extractLsb' 16 8)) (w.extractLsb' 24 4) (w.extractLsb' 29 3) (w.getLsbD 1)) else .error (.nonNullField 0x6B)
  | 4 => if w.extractLsb' 28 1 = 0#1 ∧ w.extractLsb' 9 7 = 0x5A#7 then .ok (.bara (Src.ofBits (w.extractLsb' 16 8)) (w.extractLsb' 24 4) (w.extractLsb' 29 3) (w.getLsbD 1)) else .error (.nonNullField 0x6C)
  | 5 => if w.extractLsb' 29 3 = 0x0#3 ∧ w.extractLsb' 28 1 = 0#1 ∧ w.extractLsb' 16 8 = 0x5A#8 then .ok (.barw (Name.ofBits (w.extractLsb' 9 7)) (w.extractLsb' 24 4) (w.getLsbD 1)) else .error (.nonNullField 0x6D)
  | 6 => match (w.extractLsb' 24 5).toNat with
    | 0 => .ok (.tktTake (Name.ofBits (w.extractLsb' 9 7)) (Src.ofBits (w.extractLsb' 16 8)) (w.extractLsb' 29 3) (w.getLsbD 1))
    | 1 => if w.extractLsb' 16 8 = 0x5A#8 then .ok (.tktWaitp (Name.ofBits (w.extractLsb' 9 7)) (w.extractLsb' 29 3) (w.getLsbD 1)) else .error (.nonNullField 0x6E)
    | 2 => if w.extractLsb' 9 7 = 0x5A#7 then .ok (.tktPut (Src.ofBits (w.extractLsb' 16 8)) (w.extractLsb' 29 3) (w.getLsbD 1)) else .error (.nonNullField 0x6E)
    | 3 => if w.extractLsb' 16 8 = 0x5A#8 ∧ w.extractLsb' 9 7 = 0x5A#7 then .ok (.tktSkip (w.extractLsb' 29 3) (w.getLsbD 1)) else .error (.nonNullField 0x6E)
    | _ => .error (.reservedMinor 0x6E)
  | _ => if w.extractLsb' 29 3 = 0x0#3 ∧ w.extractLsb' 27 2 = 0#2 ∧ w.extractLsb' 9 7 = 0x5A#7 then .ok (.qpush (Src.ofBits (w.extractLsb' 16 8)) (w.extractLsb' 24 3) (w.getLsbD 1)) else .error (.nonNullField 0x6F)

/-- Major opcodes 0x70 to 0x77 (R34). -/
def decodeRow14 (w : Word) : Except DecodeError Instr :=
  match (w.extractLsb' 2 3).toNat with
  | 0 => if w.extractLsb' 29 3 = 0x0#3 ∧ w.extractLsb' 27 2 = 0#2 ∧ w.extractLsb' 16 8 = 0x5A#8 then .ok (.qpop (Name.ofBits (w.extractLsb' 9 7)) (w.extractLsb' 24 3) (w.getLsbD 1)) else .error (.nonNullField 0x70)
  | 1 => if w.extractLsb' 29 3 = 0x0#3 then .ok (.tlwait (Name.ofBits (w.extractLsb' 9 7)) (Src.ofBits (w.extractLsb' 16 8)) (w.extractLsb' 24 5) (w.getLsbD 1)) else .error (.nonNullField 0x71)
  | 2 => if w.extractLsb' 29 3 = 0x0#3 ∧ w.extractLsb' 25 4 = 0#4 ∧ w.extractLsb' 16 8 = 0x5A#8 then .ok (.tlrd (Name.ofBits (w.extractLsb' 9 7)) ((w.extractLsb' 24 1).getLsbD 0) (w.getLsbD 1)) else .error (.nonNullField 0x72)
  | 3 => .ok (.nred (Name.ofBits (w.extractLsb' 9 7)) (Src.ofBits (w.extractLsb' 16 8)) (w.extractLsb' 24 5) (w.extractLsb' 29 3) (w.getLsbD 1))
  | 4 => .ok (.bra (w.extractLsb' 9 23) (w.getLsbD 1))
  | 5 => .ok (.brq (w.extractLsb' 9 4) (w.extractLsb' 13 19) (w.getLsbD 1))
  | 6 => .ok (.ifp (w.extractLsb' 9 4) (w.extractLsb' 13 19) (w.getLsbD 1))
  | _ => .ok (.call (w.extractLsb' 9 23) (w.getLsbD 1))

/-- Major opcodes 0x78 to 0x7F (R34). -/
def decodeRow15 (w : Word) : Except DecodeError Instr :=
  match (w.extractLsb' 2 3).toNat with
  | 0 => match (w.extractLsb' 24 5).toNat with
    | 0 => if w.extractLsb' 29 3 = 0x0#3 ∧ w.extractLsb' 16 8 = 0x5A#8 ∧ w.extractLsb' 9 7 = 0x5A#7 then .ok (.endif (w.getLsbD 1)) else .error (.nonNullField 0x78)
    | 1 => if w.extractLsb' 29 3 = 0x0#3 ∧ w.extractLsb' 16 8 = 0x5A#8 ∧ w.extractLsb' 9 7 = 0x5A#7 then .ok (.brk (w.getLsbD 1)) else .error (.nonNullField 0x78)
    | 2 => if w.extractLsb' 29 3 = 0x0#3 ∧ w.extractLsb' 16 8 = 0x5A#8 ∧ w.extractLsb' 9 7 = 0x5A#7 then .ok (.cont (w.getLsbD 1)) else .error (.nonNullField 0x78)
    | 3 => if w.extractLsb' 29 3 = 0x0#3 ∧ w.extractLsb' 9 7 = 0x5A#7 then .ok (.ret (Src.ofBits (w.extractLsb' 16 8)) (w.getLsbD 1)) else .error (.nonNullField 0x78)
    | 4 => if w.extractLsb' 29 3 = 0x0#3 ∧ w.extractLsb' 9 7 = 0x5A#7 then .ok (.jmpi (Src.ofBits (w.extractLsb' 16 8)) (w.getLsbD 1)) else .error (.nonNullField 0x78)
    | 5 => if w.extractLsb' 29 3 = 0x0#3 then .ok (.calli (Name.ofBits (w.extractLsb' 9 7)) (Src.ofBits (w.extractLsb' 16 8)) (w.getLsbD 1)) else .error (.nonNullField 0x78)
    | 6 => if w.extractLsb' 29 3 = 0x0#3 ∧ w.extractLsb' 16 8 = 0x5A#8 then .ok (.elect (Name.ofBits (w.extractLsb' 9 7)) (w.getLsbD 1)) else .error (.nonNullField 0x78)
    | 7 => if w.extractLsb' 29 3 = 0x0#3 ∧ w.extractLsb' 16 8 = 0x5A#8 ∧ w.extractLsb' 9 7 = 0x5A#7 then .ok (.yield (w.getLsbD 1)) else .error (.nonNullField 0x78)
    | 8 => if w.extractLsb' 29 3 = 0x0#3 ∧ w.extractLsb' 16 8 = 0x5A#8 ∧ w.extractLsb' 9 7 = 0x5A#7 then .ok (.exit (w.getLsbD 1)) else .error (.nonNullField 0x78)
    | 9 => if w.extractLsb' 29 3 = 0x0#3 ∧ w.extractLsb' 16 8 = 0x5A#8 ∧ w.extractLsb' 9 7 = 0x5A#7 then .ok (.nop (w.getLsbD 1)) else .error (.nonNullField 0x78)
    | _ => .error (.reservedMinor 0x78)
  | 1 => if w.extractLsb' 29 3 = 0x0#3 ∧ w.extractLsb' 27 2 = 0#2 then .ok (.spawn (Name.ofBits (w.extractLsb' 9 7)) (Src.ofBits (w.extractLsb' 16 8)) (w.extractLsb' 24 3) (w.getLsbD 1)) else .error (.nonNullField 0x79)
  | 2 => match (w.extractLsb' 24 5).toNat with
    | 0 => if w.extractLsb' 29 3 = 0x0#3 then .ok (.uisend (Name.ofBits (w.extractLsb' 9 7)) (Src.ofBits (w.extractLsb' 16 8)) (w.getLsbD 1)) else .error (.nonNullField 0x7A)
    | 1 => if w.extractLsb' 29 3 = 0x0#3 then .ok (.uimask (Name.ofBits (w.extractLsb' 9 7)) (Src.ofBits (w.extractLsb' 16 8)) (w.getLsbD 1)) else .error (.nonNullField 0x7A)
    | 2 => if w.extractLsb' 29 3 = 0x0#3 then .ok (.uipend (Name.ofBits (w.extractLsb' 9 7)) (Src.ofBits (w.extractLsb' 16 8)) (w.getLsbD 1)) else .error (.nonNullField 0x7A)
    | 3 => if w.extractLsb' 29 3 = 0x0#3 then .ok (.uiack (Name.ofBits (w.extractLsb' 9 7)) (Src.ofBits (w.extractLsb' 16 8)) (w.getLsbD 1)) else .error (.nonNullField 0x7A)
    | 4 => if w.extractLsb' 29 3 = 0x0#3 ∧ w.extractLsb' 16 8 = 0x5A#8 ∧ w.extractLsb' 9 7 = 0x5A#7 then .ok (.uiret (w.getLsbD 1)) else .error (.nonNullField 0x7A)
    | 5 => if w.extractLsb' 29 3 = 0x0#3 ∧ w.extractLsb' 9 7 = 0x5A#7 then .ok (.uiwait (Src.ofBits (w.extractLsb' 16 8)) (w.getLsbD 1)) else .error (.nonNullField 0x7A)
    | _ => .error (.reservedMinor 0x7A)
  | 3 => match (w.extractLsb' 24 5).toNat with
    | 0 => if w.extractLsb' 29 3 = 0x0#3 ∧ w.extractLsb' 16 8 = 0x5A#8 ∧ w.extractLsb' 9 7 = 0x5A#7 then .ok (.vacq (w.getLsbD 1)) else .error (.nonNullField 0x7B)
    | 1 => if w.extractLsb' 29 3 = 0x0#3 ∧ w.extractLsb' 16 8 = 0x5A#8 ∧ w.extractLsb' 9 7 = 0x5A#7 then .ok (.vrel (w.getLsbD 1)) else .error (.nonNullField 0x7B)
    | 2 => if w.extractLsb' 29 3 = 0x0#3 ∧ w.extractLsb' 9 7 = 0x5A#7 then .ok (.vkill (Src.ofBits (w.extractLsb' 16 8)) (w.getLsbD 1)) else .error (.nonNullField 0x7B)
    | 3 => if w.extractLsb' 29 3 = 0x0#3 then .ok (.rdlive (Name.ofBits (w.extractLsb' 9 7)) (Src.ofBits (w.extractLsb' 16 8)) (w.getLsbD 1)) else .error (.nonNullField 0x7B)
    | 4 => if w.extractLsb' 29 3 = 0x0#3 then .ok (.uprd (Name.ofBits (w.extractLsb' 9 7)) (Src.ofBits (w.extractLsb' 16 8)) (w.getLsbD 1)) else .error (.nonNullField 0x7B)
    | 5 => if w.extractLsb' 29 3 = 0x0#3 then .ok (.upwr (Name.ofBits (w.extractLsb' 9 7)) (Src.ofBits (w.extractLsb' 16 8)) (w.getLsbD 1)) else .error (.nonNullField 0x7B)
    | _ => .error (.reservedMinor 0x7B)
  | 4 => match (w.extractLsb' 24 5).toNat with
    | 0 => if w.extractLsb' 29 3 = 0x0#3 ∧ w.extractLsb' 9 7 = 0x5A#7 then .ok (.trap (Src.ofBits (w.extractLsb' 16 8)) (w.getLsbD 1)) else .error (.nonNullField 0x7C)
    | 1 => if w.extractLsb' 29 3 = 0x0#3 ∧ w.extractLsb' 16 8 = 0x5A#8 ∧ w.extractLsb' 9 7 = 0x5A#7 then .ok (.tret (w.getLsbD 1)) else .error (.nonNullField 0x7C)
    | 2 => if w.extractLsb' 29 3 = 0x0#3 ∧ w.extractLsb' 16 8 = 0x5A#8 ∧ w.extractLsb' 9 7 = 0x5A#7 then .ok (.halt (w.getLsbD 1)) else .error (.nonNullField 0x7C)
    | 3 => if w.extractLsb' 29 3 = 0x0#3 then .ok (.classq (Name.ofBits (w.extractLsb' 9 7)) (Src.ofBits (w.extractLsb' 16 8)) (w.getLsbD 1)) else .error (.nonNullField 0x7C)
    | 4 => if w.extractLsb' 29 3 = 0x0#3 ∧ w.extractLsb' 16 8 = 0x5A#8 ∧ w.extractLsb' 9 7 = 0x5A#7 then .ok (.evict (w.getLsbD 1)) else .error (.nonNullField 0x7C)
    | 5 => if w.extractLsb' 29 3 = 0x0#3 then .ok (.faultreq (Name.ofBits (w.extractLsb' 9 7)) (Src.ofBits (w.extractLsb' 16 8)) (w.getLsbD 1)) else .error (.nonNullField 0x7C)
    | 6 => if w.extractLsb' 29 3 = 0x0#3 then .ok (.waitf (Name.ofBits (w.extractLsb' 9 7)) (Src.ofBits (w.extractLsb' 16 8)) (w.getLsbD 1)) else .error (.nonNullField 0x7C)
    | _ => .error (.reservedMinor 0x7C)
  | 5 => if w.extractLsb' 16 8 = 0x5A#8 then .ok (.rdsr (Name.ofBits (w.extractLsb' 9 7)) (w.extractLsb' 24 8) (w.getLsbD 1)) else .error (.nonNullField 0x7D)
  | 6 => if w.extractLsb' 9 7 = 0x5A#7 then .ok (.wrsr (Src.ofBits (w.extractLsb' 16 8)) (w.extractLsb' 24 8) (w.getLsbD 1)) else .error (.nonNullField 0x7E)
  | _ => .error .reservedOpcode

/-- The instruction of a 32-bit word, by its major opcode (R34). -/
def decodeWord (w : Word) : Except DecodeError Instr :=
  match (w.extractLsb' 5 4).toNat with
  | 0 => decodeRow0 w
  | 1 => decodeRow1 w
  | 2 => decodeRow2 w
  | 3 => decodeRow3 w
  | 4 => decodeRow4 w
  | 5 => decodeRow5 w
  | 6 => decodeRow6 w
  | 7 => decodeRow7 w
  | 8 => decodeRow8 w
  | 9 => decodeRow9 w
  | 10 => decodeRow10 w
  | 11 => decodeRow11 w
  | 12 => decodeRow12 w
  | 13 => decodeRow13 w
  | 14 => decodeRow14 w
  | _ => decodeRow15 w

/-- The instruction of a 16-bit parcel (R25, R38). -/
def decodeParcel (w : Parcel) : Except DecodeError Instr :=
  if w = 0 then .error .zeroParcel else
  match (w.extractLsb' 2 4).toNat with
  | 0 => .ok (.movH (Short.ofBits (w.extractLsb' 6 5)) (Short.ofBits (w.extractLsb' 11 5)) (w.getLsbD 1))
  | 1 => .ok (.movi5H (Short.ofBits (w.extractLsb' 6 5)) (w.extractLsb' 11 5) (w.getLsbD 1))
  | 2 => .ok (.iaddH (Short.ofBits (w.extractLsb' 6 5)) (Short.ofBits (w.extractLsb' 11 5)) (w.getLsbD 1))
  | 3 => .ok (.iaddi5H (Short.ofBits (w.extractLsb' 6 5)) (w.extractLsb' 11 5) (w.getLsbD 1))
  | 4 => .ok (.isubH (Short.ofBits (w.extractLsb' 6 5)) (Short.ofBits (w.extractLsb' 11 5)) (w.getLsbD 1))
  | 5 => .ok (.imulH (Short.ofBits (w.extractLsb' 6 5)) (Short.ofBits (w.extractLsb' 11 5)) (w.getLsbD 1))
  | 6 => .ok (.andH (Short.ofBits (w.extractLsb' 6 5)) (Short.ofBits (w.extractLsb' 11 5)) (w.getLsbD 1))
  | 7 => .ok (.orH (Short.ofBits (w.extractLsb' 6 5)) (Short.ofBits (w.extractLsb' 11 5)) (w.getLsbD 1))
  | 8 => .ok (.xorH (Short.ofBits (w.extractLsb' 6 5)) (Short.ofBits (w.extractLsb' 11 5)) (w.getLsbD 1))
  | 9 => .ok (.shli5H (Short.ofBits (w.extractLsb' 6 5)) (w.extractLsb' 11 5) (w.getLsbD 1))
  | 10 => .ok (.shri5H (Short.ofBits (w.extractLsb' 6 5)) (w.extractLsb' 11 5) (w.getLsbD 1))
  | 11 => .ok (.sari5H (Short.ofBits (w.extractLsb' 6 5)) (w.extractLsb' 11 5) (w.getLsbD 1))
  | 12 => .ok (.faddH (Short.ofBits (w.extractLsb' 6 5)) (Short.ofBits (w.extractLsb' 11 5)) (w.getLsbD 1))
  | 13 => .ok (.fmulH (Short.ofBits (w.extractLsb' 6 5)) (Short.ofBits (w.extractLsb' 11 5)) (w.getLsbD 1))
  | 14 => .ok (.ffmaH (Short.ofBits (w.extractLsb' 6 5)) (Short.ofBits (w.extractLsb' 11 5)) (w.getLsbD 1))
  | _ => .ok (.fmaxH (Short.ofBits (w.extractLsb' 6 5)) (Short.ofBits (w.extractLsb' 11 5)) (w.getLsbD 1))

/-- The parcel at the head of a list of bytes (R18). -/
def parcelOf (lo hi : Byte) : Parcel := hi ++ lo

/-- The instruction at the head of a list of bytes, and the bytes after it. Bit 0 of the first parcel gives its length. -/
def decodeBytes : List Byte → Except DecodeError (Instr × List Byte)
  | b0 :: b1 :: rest =>
    if b0.getLsbD 0 then
      match rest with
      | b2 :: b3 :: rest => (decodeWord (b3 ++ b2 ++ b1 ++ b0)).map fun i => (i, rest)
      | _ => .error .truncated
    else (decodeParcel (b1 ++ b0)).map fun i => (i, rest)
  | _ => .error .truncated

/-- Byte `k` of a number. -/
def byteOf (n k : Nat) : Byte := BitVec.ofNat 8 (n / 2 ^ (8 * k))

/-- The instruction read from the bits `w` of a table row, laid out as the hardware stores them; the bits above `nbits`
are zero, up to the four bytes of the longest instruction. -/
def decodeTableWord (nbits w : Nat) : Option Instr :=
  match decodeBytes ((List.range 4).map (byteOf (w % 2 ^ nbits))) with
  | .ok (i, _) => some i
  | .error _ => none

end Sys2Proof
end

