-- ==== Sys2Proof/Config.lean ====
section
/-! DEFINITION. What an implementation fixes and the manual leaves open. Every constant here is opaque: it has no
body, so no proof can see its value and a statement holds for every value of it. -/

namespace Sys2Proof

/-- The free values of the model: the n-th one drawn. A step that needs a value which the manual does not fix (an
early read, R241) takes `freeValue n` for the counter n in the state and advances the counter. DESIGN CHOICE, log 1. -/
opaque Config.freeValue : Nat → DWord

/-- The value of a memory key after Gelaradar has loaded it `loads` times: the two halves of an AES-256-XTS key (R63). Keys are never
readable. Log 2. -/
opaque Config.keyMaterial : (key loads : Nat) → BitVec 512

/-- Whether a fetch of a parcel, by core, arithmetic cycle and location, takes what the core's instruction cache holds rather than what has
been stored since (R21). Log 89. -/
opaque Config.staleCode : (core cycle loc : Nat) → Bool

/-- The location of the descriptor table, as the firmware writes it into the distributor at bring-up (R60). Log 90. -/
opaque Config.descriptorTable : Nat

/-- Whether an ML-DSA-65 signature verifies (R467): public key, digest, signature. FIPS 204 is outside the manual. Log 3. -/
opaque Config.mlDsaVerifies : (pk digest sig : List Byte) → Bool

/-- The ML-DSA-65 signature under the device identity key derived from a digest of the unique secret (R470). Log 3. -/
opaque Config.mlDsaSign : (secretDigest message : List Byte) → List Byte

/-- The 32 bytes of the boot ROM's measurement (R470 index 0): the ROM's content is not in the manual. Log 3. -/
opaque Config.romMeasurement : List Byte

/-- The span registers of a service core and its gate table, as the firmware sets them when it starts (R461): entry address,
target domain, return mark. The firmware's content is not in the manual. Log 27. -/
opaque Config.firmwareSpans : (svc : Nat) → List (BitVec 128)
opaque Config.firmwareGates : (svc : Nat) → List (DWord × Nat × Bool)

end Sys2Proof
end

