-- ==== Sys2Proof/Machine/State.lean ====
section
/-! DEFINITION. The state of the module as plain data, the reasons a step can stop, and the state after reset. -/

namespace Sys2Proof.Machine

/-- Why the model stops. -/
inductive Fault where
  /-- Raised by every meaning of an encoded instruction when no ply holds the turn (`State.cur`). The step chooses a ply
  before it runs an instruction, so no run reaches it. Safe: the machine issues nothing in that case. -/
  | noPly
deriving DecidableEq, Repr

/-- Why the model has no meaning to give. -/
inductive Refusal where
  /-- Raised by the dispatch for an instruction without a meaning. Safe: nothing can be proved of it. -/
  | notModelled (mnemonic : String)
deriving DecidableEq, Repr

/-! ## Plies -/

/-- A place that an instruction writes: a register of any level, or a predicate (R27, R283). -/
inductive Slot where
  | v (n : Nat) | o (n : Nat) | lx | ly | s (n : Nat) | p (n : Nat) | q (n : Nat)
deriving DecidableEq, Repr

/-- One register write: the threads written and a value for each thread; a uniform register or predicate uses the first
value only, and a vector predicate one bit of it per thread. -/
structure Write where
  slot : Slot
  mask : DWord
  vals : List DWord
deriving DecidableEq, Repr

/-- A fixed-latency result that is not yet written (R240 to R242). A write without values is the result of a lane tile instruction whose
last slot has not come (R221). -/
structure Pend where
  due : Nat
  write : Write
deriving DecidableEq, Repr

/-- A variable-latency result that has not landed (R245): `tag` names it to the unit that will answer, `arrived` says
whether every part of the answer is in the landing buffer, `blocks` the landing entries it holds (R175). -/
structure Landing where
  tag : Nat
  arrived : Bool
  blocks : Nat
  writes : List Write
deriving DecidableEq, Repr

/-- An operand-cache entry (R244, R250). -/
structure OEntry where
  valid : Bool
  live : Bool
  vals : Lanes
deriving DecidableEq, Repr

/-- A latch (R243). -/
structure Latch where
  valid : Bool
  vals : Lanes
deriving DecidableEq, Repr

/-- The kinds of divergence-stack entries (R352). -/
inductive DivKind where
  | ifK | elect | loop
deriving DecidableEq, Repr

/-- A divergence-stack entry (R352). -/
structure DivEntry where
  kind : DivKind
  oem : DWord
  aux : DWord
  elsed : Bool
  tgt : DWord
deriving DecidableEq, Repr

/-- The trap registers of one level (R435). -/
structure TrapRegs where
  xpc : DWord
  xcause : DWord
  xval : DWord
  xem : DWord
  xstat : DWord
  xscr : DWord
  xlx : Lanes
  xly : Lanes
deriving DecidableEq, Repr

/-- A trap-level bank of o0 to o7 held by a handler (R249). -/
structure TrapBank where
  num : Nat
  regs : List OEntry
deriving DecidableEq, Repr

/-- A ply's monitor (R184). -/
inductive MonState where
  | none | armed | woken
deriving DecidableEq, Repr

structure Monitor where
  st : MonState
  loc : Nat
deriving DecidableEq, Repr

/-- The role of a ply (R349). -/
inductive Role where
  | all | producer | consumer
deriving DecidableEq, Repr

/-- What a parked ply waits for. The condition is read off the state by `waitOver`. -/
inductive Cond where
  /-- no strict access outstanding, tile slots passed, spindle windows ended when `spin` (R150, R221, R330, R400) -/
  | quiet (spin : Bool)
  /-- fewer than eight results outstanding: a switch point (R245) -/
  | landRoom
  /-- landing entries or store slots (R175) -/
  | memRoom (blocks slots : Nat)
  /-- an arithmetic cycle is reached -/
  | cycle (t : Nat)
  /-- a translation of the page for these kinds of access; `host` once it waits on the fault buffer (R73, R81) -/
  | page (vpage : Nat) (r w x : Bool) (host : Bool)
  /-- the line of code at a location, from its home (R20) -/
  | code (loc : Nat)
  /-- every element access of the instruction has been performed -/
  | workDone
  /-- the phase of the barrier has completed (R397, R400) -/
  | phase (b : Nat) (ph : Nat)
  /-- role queues (R366) -/
  | queueRoom (q : Nat)
  | queueToken (q : Nat)
  /-- ticket chain head at least or exactly the skein's index (R403) -/
  | ticket (c : Nat) (exact : Bool)
  /-- a timeline counter has reached a value (R406) -/
  | timeline (f : Nat) (n : DWord)
  /-- the tile that the handle has under generation `gen` is in a state of the mask, and nothing is open on it when `calm` (R219, R227,
  R228); tile-table room (R225) -/
  | tile (handle gen : Nat) (states : Nat) (calm : Bool)
  | tileEntry
  /-- copy-engine room (R189), deferred-arrival room (R209) -/
  | copyRoom
  | deferRoom
  /-- spindle (R326, R328), batch completion (R341), energy (R333) -/
  | spindle
  | batch (n : Nat)
  | energy
  /-- VACQ (R253), WAITM with its deadline (R186), POLL until a cycle, and whether of host memory (R187), UIWAIT with its deadline (R430), WAITF (R446) -/
  | vacq
  | monitor (deadline : Option Nat)
  | poll (t : Nat) (host : Bool)
  | ui (deadline : Option Nat)
  | record (vpage : Nat)
  /-- the core has no contribution of a tree slot outstanding (R113) -/
  | tree (slot : Nat)
deriving DecidableEq, Repr

/-- Why a ply does not issue. -/
inductive Park where
  | none
  /-- at a switch point, until everything outstanding has landed (R246) -/
  | switch
  /-- in the wait of the instruction at its PC -/
  | wait (c : Cond)
  /-- trap entry under way (R433): cause, value and the return address -/
  | trap (cause : Nat) (val : DWord) (rpc : DWord)
  /-- EXIT has emptied TLIVE: the ply retires once everything has landed (R363) -/
  | retire
deriving DecidableEq, Repr

/-- Attributes of an address (R61, R62). -/
structure Attr where
  target : Nat
  link : Nat
  pwin : Nat
  pwoff : Nat
  vbase : Nat
  nolane : Bool
  stwatch : Bool
  mixchk : Bool
  key : Nat
  repl : Bool
  repmask : Nat
  grain : BitVec 2
  cls : Nat
deriving DecidableEq, Repr

/-- Kinds of memory accesses (R147, R178 to R187); PREF's is no access of the single order (R183). -/
inductive AccKind where
  | load | store | atom | red | mona | pref
deriving DecidableEq, Repr

/-- One element access that a party still has to perform: `thread` is the ply's thread, `data` the store value or the
atomic's operand, `cmp` the compare value, `aop` the atomic operation. -/
structure Acc where
  thread : Nat
  va : DWord
  loc : Nat
  size : Nat
  kind : AccKind
  aop : BitVec 4
  data : QWord
  cmp : DWord
  attr : Attr
deriving DecidableEq, Repr

/-- A source operand as read: one value for a uniform name, one for each thread otherwise. -/
structure Opnd where
  uni : Bool
  vals : List QWord
deriving DecidableEq, Repr

/-- The operands of an instruction as read at its issue, the predicates among them, and what the reads did (R247, R250). -/
structure Held where
  ops : List Opnd
  preds : List DWord
  vacrd : Bool
  upinv : Bool
deriving DecidableEq, Repr

/-- What becomes of the loaded values of a memory instruction once every access is performed. -/
inductive LoadUse where
  /-- no register receives anything -/
  | discard
  /-- zero-extended into a register of the width of the access (R178) -/
  | plain (size : Nat)
  /-- converted from a narrow format to FP32 (R179) -/
  | narrow (w : BitVec 2)
  /-- the old value of an atomic, of one register or two (R180) -/
  | old (wide : Bool)
  /-- kept for the instruction at the PC, which waits for them (R195, R313, R394) -/
  | keep
  /-- the same for an attempt of POLL, which holds a landing entry (R175, R187); whether of host memory -/
  | poll (host : Bool)
  /-- kept for the instruction at the PC, and an access has been refused (R89) -/
  | lost
deriving DecidableEq, Repr

/-- The element accesses of a memory instruction: those to make, the values got so far by thread, and their use; `bcast` gives the
one value to every thread of `mask` (R173); `await` counts the overlapped ones made and not yet performed (R151). -/
structure Work where
  todo : List Acc
  got : List (Nat × QWord)
  use : LoadUse
  dst : Name
  mask : DWord
  bcast : Bool
  tag : Nat
  await : Nat
deriving DecidableEq, Repr

/-- What a lane tile instruction does in its slots (R229 to R231). -/
inductive TileAct where
  | read | write
  | atom (op : BitVec 4)
deriving DecidableEq, Repr

/-- What becomes of the values read: none kept, each thread's own, or the columns of 8 × 8 blocks of `e`-byte elements (R230). -/
inductive TileUse where
  | none
  | own (d : Name)
  | columns (d : Name) (e : Nat)
deriving DecidableEq, Repr

/-- One thread's access of a lane tile instruction: its physical tile address, and the data read at issue (R221). -/
structure TileLane where
  thread : Nat
  addr : Nat
  data : QWord
  cmp : DWord
deriving DecidableEq, Repr

/-- A lane tile instruction in flight: the accesses of each port-B slot still to come, by its cycle, the values read so far, and the
cycle at which the result is readable (R221). -/
structure TileJob where
  act : TileAct
  size : Nat
  use : TileUse
  mask : DWord
  slots : List (Nat × List TileLane)
  got : List (Nat × QWord)
  due : Nat
deriving DecidableEq, Repr

/-- What the wake of a parked translation told the ply: retry, take PROT (R80), or take XLATE (R83). -/
inductive Verdict where
  | retry | prot | xlate
deriving DecidableEq, Repr

/-- A ply (R348 to R364, R432 to R440). Vector and uniform registers hold entries for live registers only: a register
without an entry is vacant and reads zero (R247). -/
structure Ply where
  core : Nat
  slot : Nat
  plyid : Nat
  ctx : Nat
  lid : Nat
  skix : Nat
  width : Nat
  role : Role
  base : Nat
  extDecl : Bool
  ext : Bool
  pc : DWord
  em : DWord
  tlive : DWord
  v : Table Lanes
  s : Table DWord
  o : List OEntry
  banks : List TrapBank
  lx : Latch
  ly : Latch
  /-- the write of ly by the previous instruction, readable one instruction later (R243) -/
  lyNew : Option Write
  p : List DWord
  q : BitVec 8
  pend : List Pend
  out : List Landing
  stack : List DivEntry
  floor : Nat
  tl : Nat
  tr1 : TrapRegs
  tr2 : TrapRegs
  stat : DWord
  frm : DWord
  uipc : DWord
  uiem : DWord
  uist : DWord
  mon : Monitor
  owe : BitVec 16
  bres : List Word
  /-- deferred arrivals: sequence number, barrier, and the phase in which DEFARR issued (R209) -/
  defer : List (Nat × Nat × Nat)
  park : Park
  /-- operand values taken at the first issue of the instruction in whose wait the ply stands -/
  held : Option Held
  /-- how far the instruction at the PC has come in its own parks -/
  stage : Nat
  work : Option Work
  strict : Nat
  /-- instructions that have issued, with overlapped accesses that are not performed yet (R151) -/
  overlapped : List Work
  /-- lane tile instructions with slots to come (R221) -/
  tiles : List TileJob
  preempt : Option Nat
  wdog : Bool
  orphan : Bool
  memlost : Option DWord
  mixsize : Option DWord
  /-- verdict for the one retry that follows a wake, and the page waited on, by a fetch or not (R80, R83) -/
  verdict : Verdict
  waited : Option (Nat × Bool)
  batch : Option Nat
  nextAt : Nat
  /-- the cycle since which the ply has been ready, where it is later than `nextAt` (R385) -/
  wakeAt : Nat
  residentAt : Nat
  aged : Bool
  yielded : Bool
  drainAt : Nat
  tileAt : Nat
  spinAt : Nat
  /-- instructions retired, and retired in the quantum; stopped at the quantum boundary (R391) -/
  retired : Nat
  quant : Nat
  stopped : Bool
  frozen : Bool
deriving DecidableEq, Repr

/-! ## Memory, translation and coherence -/

/-- A byte memory by location (R51), little-endian cells in canonical form: locations strictly rising, no byte 0 listed.
An unlisted location reads 0. -/
abbrev Memory := List Host.Cell

/-- A cached translation (R69, R70): `log2` of the page size in 4 KiB pages, `vpage` its first page, `loc` its location. `attrs` are
the entries of the region attribute table that meet the page, as launch `launch` (context * 64 + slot) has them (R58, R69). -/
structure TlbEnt where
  pasid : Nat
  vpage : Nat
  log2 : Nat
  loc : Nat
  r : Bool
  w : Bool
  x : Bool
  launch : Nat
  attrs : List Words4
deriving DecidableEq, Repr

/-- A miss of a die TLB (R72): the cores of the die that wait, and whether it has an entry of the table and its request has gone out. -/
structure DieMiss where
  pasid : Nat
  vpage : Nat
  ctx : Nat
  exec : Bool
  cores : List Nat
  sent : Bool
deriving DecidableEq, Repr

/-- A miss of the ATS cache (R71, R72): one core of each die that waits, whether the request has gone out, the ranges (page, log2 of the
pages) invalidated since it went out (R85), whether it is the new request of a record in RETRANS (R80), and whether it waits for a
free record of the fault buffer (R76). -/
structure AtsMiss where
  pasid : Nat
  vpage : Nat
  ctx : Nat
  exec : Bool
  cores : List Nat
  sent : Bool
  late : List (Nat × Nat)
  retrans : Bool
  full : Bool
deriving DecidableEq, Repr

/-- States of a fault-buffer record (R78). -/
inductive FState where
  | free | gather | sent | retrans | wake
deriving DecidableEq, Repr

/-- A fault-buffer record (R78): its index, its fields, the waiter bits `wait`, and in WAKE the verdict (R80). -/
structure FRec where
  idx : Nat
  pasid : Nat
  vpage : Nat
  ctx : Nat
  r : Bool
  w : Bool
  x : Bool
  merged : Nat
  prgi : Nat
  st : FState
  port : Nat
  ten : Nat
  tfirst : Nat
  tresp : Nat
  wait : BitVec 128
  resp : Nat
  retry : Nat
  rv : Bool
  refused : Bool
deriving DecidableEq, Repr

/-- States of a directory entry (R123). -/
inductive DirSt where
  | i | s | m | u
deriving DecidableEq, Repr

/-- A directory entry (R123), of the grain whose first location is its key. `uoh` has a bit for each pair of cores. `gcode` is the
grain recorded for the block's entries (R122), `ukey` the key of the update-only partials (R133). -/
structure DirEntry where
  ten : Nat
  st : DirSt
  shr : BitVec 16
  ha : Bool
  lh : Nat
  own : Nat
  lp : Nat
  hv : Bool
  uoh : BitVec 64
  gcode : BitVec 2
  ukey : Nat
  used : Nat
deriving DecidableEq, Repr

/-- An L2 tag entry (R118) of the block whose location is its key; `age` is the time of last use. -/
structure TagEntry where
  way : Nat
  key : Nat
  grain : BitVec 2
  cls : Nat
  ctx : Nat
  ten : Nat
  sv : BitVec 16
  sd : BitVec 16
  age : Nat
deriving DecidableEq, Repr

/-- An RDC block (R129): the lease last granted in ticks and its end as a tick. -/
structure RdcBlock where
  key : Nat
  ten : Nat
  sv : BitVec 16
  lease : Nat
  e : Nat
deriving DecidableEq, Repr

/-- Classes of a granule (R145). -/
inductive Cls where
  | unseen | priv | readonly | shared
deriving DecidableEq, Repr

/-- A class-table entry (R145) of the granule whose location is its key. `rdrs` has a bit for each pair of cores. -/
structure ClassEntry where
  cls : Cls
  wd : Bool
  mig : Nat
  stp : Bool
  owner : Option Party
  ctx : Nat
  lid : Nat
  ten : Nat
  rdrs : BitVec 64
  used : Nat
deriving DecidableEq, Repr

/-- A class-cache entry of a core (R149). -/
structure ClsLine where
  cls : Cls
  owner : Option Party
  sbit : Bool
  lid : Nat
  used : Nat
deriving DecidableEq, Repr

/-- A block in a core's L1 (R12): its key, its tenant, the sectors that are valid, those that differ from the home, those of grains
the core owns (R125), and for a block homed on another die the lease end of R129. -/
structure L1Line where
  key : Nat
  ten : Nat
  sv : BitVec 16
  sd : BitVec 16
  own : BitVec 16
  lease : Option Nat
  used : Nat
deriving DecidableEq, Repr

/-- A request of a core that its home has not answered (R96 TAG): the party, the access, whether it is strict, the tag of the
instruction's work, the tick at which it was sent (R130) and its place in the order of sending. `reply` says that the access is not
performed yet, `ack` that its class answer is still to come (R146), `byAck` that its ACK is also its reply (R100); `drained` that a DRAIN
of the granule was accepted meanwhile (R149), `lost` that a probe of the grain was answered meanwhile, so that the answer brings no
copy; `keeps` is false for a PREF that fills no L1 (R183). -/
structure Trans where
  who : Party
  acc : Acc
  strict : Bool
  wtag : Nat
  sentAt : Nat
  order : Nat
  reply : Bool
  ack : Bool
  byAck : Bool
  drained : Bool
  lost : Bool
  keeps : Bool
deriving DecidableEq, Repr

/-- What a home is asked to do: the requests of cores and RDC slices (R125), writes sent to a replica (R165), the
recall of a directory entry (R122), the removal of a class entry (R144, R168), a collection at a kernel boundary or for a core that
drops a tenant (R128, R168), a partial that comes by itself (R133), what the host asks (R135, R136), what a service core needs
before it reads or writes (R147, R162), what a peer asks (R458), and a line of code that the host must give (R20, R135, R136). -/
inductive ReqKind where
  | rd | rdc | renew | own | upg | arm | wr | atom | replica | recall | drop | collect | part | hostRd | hostWr | snpInv | snpData | snpCur
  | svcRd | svcWr | linkRd | linkWr | code
deriving DecidableEq, Repr

/-- What a home's request waits for: its turn at the class table, drains, its turn at the directory, probes, the host, the
replicas. -/
inductive TxStage where
  | classify | drains | directory | probes | host | replicas
deriving DecidableEq, Repr

/-- A request at a home, kept in arrival order (R125, R147): `core` and `tag` name the requester's transaction, `owed` the
cores or dies whose answers are awaited, `clean` is false once a DRAINACK had S set, `answer` is the class answer, `parts`
the partials collected (R134): core, word, operation, value. `lines` are the 64-byte lines that the host still owes an answer for
(R135, R136). -/
structure Txn where
  id : Nat
  kind : ReqKind
  who : Party
  core : Nat
  tag : Nat
  ten : Nat
  wcls : Nat
  src : Endpoint
  slice : Nat
  loc : Nat
  size : Nat
  /-- the whole range of a request of the host or a peer that is served grain by grain -/
  base : Nat
  len : Nat
  sect : BitVec 16
  gran : Nat
  grain : Nat
  gcode : BitVec 2
  key : Nat
  strict : Bool
  aux : Nat
  aop : BitVec 4
  a : DWord
  c : DWord
  quiet : Bool
  bytes : List Byte
  stage : TxStage
  owed : List Nat
  clean : Bool
  answer : Nat
  mix : Bool
  hostOk : Bool
  replOk : Bool
  /-- its probes have been answered (R125) -/
  probed : Bool
  /-- replicas of the location, 0 when it is not replicated (R165); whether MIXCHK is set (R155) -/
  repl : Nat
  mixchk : Bool
  parts : List (Nat × Nat × BitVec 4 × DWord)
  lines : List Nat
deriving DecidableEq, Repr

/-- What is performed at a home within the last 1,024 mesh cycles in ranges with MIXCHK (R155). -/
structure MixRec where
  loc : Nat
  size : Nat
  writes : Bool
  who : Party
  mesh : Nat
deriving DecidableEq, Repr

/-- A message to the host or to a peer, as the module sent it (R71, R77, R84, R135, R136, R457). -/
inductive HostMsg where
  | atsRequest (port pasid vpage : Nat) (exec : Bool)
  | pageRequest (port pasid vpage prgi : Nat) (r w x last : Bool)
  | invalComplete (pasid vpage : Nat)
  | rdShared (loc : Nat)
  | rdOwn (loc : Nat)
  | dirtyEvict (loc : Nat) (bytes : List Byte)
  | snoopReply (loc : Nat) (modified : Bool) (bytes : List Byte)
  | biSnp (loc : Nat) (inv : Bool)
  | biConflictAck (loc : Nat)
  | memData (hpa : Nat) (poison : Bool) (bytes : List Byte)
  | memDone (hpa : Nat)
  | error (what : Nat)
  | peerRead (link tag window offset len : Nat)
  | peerWrite (link tag window offset : Nat) (bytes : List Byte)
  | peerData (link tag : Nat) (refused : Bool) (bytes : List Byte)
  | peerAck (link tag : Nat) (refused : Bool)
  | peerWindows (link : Nat) (windows : List (Nat × Nat))
  | uiMessage (link tag sctx ctx vec : Nat) (payload : DWord)
  | uiStatus (link tag status : Nat)
  | report (bytes : List Byte)
  | ready
deriving DecidableEq, Repr

/-- Where a flit stands on the mesh (R93, R95): in its source's FIFO, at an input of a router (0 W, 1 E, 2 N, 3 S, 4 + p port p) or on
the link to it, in its sink's FIFO, or taken by its sink. -/
inductive MeshPlace where
  | source
  | router (m : Nat) (inp : Nat)
  | sink
  | taken
deriving DecidableEq, Repr

/-- A flit on the mesh: its place, and the mesh cycle at which it is or was there. -/
structure MeshFlit where
  instr : Instr
  place : MeshPlace
  since : Nat
deriving DecidableEq, Repr

/-- An update-only partial (R133): its operation and value, and the page through which the last RED reached it (R84, R152). -/
structure Partial where
  op : BitVec 4
  val : DWord
  pasid : Nat
  vpage : Nat
deriving DecidableEq, Repr

/-- A parcel in a core's instruction cache (R12, R21): the launch for which it was fetched, and its key. -/
structure CodeLine where
  launch : Nat
  key : Nat
  parcel : BitVec 16
deriving DecidableEq, Repr

/-- A core's memory side (R69, R129 to R133, R149), and its instruction cache by location (R12). -/
structure CoreMem where
  tlb : List TlbEnt
  l1 : Table L1Line
  cls : Table ClsLine
  /-- grains held in state U, with the key of their partials (R133) -/
  ugrains : Table Nat
  partials : Table Partial
  trans : Table Trans
  nextTag : Nat
  pabs : Nat
  /-- write credits taken, by home slice (R100) -/
  credits : Table Nat
  /-- DRAINs accepted whose DRAINACK waits for overlapped accesses (R148) -/
  drains : List DrainAck
  code : Table CodeLine
deriving DecidableEq, Repr

/-- A partition of a core (R249, R251, R253, R384): who issues, which extended units and trap banks are held. -/
structure Part where
  current : Option Nat
  stageFree : Nat
  packAt : Nat
  packQuarters : BitVec 4
  extUnits : Nat
  vacq : List Nat
  /-- holder of each trap-level bank 0 to 3, and the plies waiting for one, oldest first -/
  banks : List (Option Nat)
  bankWait : List Nat
deriving DecidableEq, Repr

/-- The pending state of a user-interrupt vector (R415) and the ply that has claimed it (R419), named by launch slot, skein
index and plyid. -/
structure VecSt where
  pend : Bool
  slot : DWord
  fifo : List DWord
  ovf : Nat
  claim : Option Nat
deriving DecidableEq, Repr

/-- A context: its descriptor (R60), region attribute table (R58), registers (R439), user-interrupt state (R413 to R418), tree
map (R106), watch page (R477), watchdog count (R410), save areas in use (R515) and the plies whose serial actions are still to
be performed in the serial phase (R391). -/
structure Ctx where
  desc : List DWord
  rat : List Words4
  trapcfg : DWord
  xvec : DWord
  watchen : DWord
  wdog : DWord
  detq : DWord
  uivec : DWord
  uimask : DWord
  perms : List (DWord × DWord)
  rates : List Nat
  vectors : List DWord
  vecs : List VecSt
  mailPasid : Nat
  mailStat : DWord
  nacc : Nat
  treemap : List (Option Nat)
  watchUnits : List WatchId
  watchSeq : Nat
  idleTicks : Nat
  saves : List Nat
  serial : List Nat
  inSerial : Bool
  boost : Bool
  killed : Bool
  /-- the kill record that is still to be written (R437, R438), and how far its write has come: 0 not asked, 1 the page asked
  of the host's translation, 2 asked through the fault buffer -/
  killRec : Option (List DWord)
  killStep : Nat
  /-- the quantum number of deterministic mode (R391, R440), and the cycle at which the quantum began (log 46) -/
  quantum : Nat
  quantAt : Nat
  suspended : Bool
deriving DecidableEq, Repr

/-- A barrier (R398): `arrm` the plies that arrived in the open phase, `defm` those whose arrival is deferred. -/
structure Barrier where
  phase : Nat
  acc : Word
  op : Nat
  narr : Nat
  arrm : BitVec 32
  defm : BitVec 32
deriving DecidableEq, Repr

/-- A ply waiting in QPOP, in issue order (R366); `closed` once the queue has closed under it. -/
structure Popper where
  queue : Nat
  plyid : Nat
  closed : Bool
deriving DecidableEq, Repr

/-- States of an open copy (R206); DONE copies are not open. -/
inductive CopySt where
  | queued | active | waitPage | stamping | saved
deriving DecidableEq, Repr

/-- Where a copy stands in the program of R197: the index-list read, the cursor atomic, the read of an element, its write,
the stamp, the end. -/
inductive CopyPhase where
  | index | cursor | read | write | stamp | done
deriving DecidableEq, Repr

/-- An open copy (R189 to R206): the registers read at issue, the place of its tile, and its progress. `issuer` is the ply
index, `left` the rest of the chunk being served, `since` the chunks served to others while it was eligible, `miss` the
page it waits for and whether the fault buffer holds it. -/
structure Copy where
  n : Nat
  instr : Instr
  issuer : Nat
  tl : Nat
  layout : List DWord
  coord : List DWord
  tref : DWord
  /-- the elements of the memory side read, and of the one written, that lie in pieces already translated and permitted (R200) -/
  okRead : Nat
  okWrite : Nat
  cls : Nat
  slack : Nat
  since : Nat
  st : CopySt
  row : Nat
  col : Nat
  phase : CopyPhase
  idx : Nat
  slot : Nat
  val : QWord
  waiting : Bool
  left : Nat
  dropped : Nat
  stop : Option (Nat × DWord)
  miss : Option (Nat × Bool × Bool × Bool)
  verdict : Verdict
deriving DecidableEq, Repr

/-- The status of a completed copy (R210). -/
structure CopyStat where
  n : Nat
  part : Bool
  reason : Nat
  bytes : Nat
  dropped : Nat
deriving DecidableEq, Repr

/-- A pending fault mark (R203). -/
structure CopyMark where
  issuer : Nat
  n : Nat
  page : DWord
  reason : Nat
deriving DecidableEq, Repr

/-- A copy-engine context (R189): `ahead` the complete copies above the timeline, with FIN or without. -/
structure Engine where
  issued : Nat
  timeline : Nat
  copies : List Copy
  stats : List CopyStat
  marks : List CopyMark
  ahead : List Nat
  /-- copies whose FIN waits for the timeline: number and tile reference (R198) -/
  fins : List (Nat × Bool × DWord)
  /-- the last ply of the skein is in EVICT: no chunk starts (R208) -/
  halted : Bool
deriving DecidableEq, Repr

/-- A running skein (R377): its launch record (R373) and what its plies share. -/
structure Skein where
  ctx : Nat
  lid : Nat
  index : Nat
  nskein : Nat
  lrec : List DWord
  save : DWord
  /-- plies that have retired, and plies that have left by EVICT -/
  retired : BitVec 32
  left : BitVec 32
  bars : List Barrier
  queues : List (List DWord)
  poppers : List Popper
  /-- tickets resolved by this skein, by chain (R402) -/
  resolved : BitVec 8
  eng : Engine
  /-- tile window (R215), generation counters of the handles (R217) -/
  wbase : Nat
  wsize : Nat
  gens : List Nat
  /-- generator registers g0 to g7 (R334) -/
  gregs : List Words4
  /-- writes of GSET not made yet: cycle, register, words (R343) -/
  gnew : List (Nat × Nat × Words4)
  /-- spindle context: batches opened, timeline, completed above it (R327) -/
  spOpened : Nat
  spTimeline : Nat
  spAhead : List Nat
  /-- skeins that failed by a copy mark or a lost granule (R203, R376) -/
  failed : Bool
  gang : Bool
  /-- deferred arrivals of plies that have retired: ply, sequence number, barrier, phase (R209, R363) -/
  late : List (Nat × Nat × Nat × Nat)
deriving DecidableEq, Repr

/-- A SAVED skein (R208, R448 to R450): the skein as its last ply left, and for each ply XVAL1 and its retired count. The parts
that R449 lays out are read from the save area again, the copies' among them (R208); the rest has no place there (log 22). -/
structure Away where
  skein : Option Skein
  plies : Table (DWord × Nat)
  /-- the entries of the tile table it needs -/
  tiles : Nat
deriving DecidableEq, Repr

/-- A ticket chain of a launch (R402): `done` the tickets resolved ahead of the head, with the value of a PUT; `seen` the
value and skip count as of the moment the head reached each index (R403). -/
structure Chain where
  h : Nat
  v : DWord
  k : DWord
  done : Table (Option DWord)
  seen : Table (DWord × DWord)
deriving DecidableEq, Repr

/-- Where an accepted launch stands (R374 to R376). -/
inductive LaunchSt where
  /-- dealing its skeins, once its dependences are met -/
  | dealing
  /-- every skein dealt -/
  | dealt
  /-- refused with a code (R374) -/
  | refused (code : Nat)
  /-- finished: the steps of R168 are done -/
  | finished
deriving DecidableEq, Repr

/-- An accepted, unfinished launch (R372 to R376, R382, R383, R514). `next` is the next skein to deal, `ended` how many have
ended, `bound` the skein that waits for room on a core, `gangAt` the tick since which a gang waits, `held` the cores reserved
for it; `plist` and `gmask` come from the chosen variant (R473); `draining` counts the steps of
R168 that have been asked: the collections, the removals. -/
structure Launch where
  ctx : Nat
  lid : Nat
  queue : Nat
  seq : Nat
  lrec : List DWord
  /-- the region attribute table as of acceptance (R58) -/
  rat : List Words4
  /-- the context descriptor as of acceptance (R60) -/
  desc : List DWord
  /-- the cores on which its skeins have run (R168) -/
  ran : BitVec 128
  chains : List Chain
  st : LaunchSt
  next : Nat
  ended : Nat
  nfail : Nat
  ffirst : Option Nat
  starve : Nat
  bound : Option (Nat × Tcb)
  gangAt : Option Nat
  held : List Nat
  plist : List Nat
  gmask : Option (BitVec 128)
  draining : Nat
  /-- the launch was unfinished when its context was killed, or every launch was failed (R437, R465) -/
  killed : Bool
deriving DecidableEq, Repr

/-! ## Tiles, spindles, copy engines of a core -/

/-- Tile states (R217). -/
inductive TileSt where
  | empty | filling | ready | draining
deriving DecidableEq, Repr

/-- A tile-table entry (R217). -/
structure TileEnt where
  slot : Nat
  handle : Nat
  gen : Nat
  st : TileSt
  part : Bool
  spn : Bool
  ncpy : Nat
  base : Nat
  size : Nat
deriving DecidableEq, Repr

/-- A batch (R326): its ply, number, D reference, accumulators row by row, MMA count, and PART of its close. -/
structure Batch where
  owner : Nat
  n : Nat
  dref : DWord
  dphys : Nat
  acc : List Word
  count : Nat
  part : Bool
deriving DecidableEq, Repr

/-- An operand of an MMA: its code in XVAL, its descriptor, its operand register and its rows (96 or 128). -/
structure MmaOp where
  code : Nat
  desc : DWord
  reg : DWord
  rows : Nat
deriving DecidableEq, Repr

/-- An operand as the MMA copied it at its issue (R340): the place and size of its tile, or its generator's image, its effective seed and
the place of its tables. -/
structure SpinOp where
  op : MmaOp
  base : Nat
  size : Nat
  gen : Option Words4
  seed : DWord
  table : Nat
deriving DecidableEq, Repr

/-- What a spindle does with the units that it reads in a window: products (R320), the accumulators of a resumed batch (R341), or an
epilogue: its word, the rounding mode and NSAT at issue, and the places of D, the bias and the output (R342). -/
inductive SpinWork where
  | mma (k : Nat) (a b : SpinOp)
  | resume (dphys : Nat)
  | mepi (word : DWord) (mode : Nat) (nsat : Bool) (dphys bphys ophys : Nat)
deriving DecidableEq, Repr

/-- A spindle (R325 to R329): the open batch, the draining one, and the end of the last window; the units that its slots still have to
read, in ascending order, the bytes read, what they are for and for which ply; the units still to write, and the cycle up to which its
slots have been served. -/
structure Spindle where
  opened : Option Batch
  drain : Option Batch
  window : Nat
  reads : List Nat
  image : Memory
  work : Option SpinWork
  owner : Nat
  writes : List (Nat × List Byte)
  served : Nat
deriving DecidableEq, Repr

/-- Work donation of a core (R380): how many victims of the round have been asked, whether a request is out, the back-off. -/
structure Steal where
  asked : Nat
  out : Bool
  backoff : Option Nat
deriving DecidableEq, Repr

/-- A core outside its plies: tile memory by address (R213), tile table (R217), skein queues (R378), copy engine (R204), the
spindles of its partitions, energy registers by context: EBUD, EFILL, ECAP (R332), reduction trees by slot: round, MISSED,
and the ply whose contribution is outstanding (R109, R111, R113). -/
structure CoreHw where
  tile : Memory
  tiles : List TileEnt
  queues : List (List Tcb)
  deficits : List Nat
  cls : Nat
  serving : Option (Nat × Nat)
  spindles : List Spindle
  energy : Table (DWord × DWord × DWord)
  trees : Table (Nat × Bool × Option Nat)
  steal : Steal
  /-- the last cycle in which the copy engine used port A, and what it used there: 2 * unit, plus 1 for a write (R213, R214) -/
  portA : Nat
  units : List Nat
  /-- the clearing of windows has the odd cycles of port A up to here (R215) -/
  clearTo : Nat
  /-- the first mesh cycle in which the core may start a further skein (R379) -/
  startAt : Nat
deriving DecidableEq, Repr

/-! ## The rest of the module -/

/-- An installed tree (R106, R107): its context, whether its launch runs in deterministic mode (R388), its record of 72 words; the timer of
the root (R110). -/
structure Tree where
  ctx : Nat
  det : Bool
  words : List DWord
  started : Option (Nat × Nat)
deriving DecidableEq, Repr

/-- A router's part in a tree (R109): its round, the inputs delivered, by input code and round, and the round to flush. -/
structure TreeNode where
  round : Nat
  got : List (Nat × Nat × List Word × BitVec 128)
  flush : Option Nat
  sent : Bool
deriving DecidableEq, Repr

/-- A watch unit (R474). -/
structure WatchUnit where
  cfg : DWord
  min : Nat
  max : Nat
  cnt : Nat
  sum : Nat
  bins : List Nat
deriving DecidableEq, Repr

/-- A peer link end (R457, R460): the peer's windows with their sizes, this module's exports (window, location, size), the
authentication failures in a row, the requests a copy waits on (tag, skein, copy). -/
structure PeerLink where
  up : Bool
  windows : List (Nat × Nat)
  exports : List (Nat × Nat × Nat)
  fails : Nat
  nextTag : Nat
  pending : List (Nat × Nat × Nat)
  /-- user-interrupt messages without their status yet (R417) -/
  uiOut : List Nat
deriving DecidableEq, Repr

/-- A service core's span state (R461): CURDOM, the domain stack, the span registers, the gate table: entry address, target
domain, and whether the target is marked return. -/
structure SvcCore where
  curdom : Nat
  stack : List Nat
  spans : List (BitVec 128)
  gates : List (DWord × Nat × Bool)
deriving DecidableEq, Repr

/-- Boot phases (R467 to R469). -/
inductive Phase where
  | reset | running | recovery
deriving DecidableEq, Repr

/-- Fuses (R468, R471). -/
structure Fuses where
  keyHash : List Byte
  svn : Nat
  defect : List Byte
  secret : List Byte
deriving DecidableEq, Repr

/-- The whole machine. -/
structure State where
  phase : Phase
  flash : List Byte
  fuses : Fuses
  /-- messages that their sources have not sent yet and actions of outside agents, oldest first -/
  net : List Instr
  /-- flits on the mesh, oldest first, and the mesh cycle to which the mesh has been moved (R91 to R105) -/
  flits : List MeshFlit
  meshAt : Nat
  /-- the ply whose turn it is -/
  cur : Option Nat
  /-- how many free values have been drawn -/
  free : Nat
  /-- the arithmetic cycle count (R214), and the lease clock in ticks (R5) -/
  cycle : Nat
  tick : Nat
  /-- the cycle at which the tick began, the arithmetic clock in MHz (R14, R478), the count of uses for recency -/
  tickAt : Nat
  clock : Nat
  uses : Nat
  /-- wheel registers WHL0 to WHL3 and WHCTL as in effect, and as written and not yet in effect (R104) -/
  wheel : List DWord
  wheelNext : List DWord
  plies : Table Ply
  skeins : Table Skein
  /-- by context * 64 + launch slot -/
  launches : Table Launch
  mem : Memory
  /-- by sector: the key it was written under, as the key's number + 64 * the count of its loads (R63) -/
  keyed : Table Nat
  /-- replicated granules by their master location: REPMASK (R65, R166) -/
  replicated : Table Nat
  /-- the location register of the descriptor table (R60) -/
  descAt : Nat
  cores : Table CoreMem
  dieTlbs : Table (List TlbEnt)
  /-- by die: the miss table, oldest first; those past the 512th wait for an entry (R72) -/
  dieMisses : Table (List DieMiss)
  ats : List TlbEnt
  /-- the miss table of the ATS cache, oldest first; those past the 4,096th wait for an entry (R72) -/
  misses : List AtsMiss
  /-- records of the fault buffer, in the order in which they were opened; one that is not listed is as after reset (R78) -/
  faults : List FRec
  fbcfg : DWord
  fbcnt : List DWord
  prgAlloc : Nat
  dec0 : Option Nat
  dec1 : Option Nat
  dir : Table DirEntry
  tags : Table TagEntry
  rdc : Table (Table RdcBlock)
  classes : Table ClassEntry
  withdrawn : List Nat
  /-- armed monitors, oldest first: ply, first location and length of the grain (R159, R185) -/
  mons : List (Nat × Nat × Nat)
  txns : List Txn
  nextTxn : Nat
  mixlog : List MixRec
  fenced : List Agent
  /-- writes at the partner of a fenced slice wait until a tick (R137), by slice -/
  sliceHold : Table Nat
  /-- invalidations whose completion has not been sent: PASID, first page, log2 of the pages (R84) -/
  invals : List (Nat × Nat × Nat)
  hostOut : List HostMsg
  parts : Table Part
  ctxs : Table Ctx
  hw : Table CoreHw
  /-- SAVED skeins by context, launch slot and skein index (R208) -/
  aside : Table Away
  /-- the deal cursor (R378), as an index into its sequence -/
  cursor : Nat
  /-- ACCEPTED and COMPLETE of each launch queue, by context * 8 + queue (R370) -/
  lqs : Table (Nat × Nat)
  trees : Table Tree
  /-- by slot * 64 + router -/
  nodes : Table TreeNode
  /-- by unit: cores 4c + u, dies 512 + 16d + u -/
  watch : Table WatchUnit
  links : Table PeerLink
  fibres : List Nat
  /-- last heartbeat of each agent that has sent one: sequence number and tick (R463); agents that have failed and send
  none any more -/
  beats : List (Agent × Nat × Nat)
  silent : List Agent
  uidrop : Nat
  hostKeys : Table Nat
  /-- by key: how often Gelaradar has loaded it (R63) -/
  tenantKeys : Table Nat
  replicaLog : List Nat
  svcs : Table SvcCore
  /-- energy units drawn and refilled in the power window (R478) -/
  drawn : Nat
  refilled : Nat
  raiseAt : Nat
deriving DecidableEq, Repr

/-- The machine right after reset: nothing runs until the boot ROM has checked the flash image (R467). Registers stand at
the reset values of their tables; no ply, launch, context or cached copy exists, memory lists nothing. The flash holds an
erased image, the fuses and the decoders' bases are blank: DESIGN CHOICE, log 4. -/
def State.reset : State :=
  { phase := .reset
    flash := []
    fuses := ⟨List.replicate 32 0, 0, List.replicate 48 0, List.replicate 32 0⟩
    net := []
    flits := []
    meshAt := 0
    cur := none
    free := 0
    cycle := 0
    tick := 0
    tickAt := 0
    clock := 2700
    uses := 0
    wheel := [0xA832107698543210, 0xA876543298107654, 0xA832107698543210, 0xA876543298107654, 0]
    wheelNext := []
    plies := []
    skeins := []
    launches := []
    mem := []
    keyed := []
    replicated := []
    descAt := 0
    cores := []
    dieTlbs := []
    dieMisses := []
    ats := []
    misses := []
    faults := []
    fbcfg := 0x0F
    fbcnt := [0, 0, 0, 0]
    prgAlloc := 0
    dec0 := none
    dec1 := none
    dir := []
    tags := []
    rdc := []
    classes := []
    withdrawn := []
    mons := []
    txns := []
    nextTxn := 0
    mixlog := []
    fenced := []
    sliceHold := []
    invals := []
    hostOut := []
    parts := []
    ctxs := []
    hw := []
    aside := []
    cursor := 0
    lqs := []
    trees := []
    nodes := []
    watch := []
    links := []
    fibres := [2, 2, 2, 2]
    beats := []
    silent := []
    uidrop := 0
    hostKeys := []
    tenantKeys := []
    replicaLog := []
    svcs := []
    drawn := 0
    refilled := 0
    raiseAt := 0 }

end Sys2Proof.Machine
end

