-- ==== Sys2Proof/Machine/Table.lean ====
section
/-! DEFINITION. Sparse tables: lists of key and value sorted by key, and the few list helpers the machine uses. -/

namespace Sys2Proof

/-- The value under a key. -/
def Table.get? {α : Type} : Table α → Nat → Option α
  | [], _ => none
  | (j, a) :: t, k => if j = k then some a else Table.get? t k

/-- Replace or insert the value under a key. -/
def Table.set {α : Type} : Table α → Nat → α → Table α
  | [], k, x => [(k, x)]
  | (j, a) :: t, k, x =>
    if j < k then (j, a) :: Table.set t k x
    else if j = k then (k, x) :: t
    else (k, x) :: (j, a) :: t

/-- Remove the value under a key. -/
def Table.erase {α : Type} : Table α → Nat → Table α
  | [], _ => []
  | (j, a) :: t, k => if j = k then t else (j, a) :: Table.erase t k

/-- The value under a key, or a default. -/
def Table.getD {α : Type} (t : Table α) (k : Nat) (d : α) : α := (t.get? k).getD d

/-- Change the value under a key, if there is one. -/
def Table.modify {α : Type} (t : Table α) (k : Nat) (f : α → α) : Table α :=
  match t.get? k with
  | some a => t.set k (f a)
  | none => t

/-- Whether a key is present. -/
def Table.has {α : Type} (t : Table α) (k : Nat) : Bool := (t.get? k).isSome

/-- Keep the entries a test accepts. -/
def Table.filter {α : Type} (t : Table α) (f : Nat → α → Bool) : Table α := List.filter (fun e => f e.1 e.2) t

/-- The keys, ascending. -/
def Table.keys {α : Type} (t : Table α) : List Nat := List.map (·.1) t

/-- Keys strictly rising. -/
def Table.Sorted {α : Type} : Table α → Prop
  | [] => True
  | (k, _) :: t => (match t with
      | [] => True
      | (j, _) :: _ => k < j) ∧ Table.Sorted t

/-- Change element `n` of a list. -/
def listModify {α : Type} (l : List α) (n : Nat) (f : α → α) : List α := l.modify n f

/-- The low 32 bits of a wider value. -/
def lo32 (x : BitVec n) : Word := x.setWidth 32

/-- The least number below `n` that a test accepts. -/
def leastBelow (n : Nat) (f : Nat → Bool) : Option Nat := (List.range n).find? f

/-- The mask with bits 0 to w - 1 set. -/
def maskLow (w : Nat) : DWord := BitVec.ofNat 64 (2 ^ w - 1)

/-- The threads of a mask, ascending. -/
def threadsOf (w : Nat) (m : DWord) : List Nat := (List.range w).filter m.getLsbD

/-- Place a field of a register word: bits `lo` upward of a 64-bit word hold `v`. -/
def fieldAt (lo v : Nat) : DWord := BitVec.ofNat 64 (v * 2 ^ lo)

/-- The value of the field of `n` bits at `lo`. -/
def fieldOf (w : DWord) (lo n : Nat) : Nat := (w.toNat / 2 ^ lo) % 2 ^ n

end Sys2Proof
end

