-- ==== Sys2Proof/Machine/Ops.lean ====
section
/-! DEFINITION. Named operations over the state: registers and their writes, landing, the launch record's fields, and
taking a trap and returning from one (R432 to R443). -/

namespace Sys2Proof.Machine

/-! ## Finding the parts -/

def Ply.key (p : Ply) : Nat := p.core * 512 + p.slot * 32 + p.plyid
def Ply.skeinKey (p : Ply) : Nat := p.core * 16 + p.slot
/-- The partition of a ply (R349). -/
def Ply.partKey (p : Ply) : Nat := p.core * 4 + p.plyid % 4

/-- A ply by the name it keeps over a save and a restore: launch slot, skein index, plyid. -/
def Ply.logic (p : Ply) : Nat := (p.lid * 2 ^ 32 + p.skix) * 32 + p.plyid

def Part.empty : Part := ⟨none, 0, 0, 0, 0, [], [none, none, none, none], []⟩

def State.ply? (s : State) (k : Nat) : Option Ply := s.plies.get? k
def State.setPly (s : State) (k : Nat) (p : Ply) : State := { s with plies := s.plies.set k p }
def State.modPly (s : State) (k : Nat) (f : Ply → Ply) : State := { s with plies := s.plies.modify k f }
def State.part (s : State) (k : Nat) : Part := s.parts.getD k Part.empty
def State.modPart (s : State) (k : Nat) (f : Part → Part) : State := { s with parts := s.parts.set k (f (s.part k)) }
def State.skein? (s : State) (p : Ply) : Option Skein := s.skeins.get? p.skeinKey
def State.modSkein (s : State) (k : Nat) (f : Skein → Skein) : State := { s with skeins := s.skeins.modify k f }
def State.modCtx (s : State) (k : Nat) (f : Ctx → Ctx) : State := { s with ctxs := s.ctxs.modify k f }

/-- Debug mode of a ply's context (R440). -/
def State.debug (s : State) (p : Ply) : Bool :=
  match s.ctxs.get? p.ctx with
  | some c => c.trapcfg.getLsbD 0
  | none => false

/-- The vector base of a ply's context (R440). -/
def State.xvec (s : State) (p : Ply) : DWord :=
  match s.ctxs.get? p.ctx with
  | some c => c.xvec
  | none => 0

/-! ## The launch record (R373) -/

def recWord (r : List DWord) (n : Nat) : DWord := r.getD n 0
def recNply (r : List DWord) : Nat := fieldOf (recWord r 2) 26 6
def recNprod (r : List DWord) : Nat := fieldOf (recWord r 2) 20 6
def recExt (r : List DWord) : Bool := (recWord r 2).getLsbD 13
def recWidth (r : List DWord) : Nat := 8 * 2 ^ fieldOf (recWord r 2) 11 2
def recTilemem (r : List DWord) : Nat := fieldOf (recWord r 3) 0 22
def recDet (r : List DWord) : Bool := (recWord r 2).getLsbD 8
/-- The base budget of a role in registers: R350. -/
def recBase (r : List DWord) (role : Role) : Nat :=
  8 * (if role = .consumer then fieldOf (recWord r 2) 14 3 else fieldOf (recWord r 2) 17 3)
/-- The barrier code of R373: 0 undeclared, 1 to 32 a count, 33 all, 34 producer, 35 consumer. -/
def recBar (r : List DWord) (b : Nat) : Nat :=
  if b < 10 then fieldOf (recWord r 4) (6 * b) 6 else fieldOf (recWord r 5) (6 * (b - 10)) 6
/-- The five bits of queue q: bit 4 declared, 3:2 from, 1:0 to. -/
def recQueue (r : List DWord) (q : Nat) : Nat := fieldOf (recWord r 6) (5 * q) 5
def recTicket (r : List DWord) (c : Nat) : Bool := (recWord r 6).getLsbD (40 + c)
/-- The role of plyid in a skein (R349). -/
def recRole (r : List DWord) (plyid : Nat) : Role :=
  if recNprod r = 0 then .all else if plyid < recNprod r then .producer else .consumer
/-- Whether a ply of a role is in the set that a role code names (0 all, 1 producer, 2 consumer). -/
def roleIn (code : Nat) (r : Role) : Bool :=
  code = 0 || (code = 1 && decide (r = .producer)) || (code = 2 && decide (r = .consumer))

/-- The launch record of a ply's skein. -/
def State.launchRec (s : State) (p : Ply) : List DWord := match s.skein? p with
  | some k => k.lrec
  | none => []

/-! ## Register values -/

def OEntry.vacant : OEntry := ⟨true, false, []⟩
def OEntry.invalid : OEntry := ⟨false, false, []⟩
def Latch.off : Latch := ⟨false, []⟩
def TrapRegs.zero : TrapRegs := ⟨0, 0, 0, 0, 0, 0, [], []⟩

/-- Replace the values of the threads of a mask. -/
def mergeLanes (w : Nat) (mask : DWord) (old : Lanes) (vals : List DWord) : Lanes :=
  (List.range w).map fun k => if mask.getLsbD k then lo32 (vals.getD k 0) else old.at k

/-- The operand cache of the current level (R244). -/
def Ply.oNow (p : Ply) : List OEntry := match p.banks with
  | [] => p.o
  | b :: _ => b.regs

/-- The operand cache of the level just below (R257). -/
def Ply.oBelow (p : Ply) : List OEntry := match p.banks with
  | [] => []
  | [_] => p.o
  | _ :: b :: _ => b.regs

def Ply.setONow (p : Ply) (l : List OEntry) : Ply := match p.banks with
  | [] => { p with o := l }
  | b :: t => { p with banks := { b with regs := l } :: t }

def Ply.setOBelow (p : Ply) (l : List OEntry) : Ply := match p.banks with
  | [] => p
  | [_] => { p with o := l }
  | a :: b :: t => { p with banks := a :: { b with regs := l } :: t }

/-- Write an operand-cache entry: it becomes valid and live, and threads not written keep a live value or read zero. -/
def OEntry.write (w : Nat) (e : OEntry) (mask : DWord) (vals : List DWord) : OEntry :=
  ⟨true, true, mergeLanes w mask (if e.valid && e.live then e.vals else []) vals⟩

def Latch.write (w : Nat) (l : Latch) (mask : DWord) (vals : List DWord) : Latch :=
  ⟨true, mergeLanes w mask (if l.valid then l.vals else []) vals⟩

/-- Make one register write (R242, R244, R247, R250, R283). -/
def Ply.write (p : Ply) (w : Write) : Ply :=
  match w.slot with
  | .v n => { p with v := p.v.set n (mergeLanes p.width w.mask (p.v.getD n []) w.vals) }
  | .o n => p.setONow (p.oNow.modify n fun e => e.write p.width w.mask w.vals)
  | .lx => { p with lx := p.lx.write p.width w.mask w.vals }
  | .ly => { p with ly := p.ly.write p.width w.mask w.vals }
  | .s n => { p with s := p.s.set n (w.vals.getD 0 0) }
  | .p n => { p with p := p.p.modify n fun x => (x &&& ~~~w.mask) ||| (w.vals.getD 0 0 &&& w.mask) }
  | .q n => { p with q := (p.q &&& ~~~(1#8 <<< n)) ||| (if (w.vals.getD 0 0).getLsbD 0 then 1#8 <<< n else 0) }

/-- Whether a write is that of threads 32 to 63 alone, the second beat of a ply of width 64 (R240). -/
def Write.second (w : Write) : Bool := decide (w.mask ≠ 0 ∧ w.mask.setWidth 32 = 0#32)

/-- The cycle in which an instruction that issues in cycle `t` meets a write: a reader that goes beat by beat (`beats`) reads the second
beat one cycle later (R240). -/
def Write.readAt (w : Write) (t : Nat) (beats : Bool) : Nat := if beats && w.second then t + 1 else t

/-- Make the fixed-latency writes that a reader issuing in cycle `t` sees, in the order of R242. -/
def Ply.commit (p : Ply) (t : Nat) (beats : Bool) : Ply :=
  let ready := p.pend.filter fun x => decide (x.due ≤ x.write.readAt t beats)
  { ready.foldl (fun q x => q.write x.write) p with pend := p.pend.filter fun x => decide (x.write.readAt t beats < x.due) }

/-- Add a fixed-latency result; the list stays sorted by cycle, later-issued last among equals (R242). -/
def addPend : List Pend → Pend → List Pend
  | [], x => [x]
  | y :: t, x => if y.due ≤ x.due then y :: addPend t x else x :: y :: t

/-- Make a register vacant for every thread (R31, R247). -/
def Ply.vacate (p : Ply) : Slot → Ply
  | .v n => { p with v := p.v.erase n }
  | .o n => p.setONow (p.oNow.modify n fun e => { e with live := false })
  | .s n => { p with s := p.s.erase n }
  | _ => p

/-- Both latches invalid, as after any park but that of trap entry (R248). -/
def Ply.dropLatches (p : Ply) : Ply := { p with lx := Latch.off, ly := Latch.off, lyNew := none }

/-- Every outstanding write made: fixed-latency ones first, then the landings in issue order (R246). -/
def Ply.landAll (p : Ply) : Ply :=
  let p := { p.pend.foldl (fun q x => q.write x.write) p with pend := [] }
  let p := match p.lyNew with
    | some w => { p with ly := p.ly.write p.width w.mask w.vals, lyNew := none }
    | none => p
  { (p.out.flatMap (·.writes)).foldl Ply.write p with out := [] }

/-- Nothing outstanding that a switch point waits for (R246), every tile slot passed (R221). -/
def Ply.landable (p : Ply) : Bool := p.out.all (·.arrived) && decide (p.strict = 0) && p.tiles.isEmpty

/-- Hold a ply in the wait of the instruction at its PC. A park drops the latches (R248); a wait for a cycle is issue timing
and no park (R236). -/
def Ply.waitOn (p : Ply) (c : Cond) (stage : Nat) (h : Option Held) : Ply :=
  match c with
  | .cycle _ => { p with park := .wait c, stage := stage, held := h }
  | _ => { p.dropLatches with park := .wait c, stage := stage, held := h }

/-! ## Operand slots -/

/-- The registers that an operand field names, lowest first (R30). -/
def slotsOf (n : Name) (w : Width) : List Slot :=
  match n with
  | .v n => match w with
    | .one => [.v n]
    | .pair => [.v n, .v (n + 1)]
    | .quad => [.v n, .v (n + 1), .v (n + 2), .v (n + 3)]
  | .o n => match w with
    | .one => [.o n]
    | .pair => [.o n, .o (n + 1)]
    | .quad => []
  | .s n => match w with
    | .quad => [.s n, .s (n + 1)]
    | _ => [.s n]
  | .lx => [.lx]
  | .ly => [.ly]
  | _ => []

/-- The code of a place in XVAL (R32, R241, R247, R283). -/
def Slot.code : Slot → Nat
  | .v n => n
  | .o n => 0x50 + n
  | .lx => 0x58
  | .ly => 0x59
  | .s n => 0x60 + n
  | .p n => 0x80 + n
  | .q n => 0x88 + n

/-- The writes of a result of width `w` into a destination name, for the threads of `mask`; zero discards (R28 to R30). -/
def dstWrites (d : Name) (w : Width) (mask : DWord) (vals : List QWord) : List Write :=
  let part (i : Nat) : List DWord := vals.map fun x => (x.extractLsb' (32 * i) 32).setWidth 64
  match d with
  | .v n => match w with
    | .one => [⟨.v n, mask, part 0⟩]
    | .pair => [⟨.v n, mask, part 0⟩, ⟨.v (n + 1), mask, part 1⟩]
    | .quad => [⟨.v n, mask, part 0⟩, ⟨.v (n + 1), mask, part 1⟩, ⟨.v (n + 2), mask, part 2⟩, ⟨.v (n + 3), mask, part 3⟩]
  | .o n => match w with
    | .one => [⟨.o n, mask, part 0⟩]
    | _ => [⟨.o n, mask, part 0⟩, ⟨.o (n + 1), mask, part 1⟩]
  | .s n => match w with
    | .one => [⟨.s n, 1, part 0⟩]
    | .pair => [⟨.s n, 1, vals.map fun x => x.extractLsb' 0 64⟩]
    | .quad => [⟨.s n, 1, vals.map fun x => x.extractLsb' 0 64⟩, ⟨.s (n + 1), 1, vals.map fun x => x.extractLsb' 64 64⟩]
  | _ => []

/-! ## Traps -/

/-- Cause codes (R436). -/
def causeILLEGAL : Nat := 0x01
def causePRIV : Nat := 0x02
def causeIDIV0 : Nat := 0x03
def causeFPX : Nat := 0x04
def causeVACANT : Nat := 0x05
def causeUPINV : Nat := 0x06
def causeLATVIOL : Nat := 0x07
def causeMIXSIZE : Nat := 0x08
def causeALIGN : Nat := 0x09
def causeXLATE : Nat := 0x0A
def causePROT : Nat := 0x0B
def causeMEMLOST : Nat := 0x0C
def causeTILESTATE : Nat := 0x0D
def causeORPHAN : Nat := 0x0E
def causeWATCHDOG : Nat := 0x0F
def causePREEMPT : Nat := 0x10
def causeTRAPINS : Nat := 0x11
def causeCOPYFAULT : Nat := 0x12
def causeSPINDLEFAULT : Nat := 0x13
def causeREGPOOL : Nat := 0x14
def causeUIFAULT : Nat := 0x15
def causeSTACK : Nat := 0x16
def causeNREDFAULT : Nat := 0x17

/-- XSTATk (R435): the interrupted level, the validity of the saved latches, the floor. -/
def xstatOf (p : Ply) : DWord :=
  fieldAt 7 p.tl ||| fieldAt 6 p.ly.valid.toNat ||| fieldAt 5 p.lx.valid.toNat ||| fieldAt 0 p.floor

/-- Whether a waiting entry to level `lvl` may take bank `b` (R249). -/
def mayTake (lvl b : Nat) : Bool := lvl = 2 || b ≤ 2

/-- The bank that a ply entering level `lvl` takes now (R249): bank 3 first for TL2, the lowest otherwise, and none that
an older waiting entry may take. -/
def bankFor (s : State) (pt : Part) (key lvl : Nat) : Option Nat :=
  let older := pt.bankWait.takeWhile (· ≠ key)
  let free (b : Nat) : Bool := decide (pt.banks.getD b (some 0) = none) && mayTake lvl b &&
    older.all fun w => match s.plies.get? w with
      | some q => !mayTake (q.tl + 1) b
      | none => true
  if lvl = 2 && free 3 then some 3 else leastBelow 4 free

/-- Freeze every ply of a context (R437). -/
def freezeCtx (s : State) (c : Nat) : State :=
  { s with plies := List.map (fun e => (e.1, if e.2.ctx = c then { e.2 with frozen := true } else e.2)) s.plies }

/-- Kill a context (R437): its plies freeze and the kill record of R438 is kept; the rest is the work of
KILL_RECORD_WRITE. The first kill of a context is the one recorded. -/
def killContext (s : State) (p : Ply) (kind : Nat) (cause pc val : DWord) : State :=
  match s.ctxs.get? p.ctx with
  | some c =>
    if c.killed then freezeCtx s p.ctx
    else
      let w0 := fieldAt 56 p.ctx ||| fieldAt 50 p.lid ||| fieldAt 48 kind ||| fieldAt 0 (p.skix % 2 ^ 32)
      let w1 := fieldAt 57 p.core ||| fieldAt 55 (p.plyid % 4) ||| fieldAt 50 p.plyid
      let t2 := if p.tl = 2 then [p.tr2.xcause, p.tr2.xpc, p.tr2.xval] else [0, 0, 0]
      let t1 := if p.tl ≥ 1 then [p.tr1.xcause, p.tr1.xpc, p.tr1.xval] else [0, 0, 0]
      freezeCtx (s.modCtx p.ctx fun c => { c with
        killed := true
        killRec := some ([w0, w1, cause, pc, val] ++ t2 ++ t1 ++
          [BitVec.ofNat 64 (if recDet (s.launchRec p) then c.quantum else s.tick)]) }) p.ctx
  | none => s

/-- An instruction that is no wait, or an engine, has made progress: the watchdog's count starts again (R410). -/
def madeProgress (s : State) (ctx : Nat) : State := s.modCtx ctx fun c => { c with idleTicks := 0 }

/-- Whether the values of a work are for the instruction at the PC, which waits for them. -/
def LoadUse.kept : LoadUse → Bool
  | .keep | .poll _ | .lost => true
  | _ => false

/-- Finish entering a trap (R433), if the ply waits for nothing and finds a bank; otherwise it stays parked. -/
def tryTrapEntry (s : State) (key : Nat) : State :=
  match s.plies.get? key with
  | none => s
  | some p =>
    match p.park with
    | .trap cause val rpc =>
      if !p.landable || decide (p.strict ≠ 0) then s
      else
        let p := p.landAll
        let lvl := p.tl + 1
        let pt := s.part p.partKey
        match bankFor s pt key lvl with
        | none => (s.setPly key p).modPart p.partKey fun pt =>
            if pt.bankWait.contains key then pt else { pt with bankWait := pt.bankWait ++ [key] }
        | some b =>
          if s.xvec p = 0 then killContext (s.setPly key p) p 2 (BitVec.ofNat 64 cause) rpc val
          else
            let tr : TrapRegs := ⟨rpc &&& ~~~1, BitVec.ofNat 64 cause, val, p.em, xstatOf p, (if lvl = 1 then p.tr1 else p.tr2).xscr,
              p.lx.vals, p.ly.vals⟩
            let p := if lvl = 1 then { p with tr1 := tr } else { p with tr2 := tr }
            let at' := max (max s.cycle p.drainAt) (max p.tileAt p.spinAt) + 2
            (s.setPly key { p.dropLatches with
              tl := lvl
              floor := p.stack.length
              em := p.tlive
              pc := s.xvec p + BitVec.ofNat 64 (64 * cause)
              banks := ⟨b, List.replicate 8 OEntry.invalid⟩ :: p.banks
              park := .none
              held := none
              stage := 0
              work := p.work.filter fun w => !w.use.kept
              nextAt := at'
              wakeAt := at' }).modPart p.partKey fun pt =>
                { pt with banks := pt.banks.set b (some key), bankWait := pt.bankWait.erase key }
    | _ => s

/-- Abandon the queues that a wait stands in: the VACQ queue and the poppers of a role queue (R434, R420). -/
def leaveQueues (s : State) (p : Ply) (key : Nat) : State :=
  (s.modPart p.partKey fun pt => { pt with vacq := pt.vacq.erase key }).modSkein p.skeinKey fun k =>
    { k with poppers := k.poppers.filter fun w => decide (w.plyid ≠ p.plyid) }

/-- Take a trap (R432, R433): at TL2 the context is killed; otherwise the ply parks at a switch point and enters the
handler as soon as nothing is outstanding. `rpc` is the address XPC saves. -/
def takeTrap (s : State) (key : Nat) (cause : Nat) (val rpc : DWord) : State :=
  match s.plies.get? key with
  | none => s
  | some p =>
    if p.tl ≥ 2 then killContext s p 1 (BitVec.ofNat 64 cause) rpc val
    else tryTrapEntry (leaveQueues (s.setPly key { p with
        park := .trap cause val rpc, held := none, stage := 0, verdict := .retry, waited := none }) p key) key

/-- Return from a trap (R443). -/
def returnTrap (s : State) (key : Nat) (t : Nat) : State :=
  match s.plies.get? key with
  | none => s
  | some p =>
    let tr := if p.tl = 2 then p.tr2 else p.tr1
    match p.banks with
    | [] => s
    | b :: rest =>
      (s.setPly key { p with
        stack := p.stack.drop (p.stack.length - p.floor)
        pc := tr.xpc &&& ~~~1
        em := tr.xem &&& p.tlive
        floor := fieldOf tr.xstat 0 5
        lx := ⟨tr.xstat.getLsbD 5, tr.xlx⟩
        ly := ⟨tr.xstat.getLsbD 6, tr.xly⟩
        lyNew := none
        banks := rest
        tl := p.tl - 1
        nextAt := t + 2 }).modPart p.partKey fun pt => { pt with banks := pt.banks.set b.num none }

end Sys2Proof.Machine
end

