-- ==== Sys2Proof/Machine/Operands.lean ====
section
/-! DEFINITION. The issue of an instruction: the checks before issue (R41), the reads of its operands (R29 to R31, R237 to
R250), and what completing it does to the ply (R31, R236 to R243). Every encoded instruction's meaning goes through `issue`. -/

namespace Sys2Proof.Machine

/-! ## Reading -/

/-- What reading operands has done so far: free values drawn, sticky bits to set. -/
structure Reads where
  free : Nat
  vacrd : Bool
  upinv : Bool
deriving DecidableEq, Repr

/-- A register as it stands: its values, one for s and q, and whether it is vacant or invalid. -/
structure Reg where
  vals : List DWord
  vacant : Bool
  invalid : Bool
deriving DecidableEq, Repr

def lanesVals (w : Nat) (l : Lanes) : List DWord := (List.range w).map fun k => (l.at k).setWidth 64

def Ply.reg (p : Ply) : Slot → Reg
  | .v n => match p.v.get? n with
    | some l => ⟨lanesVals p.width l, false, false⟩
    | none => ⟨lanesVals p.width [], true, false⟩
  | .o n => match p.oNow[n]? with
    | some e => ⟨lanesVals p.width (if e.valid && e.live then e.vals else []), e.valid && !e.live, !e.valid⟩
    | none => ⟨lanesVals p.width [], false, true⟩
  | .lx => ⟨lanesVals p.width (if p.lx.valid then p.lx.vals else []), false, !p.lx.valid⟩
  | .ly => ⟨lanesVals p.width (if p.ly.valid then p.ly.vals else []), false, !p.ly.valid⟩
  | .s n => match p.s.get? n with
    | some x => ⟨[x], false, false⟩
    | none => ⟨[0], true, false⟩
  | .p n => ⟨[p.p.getD n 0], false, false⟩
  | .q n => ⟨[if p.q.getLsbD n then 1 else 0], false, false⟩

/-- Whether an instruction reads threads 32 to 63 one cycle after the others in a ply of width 64 (R240, R281). Lane exchange and PART
read every thread in their first issue cycle (R298, R309), and so does IFP, which has one beat (log 93, DEDUCED). -/
def readsBeats : Instr → Bool
  | .shfl .. | .shflx .. | .rdlane .. | .wrlane .. | .voteAny .. | .voteAll .. | .voteBallot .. | .voteCount .. | .scan .. | .reduce ..
  | .matchI .. | .part .. | .ifp .. => false
  | _ => true

/-- The writes to a place that are outstanding when a reader issues in cycle `t`, oldest first, and how many slots early it is (R241). -/
def Ply.early (p : Ply) (t : Nat) (beats : Bool) (sl : Slot) : List Write × Nat :=
  let ps := p.pend.filter fun x => decide (x.write.slot = sl) && decide (x.write.readAt t beats < x.due)
  let late := ps.foldl (fun a x => max a (x.due - x.write.readAt t beats)) 0
  match sl, p.lyNew with
  | .ly, some w => (ps.map (·.write) ++ [w], max late 1)
  | _, _ => (ps.map (·.write), late)

/-- The value a read takes when writes are outstanding: each thread independently takes the value before or after each
write, as a free value decides (R241). The value of a result that is still to be read in its tile slot (R221) is a free value too. -/
def mixEarly (w : Nat) : List DWord → List Write → Nat → List DWord × Nat
  | vals, [], free => (vals, free)
  | vals, x :: xs, free =>
    let pick := Config.freeValue free
    let next := (List.range w).map fun k =>
      let old := vals.getD (if vals.length = 1 then 0 else k) 0
      let new := if x.vals.isEmpty then Config.freeValue (free + 1 + k) else x.vals.getD (if x.vals.length = 1 then 0 else k) 0
      let hit := match x.slot with
        | .s _ | .q _ | .p _ => true
        | _ => x.mask.getLsbD k
      if hit && pick.getLsbD k then new else old
    mixEarly w next xs (free + 1 + (if x.vals.isEmpty then w else 0))

/-- An early predicate read: bit k of the mask is the bit thread k reads. -/
def mixPred (old : DWord) : List Write → Nat → DWord × Nat
  | [], free => (old, free)
  | x :: xs, free =>
    let pick := Config.freeValue free
    let new := match x.slot with
      | .p _ => (old &&& ~~~x.mask) ||| (x.vals.getD 0 0 &&& x.mask)
      | _ => x.vals.getD 0 0
    mixPred ((old &&& ~~~pick) ||| (new &&& pick)) xs (free + 1)

/-- Read one place at cycle `t`. Invalid and vacant places read zero and set a sticky bit (R247, R250). -/
def Ply.readSlot (p : Ply) (t : Nat) (beats : Bool) (sl : Slot) (r : Reads) : List DWord × Reads :=
  let g := p.reg sl
  if g.invalid then (g.vals, { r with upinv := true })
  else if g.vacant then (g.vals, { r with vacrd := true })
  else match (p.early t beats sl).1 with
    | [] => (g.vals, r)
    | ws =>
      let m := mixEarly p.width g.vals ws r.free
      (m.1, { r with free := m.2 })

/-- Join the registers of an operand, the lowest-numbered in the low bits. -/
def joinParts (w : Nat) (step : Nat) : List (List DWord) → List QWord
  | [] => List.replicate w 0
  | l :: ls =>
    let hi := joinParts w step ls
    (List.range w).map fun k =>
      let x := l.getD (if l.length = 1 then 0 else k) 0
      (x.setWidth 128) ||| ((hi.getD k 0) <<< step)

/-- Read one operand (R28 to R30). -/
def Ply.readUse (p : Ply) (t : Nat) (beats : Bool) (u : Use) (r : Reads) : Opnd × Reads :=
  let one (x : DWord) : Opnd := ⟨true, [x.setWidth 128]⟩
  match u.name with
  | .zero | .reserved => (one 0, r)
  | .plyid => (one (BitVec.ofNat 64 p.plyid), r)
  | .skeinid => (one (BitVec.ofNat 64 (p.skix % 2 ^ 32)), r)
  | .tid => (⟨false, (List.range p.width).map fun k => BitVec.ofNat 128 k⟩, r)
  | .laneid => (⟨false, (List.range p.width).map fun k => BitVec.ofNat 128 (k % 32)⟩, r)
  | n =>
    let sls := slotsOf n u.width
    let step := if n.isS then 64 else 32
    let (parts, r) := sls.foldl (fun (acc : List (List DWord) × Reads) sl =>
      let (v, r) := p.readSlot t beats sl acc.2
      (acc.1 ++ [v], r)) ([], r)
    if n.isS && parts.all fun l => decide (l.length = 1) then
      (⟨true, (joinParts 1 step parts)⟩, r)
    else (⟨false, joinParts p.width step parts⟩, r)

/-- The value of an operand for a thread. -/
def Opnd.at (o : Opnd) (k : Nat) : QWord := o.vals.getD (if o.uni then 0 else k) 0
def Opnd.at32 (o : Opnd) (k : Nat) : Word := (o.at k).extractLsb' 0 32
def Opnd.at64 (o : Opnd) (k : Nat) : DWord := (o.at k).extractLsb' 0 64

/-- The predicates an instruction reads at issue (R283, R300, R357, R358). -/
def predReadsOf : Instr → List Slot
  | .sel d _ _ _ => [if d.isS then .q 0 else .p 0]
  | .voteAny _ p _ | .voteAll _ p _ | .voteBallot _ p _ | .voteCount _ p _ => [.p p.toNat]
  | .brq p _ _ => [.q (p.toNat % 8)]
  | .ifp p _ _ => [.p (p.toNat % 8)]
  | _ => []

/-- Every operand use of an instruction, the implicit lx last (R288, R33). -/
def usesOf (i : Instr) : List Use :=
  let h := i.shape
  if h.lxRead then h.srcs ++ [⟨.lx, .one, false, false⟩] else h.srcs

/-- The debug trap a read would take: the cause and XVAL (R241, R247, R250, R283). Vacancy is taken before invalidity,
and either before an early read; of several registers with one case, XVAL names the first in field order (log 92, DESIGN CHOICE). -/
def Ply.debugTrap (p : Ply) (t : Nat) (i : Instr) : Option (Nat × DWord) :=
  let sls := (usesOf i).flatMap fun u => slotsOf u.name u.width
  let code (sl : Slot) : DWord := BitVec.ofNat 64 sl.code
  match sls.find? fun sl => (p.reg sl).vacant with
  | some sl => some (causeVACANT, code sl)
  | none => match sls.find? fun sl => (p.reg sl).invalid with
    | some sl => some (causeUPINV, code sl)
    | none => match (sls ++ (predReadsOf i)).find? fun sl => decide ((p.early t (readsBeats i) sl).1 ≠ []) with
      | some sl => some (causeLATVIOL, code sl ||| fieldAt 8 (min 255 (p.early t (readsBeats i) sl).2))
      | none => none

/-- Read every operand and predicate of an instruction. -/
def Ply.readAll (p : Ply) (t : Nat) (i : Instr) (free : Nat) : Held × Nat :=
  let (ops, r) := (usesOf i).foldl (fun (acc : List Opnd × Reads) u =>
    let (v, r) := p.readUse t (readsBeats i) u acc.2
    (acc.1 ++ [v], r)) ([], ⟨free, false, false⟩)
  let (preds, r) := (predReadsOf i).foldl (fun (acc : List DWord × Reads) sl =>
    let (m, free) := mixPred ((p.reg sl).vals.getD 0 0) (p.early t (readsBeats i) sl).1 acc.2.free
    (acc.1 ++ [m], { acc.2 with free := free })) ([], r)
  (⟨ops, preds, r.vacrd, r.upinv⟩, r.free)

/-! ## Checks before issue -/

/-- The register number at which a name trips R32, for a ply: the lowest register of the operand that does. -/
def Ply.regpoolOf (p : Ply) (n : Name) (w : Width) : Option Nat :=
  (slotsOf n w).findSome? fun sl => match sl with
    | .v m => if (48 ≤ m && !p.ext) || (m < 48 && p.base ≤ m) then some m else none
    | _ => none

/-- R32 over every field, the destination first, then the sources in field order: the spec orders no fields (log 92, DESIGN CHOICE). -/
def Ply.regpool (p : Ply) (i : Instr) : Option Nat :=
  let h := i.shape
  match p.regpoolOf h.dst h.dstW with
  | some n => some n
  | none => h.srcs.findSome? fun u => p.regpoolOf u.name u.width

/-- The trap level at which a system register may be read or written (R439). -/
def sysLevel (wr : Bool) (n : Nat) : Nat :=
  if n = 0x07 || n = 0x0E then 1
  else if 0x20 ≤ n && n ≤ 0x25 then 1
  else if 0x28 ≤ n && n ≤ 0x2D then 2
  else if wr && (n = 0x01 || n = 0x06 || (0x08 ≤ n && n ≤ 0x0D) || n = 0x10) then 1
  else 0

/-- The lowest trap level at which an instruction is not refused with PRIV (R39). -/
def levelOf : Instr → Nat
  | .tret _ | .halt _ | .evict _ | .faultreq _ _ _ | .waitf _ _ _ | .uprd _ _ _ | .upwr _ _ _ => 1
  | .rdsr _ i _ => sysLevel false i.toNat
  | .wrsr _ i _ => sysLevel true i.toNat
  | _ => 0

/-- What R40 and the owning chapters refuse by the ply's own state: the producer role of DEFARR, a lane number at or above
the width, and barriers, tickets and queues that the launch record does not declare (R285, R365, R396, R397). -/
def dynIllegal (s : State) (p : Ply) (i : Instr) : Bool :=
  let r := s.launchRec p
  let barBad (b : BitVec 4) : Bool := decide (recBar r b.toNat = 0)
  let partyBad (b : BitVec 4) : Bool :=
    let c := recBar r b.toNat
    (c = 34 && decide (p.role ≠ .producer)) || (c = 35 && decide (p.role ≠ .consumer))
  let tktBad (c : BitVec 3) : Bool := !recTicket r c.toNat
  match i with
  | .defarr _ _ _ => decide (p.role ≠ .producer)
  | .rdlane _ _ i _ | .wrlane _ _ i _ => decide (p.width ≤ i.toNat)
  | .bar _ _ b _ _ | .bara _ b _ _ => barBad b || partyBad b
  | .barw _ b _ => barBad b
  | .tktTake _ _ c _ | .tktWaitp _ c _ | .tktPut _ c _ | .tktSkip c _ => tktBad c
  | .qpush _ q _ =>
    let d := recQueue r q.toNat
    d < 16 || !roleIn (d / 4 % 4) p.role
  | .qpop _ q _ =>
    let d := recQueue r q.toNat
    d < 16 || !roleIn (d % 4) p.role
  | _ => false

/-- Memory, tile, copy and spindle instructions, which do not issue while the ply has a strict access outstanding; PREF is
the exception (R150). -/
def afterStrict : Instr → Bool
  | .ld .. | .st .. | .ldq .. | .stq .. | .ldcv .. | .stcv .. | .atom .. | .red .. | .mona .. | .waitm .. | .poll ..
  | .tld .. | .tst .. | .tldt .. | .tatom .. | .hist .. | .scmp .. | .sfind .. | .shash .. | .spfx .. | .slen ..
  | .cpyin .. | .cpyout .. | .cpygg .. | .gather .. | .scatter .. | .pscat .. | .defarr .. | .cpyqStatus .. | .cpyqTl ..
  | .cpyqDrop .. | .tbind .. | .tsetEmpty .. | .tsetFilling .. | .tsetReady .. | .tsetDraining .. | .twait .. | .tfree ..
  | .mma .. | .mepi .. | .mclose .. | .mcloseResume .. | .mwait .. | .mabort .. | .gset .. | .gget .. => true
  | _ => false

/-- Whether an instruction makes a variable-latency result (R245). -/
def landsOf (i : Instr) : Bool := decide (i.shape.pipe = .land)

/-! ## Issue timing -/

/-- The conflict count C (R237, R238): banked registers read, vacant and uniform-valued ones left out. -/
def Ply.conflicts (p : Ply) (i : Instr) : Nat :=
  let regs := ((usesOf i).flatMap fun u => slotsOf u.name u.width).filterMap fun sl => match sl with
    | .v n => some n
    | _ => none
  let busy := regs.eraseDups.filter fun n => match p.v.get? n with
    | some l => !((List.range p.width).all fun k => l.at k = l.at 0)
    | none => false
  (List.range 8).foldl (fun a b => max a ((busy.filter fun n => n % 8 = b).length)) 1 - 1

/-- How many cycles an instruction holds the issue stage: B × (1 + C) (R236). -/
def Ply.hold (p : Ply) (i : Instr) : Nat :=
  (if p.width = 64 && i.shape.thread then 2 else 1) * (1 + p.conflicts i)

/-- The first cycle at which the ply can issue the instruction (R236, R239). -/
def Ply.readyAt (p : Ply) (i : Instr) : Nat := if i.shape.drain then max p.nextAt p.drainAt else p.nextAt

/-! ## Running -/

/-- What a meaning sees: the ply with every due write made, the issue cycle, the operands. -/
structure Env where
  key : Nat
  p : Ply
  t : Nat
  ops : List Opnd
  preds : List DWord
  stage : Nat
  /-- the address after the instruction (R18) -/
  next : DWord
  /-- the encoding, for ILLEGAL -/
  enc : DWord
deriving DecidableEq, Repr

def Env.op (e : Env) (n : Nat) : Opnd := e.ops.getD n ⟨true, [0]⟩
def Env.pred (e : Env) : DWord := e.preds.getD 0 0

/-- What a meaning does beyond changing the state: register results, a latch value, a result that will land, a transfer of
control, the park it ends in, extra cycles, whether it counts as retired work for the watchdog (R410). -/
structure Effect where
  writes : List Write := []
  latch : Option (List DWord) := none
  latchMask : Option DWord := none
  land : Option Landing := none
  target : Option DWord := none
  after : Nat := 0
  lat : Option Nat := none
  park : Park := .none
deriving DecidableEq, Repr

/-- The four ways a meaning ends: complete, wait in a stage of its own, trap with nothing done (R9), or have moved the ply
itself (trap return, kill, eviction). -/
inductive Res where
  | done (s : State) (e : Effect)
  | wait (s : State) (c : Cond) (stage : Nat)
  | trap (cause : Nat) (val : DWord)
  | gone (s : State)
deriving DecidableEq, Repr

/-- Latency of a result by pipe and place (R240). -/
def latency (p : Pipe) : Slot → Nat
  | .v _ => match p with
    | .x => 4
    | .y => 6
    | .sfu => 16
    | .tile => 8
    | _ => 2
  | .o _ => match p with
    | .x => 2
    | .y => 4
    | .sfu => 16
    | .tile => 8
    | _ => 2
  | _ => 2

/-- L_p, the latency that bounds the drain class after an instruction: to the banked file or the s-registers, and t + 2
for a compare (R239, R283). -/
def drainLat (i : Instr) : Nat :=
  let h := i.shape
  if h.uniform || decide (h.kind = .none) then 2
  else match h.pipe with
    | .x => 4
    | .y => 6
    | .sfu => 16
    | .uni => 2
    | _ => 0

/-- The sticky read bits of PLYSTAT (R247, R250), unless no thread is active. -/
def noteReads (i : Instr) (hl : Held) (p : Ply) : Ply :=
  if i.shape.thread && decide (p.em = 0) then p
  else { p with stat := p.stat ||| fieldAt 8 hl.vacrd.toNat ||| fieldAt 9 hl.upinv.toNat }

/-- The sources of an instruction that carry a dead bit become vacant (R31). -/
def vacated (i : Instr) (p : Ply) : Ply :=
  (i.shape.srcs.filter (·.dead)).foldl (fun p u => (slotsOf u.name u.width).foldl Ply.vacate p) p

/-- The value of ly that the previous instruction made becomes readable (R243). -/
def settleLy (p : Ply) : Ply :=
  match p.lyNew with
  | some w => { p with ly := p.ly.write p.width w.mask w.vals, lyNew := none }
  | none => p

/-- The latch of the pipe takes the value of a vector instruction for the threads of the mask (R243). -/
def latched (i : Instr) (mask : DWord) (lt : Option (List DWord)) (p : Ply) : Ply :=
  match lt with
  | none => p
  | some vals =>
    if decide (mask = 0) || i.shape.uniform then p
    else match i.shape.pipe with
      | .x => { p with lx := p.lx.write p.width mask vals }
      | .y => { p with lyNew := some ⟨.ly, mask, vals⟩ }
      | _ => p

/-- The writes that take effect: a vector register result with an empty mask writes nothing. -/
def realWrites (ws : List Write) : List Write := ws.filter fun w => match w.slot with
  | .v _ | .o _ | .lx | .ly => decide (w.mask ≠ 0)
  | _ => true

/-- The parts of a write of a vector result that are made beat by beat: threads 0 to 31, and threads 32 to 63 (R240). -/
def Write.halves (w : Write) : List Write :=
  if w.mask >>> 32 = 0 ∨ w.mask.setWidth 32 = 0#32 then [w]
  else [{ w with mask := w.mask &&& 0xFFFFFFFF }, { w with mask := w.mask &&& ~~~0xFFFFFFFF }]

/-- A list of outstanding results with results added that are due `lat` after cycle `t`, the second beat one cycle later (R240). -/
def pendWith (t : Nat) (lat : Slot → Nat) (ws : List Write) (l : List Pend) : List Pend :=
  (ws.flatMap Write.halves).foldl (fun l w => addPend l ⟨w.readAt t true + lat w.slot, w⟩) l

/-- The same for a result of a lane tile instruction, which is readable as a whole (R221). -/
def pendWhole (t lat : Nat) (ws : List Write) (l : List Pend) : List Pend := ws.foldl (fun l w => addPend l ⟨t + lat, w⟩) l

/-- The pipe whose latency the results of an instruction have: the uniform unit's for a uniform one (R240). -/
def pipeOf (i : Instr) : Pipe := if i.shape.uniform then .uni else i.shape.pipe

/-- The park in which an instruction leaves its ply: its own, or the switch of its marker (R19, R246). -/
def parkAfter (i : Instr) (k : Park) : Park :=
  match k with
  | .none => if i.sw then .switch else .none
  | .wait (.quiet b) => if i.sw then .switch else .wait (.quiet b)
  | k => k

/-- The cycle at which the ply may issue again (R236, R356). -/
def nextAfter (i : Instr) (v : Env) (e : Effect) : Nat :=
  max (max (v.t + v.p.hold i) (v.t + e.after)) (if e.target.isSome then v.t + 2 else 0)

/-- The ply that has completed an instruction: results pending (R240), the landing list, the PC, the timing (R236). -/
def advanced (i : Instr) (v : Env) (e : Effect) (p : Ply) : Ply :=
  let lat := if e.writes.isEmpty && e.latch.isNone then 0 else e.lat.getD (drainLat i)
  { p with
    pend := match e.lat with
      | some n => pendWhole v.t n (realWrites e.writes) p.pend
      | none => pendWith v.t (latency (pipeOf i)) (realWrites e.writes) p.pend
    drainAt := max p.drainAt (v.t + lat)
    out := p.out ++ e.land.toList
    pc := e.target.getD v.next
    nextAt := nextAfter i v e
    wakeAt := max (v.t + v.p.hold i) (v.t + e.after)
    aged := false
    held := none
    stage := 0
    verdict := .retry
    waited := none
    retired := p.retired + 1
    quant := p.quant + 1
    park := parkAfter i e.park }

/-- A ply that does not go on issuing has no latches (R248). -/
def settlePark (p : Ply) : Ply := if p.park = .none then p else p.dropLatches

/-- What completing an instruction does to its ply: sticky read bits, dead bits (R31), latches (R243), results, the PC, the
timing and the switch marker (R19). -/
def finishPly (i : Instr) (v : Env) (hl : Held) (e : Effect) (p : Ply) : Ply :=
  settlePark (advanced i v e (latched i (e.latchMask.getD v.p.em) e.latch (settleLy (noteReads i hl (vacated i p)))))

/-- Complete an instruction: its ply, and the issue stage it held (R236). -/
def finish (i : Instr) (v : Env) (hl : Held) (e : Effect) (s : State) : State :=
  match s.plies.get? v.key with
  | none => s
  | some p =>
    (s.setPly v.key (finishPly i v hl e p)).modPart p.partKey fun pt => { pt with stageFree := max pt.stageFree (v.t + v.p.hold i) }

/-- Issue an instruction for a ply (R41): the checks before issue in their order, the structural waits, the reads, then the
meaning `body`, and what its ending asks. An instruction that parks with nothing done (stage 0) is tried again from its checks and
reads its operands again (R73, R219: log 91, DEDUCED); one that has begun keeps those it read. -/
def issueFor (i : Instr) (body : Env → State → Res) (s : State) (key : Nat) (p0 : Ply) : State :=
  let t := max s.cycle (p0.readyAt i)
  let p := p0.commit t (readsBeats i)
  let pc := p.pc
  let enc := (encode i).value
  let s := { s.setPly key p with cycle := t }
  let run (hl : Held) (s : State) : State :=
    let v : Env := ⟨key, p, t, hl.ops, hl.preds, p.stage, pc + BitVec.ofNat 64 (encode i).size, enc⟩
    match body v s with
    | .done s' e => finish i v hl e s'
    | .wait s' c stage => s'.modPly key fun q => q.waitOn c stage (if stage = 0 then none else some hl)
    | .trap cause val => takeTrap s key cause val pc
    | .gone s' => s'
  match p.held with
  | some hl => run hl (s.modPly key fun q => { q with park := .none })
  | none =>
    if !i.legal || dynIllegal s p i then takeTrap s key causeILLEGAL enc pc
    else if p.tl < levelOf i then takeTrap s key causePRIV enc pc
    else match p.regpool i with
      | some n => takeTrap s key causeREGPOOL (BitVec.ofNat 64 n) pc
      | none =>
        if afterStrict i && decide (p.strict ≠ 0) then s.modPly key fun q => q.waitOn (.quiet false) 0 none
        else if landsOf i && decide (8 ≤ p.out.length) then s.modPly key fun q => q.waitOn .landRoom 0 none
        else
          let idle := i.shape.thread && decide (p.em = 0)
          match (if s.debug p && !idle then p.debugTrap t i else none) with
          | some (cause, val) => takeTrap s key cause val pc
          | none =>
            let (hl, free) := p.readAll t i s.free
            run hl { s with free := free }

/-- Issue an instruction for the ply whose turn it is. -/
def issue (i : Instr) (body : Env → State → Res) (s : State) : Host.Outcome State Fault Refusal :=
  match s.cur with
  | none => .fault .noPly
  | some key =>
    match s.plies.get? key with
    | none => .fault .noPly
    | some p => .next (issueFor i body s key p)

end Sys2Proof.Machine
end

