-- ==== Sys2Proof/Machine/Float.lean ====
section
/-! DEFINITION. Number formats, exact values and the one rounding of the device (R259 to R273), and the arithmetic that
rounds exact results (R292 to R297). Nothing here touches the state. -/

namespace Sys2Proof

/-- Rounding modes (R269). -/
inductive Rm where
  | rne | rz | ru | rd | sr
deriving DecidableEq, Repr

/-- A floating-point format (R259, R262): exponent and fraction widths, and whether it gives up the infinities. -/
structure Fmt where
  ebits : Nat
  fbits : Nat
  finiteOnly : Bool
deriving DecidableEq, Repr

def Fmt.f32 : Fmt := ⟨8, 23, false⟩
def Fmt.bf16 : Fmt := ⟨8, 7, false⟩
def Fmt.f16 : Fmt := ⟨5, 10, false⟩
def Fmt.e4m3 : Fmt := ⟨4, 3, true⟩
def Fmt.e5m2 : Fmt := ⟨5, 2, false⟩

def Fmt.bias (f : Fmt) : Nat := 2 ^ (f.ebits - 1) - 1
/-- The exponent of the last place of subnormals. -/
def Fmt.qmin (f : Fmt) : Int := 1 - (f.bias : Int) - f.fbits
def Fmt.width (f : Fmt) : Nat := 1 + f.ebits + f.fbits
def Fmt.signBit (f : Fmt) (s : Bool) : Nat := if s then 2 ^ (f.ebits + f.fbits) else 0
/-- The canonical NaN (R261). -/
def Fmt.nan (f : Fmt) : Nat :=
  if f.finiteOnly then 0x7F else (2 ^ f.ebits - 1) * 2 ^ f.fbits + 2 ^ (f.fbits - 1)
def Fmt.inf (f : Fmt) (s : Bool) : Nat := f.signBit s + (2 ^ f.ebits - 1) * 2 ^ f.fbits
/-- The largest finite value. -/
def Fmt.maxFinite (f : Fmt) (s : Bool) : Nat :=
  f.signBit s + (if f.finiteOnly then 0x7E else (2 ^ f.ebits - 1) * 2 ^ f.fbits - 1)

/-- A value of a format: a finite one is `(-1)^s * m * 2^e`. -/
inductive FVal where
  | nan
  | inf (s : Bool)
  | fin (s : Bool) (m : Nat) (e : Int)
deriving DecidableEq, Repr

/-- What a bit pattern stands for (R259, R262). -/
def Fmt.unpack (f : Fmt) (x : Nat) : FVal :=
  let s := decide ((x / 2 ^ (f.ebits + f.fbits)) % 2 = 1)
  let ex := (x / 2 ^ f.fbits) % 2 ^ f.ebits
  let fr := x % 2 ^ f.fbits
  if f.finiteOnly then
    if ex = 2 ^ f.ebits - 1 ∧ fr = 2 ^ f.fbits - 1 then .nan
    else if ex = 0 then .fin s fr f.qmin else .fin s (fr + 2 ^ f.fbits) (f.qmin + (ex - 1 : Nat))
  else if ex = 2 ^ f.ebits - 1 then if fr = 0 then .inf s else .nan
  else if ex = 0 then .fin s fr f.qmin
  else .fin s (fr + 2 ^ f.fbits) (f.qmin + (ex - 1 : Nat))

/-- The number of bits of a number. -/
def bitLen (n : Nat) : Nat := if n = 0 then 0 else Nat.log2 n + 1

/-- The flags of R268: NX bit 0, UF 1, OF 2, DZ 3, NV 4. -/
abbrev FFlags := BitVec 5
def flagNX : FFlags := 1
def flagUF : FFlags := 2
def flagOF : FFlags := 4
def flagDZ : FFlags := 8
def flagNV : FFlags := 16

/-- The result of an operation before rounding: settled bits with their flags, or an exact value to round,
`(-1)^s * (m + t) * 2^e` where `t` is 0, or lies strictly between 0 and 1 when `sticky` is set. -/
inductive Pre where
  | bits (x : Nat) (f : FFlags)
  | val (s : Bool) (m : Nat) (e : Int) (sticky : Bool)
deriving DecidableEq, Repr

/-- The point of the grid at or below a magnitude: the multiple `k` of `2^q`, and the rest `r` of `2^sh`. -/
structure Grid where
  k : Nat
  q : Int
  r : Nat
  sh : Nat
deriving DecidableEq, Repr

/-- The grid with last place at least `qmin` and `p` significant bits; an integer grid has no limit `p`. -/
def gridOf (p : Option Nat) (qmin : Int) (m : Nat) (e : Int) : Grid :=
  let q := match p with
    | some p => max qmin (e + bitLen m - p)
    | none => qmin
  if q ≤ e then ⟨m * 2 ^ (e - q).toNat, q, 0, 0⟩
  else ⟨m / 2 ^ (q - e).toNat, q, m % 2 ^ (q - e).toNat, (q - e).toNat⟩

/-- The discard word of R270: the first 32 bits of the distance to the grid point below. -/
def Grid.discard (g : Grid) : Word := BitVec.ofNat 32 (g.r * 2 ^ 32 / 2 ^ g.sh)

/-- The mixing steps of R270, and Mix of R307. -/
def mix64 (x0 : DWord) : DWord :=
  let x1 := (x0 ^^^ (x0 >>> 29)) * 0x8C3D5A2E41F7B6A3#64
  let x2 := (x1 ^^^ (x1 >>> 32)) * 0x5D2B9E47C1A8F36B#64
  x2 ^^^ (x2 >>> 29)

/-- The 16-bit number that stochastic rounding compares with (R270), from the neighbours' discard words. -/
def srHash (a b : Word) (k : Nat) : Nat :=
  (mix64 ((a ++ b) ^^^ BitVec.ofNat 64 k) >>> 48).toNat

/-- Whether the magnitude is rounded up, and whether it was inexact (R269). -/
def Grid.up (g : Grid) (mode : Rm) (s sticky : Bool) (r16 : Nat) : Bool × Bool :=
  let inex := sticky || decide (g.r ≠ 0)
  let half := 2 ^ (g.sh - 1)
  let up := match mode with
    | .rne => decide (g.sh ≠ 0) && (decide (g.r > half) || (decide (g.r = half) && (sticky || decide (g.k % 2 = 1))))
    | .rz => false
    | .ru => !s && inex
    | .rd => s && inex
    | .sr => decide (r16 < g.r * 2 ^ 16 / 2 ^ g.sh)
  (up, inex)

/-- The bits of `k * 2^q`, a grid point of the format not above its largest finite value. -/
def Fmt.pack (f : Fmt) (s : Bool) (k : Nat) (q : Int) : Nat :=
  let (k, q) := if bitLen k = f.fbits + 2 then (k / 2, q + 1) else (k, q)
  if k < 2 ^ f.fbits then f.signBit s + k
  else f.signBit s + ((q - f.qmin).toNat + 1) * 2 ^ f.fbits + (k - 2 ^ f.fbits)

/-- Whether `k * 2^q` lies above the largest finite value. -/
def Fmt.over (f : Fmt) (k : Nat) (q : Int) : Bool :=
  let top := if f.finiteOnly then 2 ^ (f.fbits + 1) - 2 else 2 ^ (f.fbits + 1) - 1
  let emax := f.qmin + (if f.finiteOnly then 2 ^ f.ebits - 2 else 2 ^ f.ebits - 3 : Nat)
  if emax ≤ q then decide (k * 2 ^ (q - emax).toNat > top) else decide (k > top * 2 ^ (emax - q).toNat)

/-- A finite result above the largest finite value, outside the narrow conversions (R284). -/
def overflow (f : Fmt) (mode : Rm) (s : Bool) : Nat :=
  match mode, s with
  | .rz, _ | .ru, true | .rd, false => f.maxFinite s
  | _, _ => f.inf s

/-- The grid point below an exact value in a format. -/
def Fmt.grid (f : Fmt) (m : Nat) (e : Int) : Grid := gridOf (some (f.fbits + 1)) f.qmin m e

/-- The discard word of a result (R270, R284). -/
def Pre.discard (f : Fmt) : Pre → Word
  | .bits _ _ => 0
  | .val _ m e _ => (f.grid m e).discard

/-- Round an exact value into a format; `ovf` gives what an overflow returns (R269, R272, R284). -/
def Pre.round (f : Fmt) (mode : Rm) (r16 : Nat) (ovf : Bool → Nat) : Pre → Nat × FFlags
  | .bits x fl => (x, fl)
  | .val s m e sticky =>
    let g := f.grid m e
    let (up, inex) := g.up mode s sticky r16
    let k := if up then g.k + 1 else g.k
    if f.over k g.q then (ovf s, flagOF ||| flagNX)
    else
      let fl := if inex then flagNX else 0
      let tiny := decide (k ≠ 0) && decide (k < 2 ^ f.fbits)
      (f.pack s k g.q, if inex && tiny then fl ||| flagUF else fl)

/-- Round to nearest even with the ordinary overflow. -/
def Pre.rne (f : Fmt) (x : Pre) : Nat × FFlags := x.round f .rne 0 (overflow f .rne)

/-- A signed sum of exact terms, and the sign of an exact zero sum (R269). -/
def exactSum (mode : Rm) (ts : List (Bool × Nat × Int)) : Pre :=
  let e0 := ts.foldl (fun a t => min a t.2.2) (match ts with | [] => 0 | t :: _ => t.2.2)
  let tot : Int := ts.foldl (fun a t =>
    let v : Int := (t.2.1 * 2 ^ (t.2.2 - e0).toNat : Nat)
    if t.1 then a - v else a + v) 0
  if tot = 0 then
    let allNeg := ts.all fun t => t.1 && decide (t.2.1 = 0)
    let allPos := ts.all fun t => !t.1 && decide (t.2.1 = 0)
    .val (if allNeg then true else if allPos then false else decide (mode = .rd)) 0 e0 false
  else .val (decide (tot < 0)) tot.natAbs e0 false

/-- The product of two values as a term: NV for zero times infinity (R292). -/
inductive Term where
  | nan | invalid
  | inf (s : Bool)
  | fin (s : Bool) (m : Nat) (e : Int)
deriving DecidableEq, Repr

def FVal.term : FVal → Term
  | .nan => .nan
  | .inf s => .inf s
  | .fin s m e => .fin s m e

def FVal.neg : FVal → FVal
  | .nan => .nan
  | .inf s => .inf !s
  | .fin s m e => .fin (!s) m e

def FVal.mulTerm : FVal → FVal → Term
  | .nan, _ | _, .nan => .nan
  | .inf s, .inf t => .inf (s != t)
  | .inf s, .fin t m _ | .fin t m _, .inf s => if m = 0 then .invalid else .inf (s != t)
  | .fin s m e, .fin t n g => .fin (s != t) (m * n) (e + g)

/-- The sum of terms before rounding to `f`: the invalid cases first, then NaN, then infinities (R292, R294). -/
def sumTerms (f : Fmt) (mode : Rm) (ts : List Term) : Pre :=
  let pinf := ts.any (· = .inf false)
  let ninf := ts.any (· = .inf true)
  if ts.any (· = .invalid) then .bits f.nan flagNV
  else if ts.any (· = .nan) then .bits f.nan 0
  else if pinf && ninf then .bits f.nan flagNV
  else if pinf then .bits (f.inf false) 0
  else if ninf then .bits (f.inf true) 0
  else exactSum mode (ts.filterMap fun t => match t with
    | .fin s m e => some (s, m, e)
    | _ => none)

def fAddPre (f : Fmt) (mode : Rm) (a b : FVal) : Pre := sumTerms f mode [a.term, b.term]
def fMulPre (f : Fmt) (mode : Rm) (a b : FVal) : Pre := sumTerms f mode [a.mulTerm b]
def fFmaPre (f : Fmt) (mode : Rm) (a b d : FVal) : Pre := sumTerms f mode [a.mulTerm b, d.term]

/-- FDIV before rounding (R292). The quotient is taken to 96 bits more than the format keeps. -/
def fDivPre (f : Fmt) : FVal → FVal → Pre
  | .nan, _ | _, .nan => .bits f.nan 0
  | .inf _, .inf _ => .bits f.nan flagNV
  | .inf s, .fin t _ _ => .bits (f.inf (s != t)) 0
  | .fin s _ _, .inf t => .bits (f.signBit (s != t)) 0
  | .fin s m e, .fin t n g =>
    if n = 0 then if m = 0 then .bits f.nan flagNV else .bits (f.inf (s != t)) flagDZ
    else if m = 0 then .bits (f.signBit (s != t)) 0
    else
      let sh := 128 + bitLen n
      .val (s != t) (m * 2 ^ sh / n) (e - g - sh) (decide (m * 2 ^ sh % n ≠ 0))

/-- The order of two values, -0 below +0 (R292). NaN is never passed. -/
def fLtTotal (x y : Nat) : Bool :=
  let key (x : Nat) : Int := if x ≥ 2 ^ 31 then -((x - 2 ^ 31 : Nat) : Int) - 1 else (x : Int)
  decide (key x < key y)

def isNan32 (x : Nat) : Bool := decide (Fmt.f32.unpack x = .nan)

/-- FMIN and FMAX on FP32 bits (R292). -/
def fMinMax (wantMax : Bool) (x y : Nat) : Nat :=
  if isNan32 x && isNan32 y then 0x7FC00000
  else if isNan32 x then y
  else if isNan32 y then x
  else if wantMax then (if fLtTotal x y then y else x)
  else (if fLtTotal y x then y else x)

/-- The addition of NRED, SCAN, ATOM and RED: round to nearest even, no flags (R109, R180, R301). -/
def fAddRne (f : Fmt) (x y : Nat) : Nat := ((fAddPre f .rne (f.unpack x) (f.unpack y)).rne f).1

/-- Comparison of FCMP (R295). -/
def fCmp (c : Nat) (x y : Nat) : Bool :=
  let a := Fmt.f32.unpack x
  let b := Fmt.f32.unpack y
  let unord := decide (a = .nan) || decide (b = .nan)
  let z (v : Nat) : Nat := if v % 2 ^ 31 = 0 then 0 else v
  let eq := decide (z x = z y)
  let lt := fLtTotal (z x) (z y)
  match c with
  | 0 => !unord && eq
  | 1 => unord || !eq
  | 2 => !unord && lt
  | 3 => !unord && (lt || eq)
  | 4 => !unord && !(lt || eq)
  | 5 => !unord && !lt
  | 6 => unord
  | _ => !unord

/-- ToF32 (R273). -/
def toF32 (f : Fmt) (x : Nat) : Nat :=
  match f.unpack x with
  | .nan => 0x7FC00000
  | .inf s => Fmt.f32.inf s
  | .fin s m e => ((Pre.val s m e false).rne .f32).1

/-- Ovf of an overflow or an infinite input (R272). -/
def narrowOvf (f : Fmt) (nsat : Bool) (mode : Rm) (s : Bool) (infinite : Bool) : Nat × FFlags :=
  if !nsat then (f.maxFinite s, if infinite then 0 else flagOF ||| flagNX)
  else if f.finiteOnly then (0x7F, if infinite then flagNV else flagOF ||| flagNX)
  else if infinite then (f.inf s, 0)
  else (overflow f mode s, flagOF ||| flagNX)

/-- FromF32 before rounding (R271). -/
def fromF32Pre (f : Fmt) (nsat : Bool) (mode : Rm) (x : Nat) : Pre :=
  match Fmt.f32.unpack x with
  | .nan => .bits f.nan 0
  | .inf s => let r := narrowOvf f nsat mode s true; .bits r.1 r.2
  | .fin s m e => if m = 0 then .bits (f.signBit s) 0 else .val s m e false

/-- FromF32 with the rounding number of R270. -/
def fromF32Round (f : Fmt) (nsat : Bool) (mode : Rm) (r16 : Nat) (x : Pre) : Nat × FFlags :=
  x.round f mode r16 fun s => (narrowOvf f nsat mode s false).1

/-- The grid of an integer target. -/
def intGrid (m : Nat) (e : Int) : Grid := gridOf none 0 m e

/-- The discard word of a conversion to an integer. -/
def intDiscard (x : Nat) : Word :=
  match Fmt.f32.unpack x with
  | .fin _ m e => (intGrid m e).discard
  | _ => 0

/-- FP32 to an integer between `lo` and `hi` (R276, R277). -/
def f32ToInt (lo hi : Int) (mode : Rm) (r16 : Nat) (x : Nat) : Int × FFlags :=
  match Fmt.f32.unpack x with
  | .nan => (0, flagNV)
  | .inf s => (if s then lo else hi, flagNV)
  | .fin s m e =>
    let g := intGrid m e
    let (up, inex) := g.up mode s false r16
    let k : Int := (if up then g.k + 1 else g.k : Nat)
    let v := if s then -k else k
    if v < lo then (lo, flagNV) else if v > hi then (hi, flagNV) else (v, if inex then flagNX else 0)

/-- An integer as an exact value (I2F, N2F, I642F). -/
def intPre (v : Int) : Pre := .val (decide (v < 0)) v.natAbs 0 false

/-- The rounding of an FP32 value to an integral value (RNDN, RNDZ, RNDP, RNDM), without flags (R296). -/
def roundIntegral (mode : Rm) (x : Nat) : Nat :=
  match Fmt.f32.unpack x with
  | .nan => 0x7FC00000
  | .inf _ => x
  | .fin s m e =>
    if m = 0 then x else
    let g := intGrid m e
    let (up, _) := g.up mode s false 0
    ((Pre.val s (if up then g.k + 1 else g.k) 0 false).rne .f32).1

/-- The class bit of R297. -/
def fClass (x : Nat) : Nat :=
  match Fmt.f32.unpack x with
  | .nan => 2 ^ 8
  | .inf s => if s then 1 else 2 ^ 7
  | .fin s m _ =>
    if m = 0 then (if s then 2 ^ 3 else 2 ^ 4)
    else if m < 2 ^ 23 then (if s then 2 ^ 2 else 2 ^ 5)
    else if s then 2 ^ 1 else 2 ^ 6

end Sys2Proof
end

