-- ==== Sys2Proof/Machine/Transcend.lean ====
section
/-! DEFINITION. The minors of FUN (R296): every function is computed in integers, from a rational or fixed-point value
good to at least 150 bits, and rounded once. -/

namespace Sys2Proof

/-- ln 2 and pi, times 2^1024, rounded down. -/
def ln2Fix : Nat := 0xB17217F7D1CF79ABC9E3B39803F2F6AF40F343267298B62D8A0D175B8BAAFA2BE7B876206DEBAC98559552FB4AFA1B10ED2EAE35C138214427573B291169B8253E96CA16224AE8C51ACBDA11317C387EB9EA9BC3B136603B256FA0EC7657F74B72CE87B19D6548CAF5DFA6BD38303248655FA1872F20E3A2DA2D97C50F3FD5C6
def piFix : Nat := 0x3243F6A8885A308D313198A2E03707344A4093822299F31D0082EFA98EC4E6C89452821E638D01377BE5466CF34E90C6CC0AC29B7C97C50DD3F84D5B5B54709179216D5D98979FB1BD1310BA698DFB5AC2FFD72DBD01ADFB7B8E1AFED6A267E96BA7C9045F12C7F9924A19947B3916CF70801F2E2858EFC16636920D871574E69

/-- A constant of 1024 fraction bits at `s` fraction bits. -/
def fixAt (c s : Nat) : Nat := c / 2 ^ (1024 - s)

/-- The integer square root, bit by bit from bit `i - 1` down. -/
def isqrtLoop (n : Nat) : Nat → Nat → Nat
  | 0, r => r
  | i + 1, r => if (r + 2 ^ i) * (r + 2 ^ i) ≤ n then isqrtLoop n i (r + 2 ^ i) else isqrtLoop n i r

def isqrt (n : Nat) : Nat := isqrtLoop n (bitLen n / 2 + 1) 0

/-- The series of exp at `s` fraction bits: `k` counts terms, `t` is the last one, `acc` their sum. -/
def expLoop (s r : Nat) : Nat → Nat → Nat → Nat → Nat
  | 0, _, _, acc => acc
  | fuel + 1, k, t, acc =>
    let t := t * r / 2 ^ s / k
    expLoop s r fuel (k + 1) t (acc + t)

def expFix (s r : Nat) : Nat := expLoop s r (s / 4 + 20) 1 (2 ^ s) (2 ^ s)

/-- The alternating series of sin (first term the angle, k = 2) and cos (first term 1, k = 1), at `s` fraction bits. -/
def trigLoop (s sq : Nat) : Nat → Nat → Nat → Bool → Int → Nat
  | 0, _, _, _, acc => acc.toNat
  | fuel + 1, k, t, neg, acc =>
    let t := t * sq / 2 ^ s / (k * (k + 1))
    trigLoop s sq fuel (k + 2) t (!neg) (if neg then acc - t else acc + t)

def sinFix (s th : Nat) : Nat := trigLoop s (th * th / 2 ^ s) 80 2 th true th
def cosFix (s th : Nat) : Nat := trigLoop s (th * th / 2 ^ s) 80 1 (2 ^ s) true (2 ^ s)

/-- The bits of log2 of a mantissa between 1 and 2 at `s` fraction bits, by repeated squaring. -/
def log2Loop (s : Nat) : Nat → Nat → Nat → Nat
  | 0, _, acc => acc
  | fuel + 1, z, acc =>
    let z := z * z / 2 ^ s
    if z ≥ 2 ^ (s + 1) then log2Loop s fuel (z / 2) (2 * acc + 1) else log2Loop s fuel z (2 * acc)

/-- 2^x of a finite x. -/
def exp2Pre (s : Bool) (m : Nat) (e : Int) : Pre :=
  if bitLen m + e > 8 then if s then .bits 0 0 else .bits (Fmt.f32.inf false) flagOF
  else
    let S : Nat := 256
    let num : Int := (if 0 ≤ e + S then m * 2 ^ (e + S).toNat else m / 2 ^ (-(e + S)).toNat : Nat)
    let exact := decide (0 ≤ e + S)
    let t : Int := if s then (if exact then -num else -num - 1) else num
    let n := t / (2 ^ S : Nat)
    let fr := (t % (2 ^ S : Nat)).toNat
    if fr = 0 && exact then .val false 1 n false
    else .val false (expFix S (fr * fixAt ln2Fix S / 2 ^ S)) (n - S) true

/-- log2 of a positive finite x. -/
def log2Pre (m : Nat) (e : Int) : Pre :=
  let n : Int := e + bitLen m - 1
  if m = 2 ^ (bitLen m - 1) then .val (decide (n < 0)) n.natAbs 0 false
  else
    let S : Nat := 400
    let B : Nat := 160
    let t : Int := n * (2 ^ B : Nat) + log2Loop S B (m * 2 ^ (S - (bitLen m - 1))) 0
    if 0 ≤ t then .val false t.toNat (-B) true else .val true (t.natAbs - 1) (-B) true

/-- sin (or cos) of 2 pi x for a finite x in turns (R296). -/
def turnPre (wantCos : Bool) (s : Bool) (m : Nat) (e : Int) : Pre :=
  if m = 0 then .bits (if wantCos then 0x3F800000 else Fmt.f32.signBit s) 0
  else if 0 ≤ e then .bits (if wantCos then 0x3F800000 else 0) 0
  else
    let D := 2 ^ (-e).toNat
    let r := 4 * (m % D)
    let quad := (r / D + (if wantCos then 1 else 0)) % 4
    let rho := r % D
    let neg := decide (quad ≥ 2) != (s && !wantCos)
    if rho = 0 then
      if quad % 2 = 0 then .bits 0 0 else .bits (Fmt.f32.signBit neg + 0x3F800000) 0
    else
      let S := 200 + (bitLen D - bitLen rho)
      let th := fixAt piFix S * rho / (2 * D)
      .val neg (if quad % 2 = 0 then sinFix S th else cosFix S th) (-S) true

/-- tanh of a finite non-zero x. -/
def tanhPre (s : Bool) (m : Nat) (e : Int) : Pre :=
  let top : Int := e + bitLen m
  if top > 5 then .val s (2 ^ 200 - 1) (-200) true
  else
    let S := 220 + 2 * (-top).toNat
    let a := if 0 ≤ e + 1 + S then m * 2 ^ (e + 1 + S).toNat else m / 2 ^ (-(e + 1 + S)).toNat
    let l := fixAt ln2Fix S
    let ex := expFix S (a % l) * 2 ^ (a / l)
    .val s ((ex - 2 ^ S) * 2 ^ S / (ex + 2 ^ S)) (-S) true

/-- 1 over the square root of a positive finite x. -/
def rsqPre (m : Nat) (e : Int) : Pre :=
  let (m, e) := if e % 2 = 0 then (m, e) else (2 * m, e - 1)
  let K : Nat := 200
  let y := isqrt (2 ^ (2 * K) / m)
  .val false y (-(e / 2) - K) (decide (y * y * m ≠ 2 ^ (2 * K)))

/-- The square root of a positive finite x. -/
def sqrtPre (m : Nat) (e : Int) : Pre :=
  let (m, e) := if e % 2 = 0 then (m, e) else (2 * m, e - 1)
  let K : Nat := 160
  let y := isqrt (m * 2 ^ (2 * K))
  .val false y (e / 2 - K) (decide (y * y ≠ m * 2 ^ (2 * K)))

/-- Whether a minor raises neither NX nor UF (R296). -/
def transcendental (f : Nat) : Bool := decide (f = 5 ∨ f = 6 ∨ f = 7 ∨ f = 8 ∨ f = 9)

/-- FUN in FP32 (R296): the result and its flags. -/
def funF32 (f : Nat) (x : Nat) : Nat × FFlags :=
  let nan := Fmt.f32.nan
  let fin (p : Pre) : Nat × FFlags :=
    let r := p.rne .f32
    (r.1, if transcendental f then r.2 &&& flagOF else r.2)
  match f with
  | 0 => (x % 2 ^ 31, 0)
  | 1 => ((x + 2 ^ 31) % 2 ^ 32, 0)
  | 15 => (fClass x, 0)
  | 10 => (roundIntegral .rne x, 0)
  | 11 => (roundIntegral .rz x, 0)
  | 12 => (roundIntegral .ru x, 0)
  | 13 => (roundIntegral .rd x, 0)
  | _ =>
    match Fmt.f32.unpack x with
    | .nan => (nan, 0)
    | .inf s =>
      match f with
      | 2 => (Fmt.f32.signBit s, 0)
      | 3 => if s then (nan, flagNV) else (0, 0)
      | 4 => if s then (nan, flagNV) else (x, 0)
      | 5 => if s then (0, 0) else (x, 0)
      | 6 => if s then (nan, flagNV) else (x, 0)
      | 9 => (Fmt.f32.signBit s + 0x3F800000, 0)
      | _ => (nan, flagNV)
    | .fin s m e =>
      match f with
      | 2 => if m = 0 then (Fmt.f32.inf s, flagDZ)
        else fin (.val s (2 ^ (128 + bitLen m) / m) (-e - (128 + bitLen m : Nat)) (decide (2 ^ (128 + bitLen m) % m ≠ 0)))
      | 3 => if m = 0 then (Fmt.f32.inf s, flagDZ) else if s then (nan, flagNV) else fin (rsqPre m e)
      | 4 => if m = 0 then (x, 0) else if s then (nan, flagNV) else fin (sqrtPre m e)
      | 5 => fin (exp2Pre s m e)
      | 6 => if m = 0 then (Fmt.f32.inf true, flagDZ) else if s then (nan, flagNV) else fin (log2Pre m e)
      | 7 => fin (turnPre false s m e)
      | 8 => fin (turnPre true s m e)
      | 9 => if m = 0 then (x, 0) else fin (tanhPre s m e)
      | _ =>
        if m = 0 then (0, 0)
        else
          let fl := Fmt.f32.unpack (roundIntegral .rd x)
          let r := fin (sumTerms .f32 .rne [.fin s m e, fl.neg.term])
          if r.1 ≥ 0x3F800000 then (0x3F7FFFFF, r.2 ||| flagNX) else r

/-- One element of FUN in bf16x2 (R296): the FP32 result rounded to BF16. -/
def funBf16 (f : Nat) (x : Nat) : Nat × FFlags :=
  match f with
  | 0 => (x % 2 ^ 15, 0)
  | 1 => ((x + 2 ^ 15) % 2 ^ 16, 0)
  | _ =>
    let r := funF32 f (x * 2 ^ 16)
    match Fmt.f32.unpack r.1 with
    | .nan => (Fmt.bf16.nan, r.2)
    | .inf s => (Fmt.bf16.inf s, r.2)
    | .fin s m e =>
      let y := (Pre.val s m e false).rne .bf16
      let quiet := transcendental f || (decide (10 ≤ f) && decide (f ≤ 13))
      (y.1, r.2 ||| (if quiet then y.2 &&& (if decide (10 ≤ f) then 0 else flagOF) else y.2))

end Sys2Proof
end

