-- ==== Sys2Proof/Machine/Flags.lean ====
section
/-! DEFINITION. FRM (R267), the sticky flags and FPX (R268), stochastic rounding across the threads of a ply (R270, R284),
and the one way a lane instruction turns per-thread results into register results. -/

namespace Sys2Proof.Machine

/-- The rounding mode in FRM (R267). -/
def frmMode (frm : DWord) : Rm :=
  match fieldOf frm 0 3 with
  | 0 => .rne
  | 1 => .rz
  | 2 => .ru
  | 3 => .rd
  | _ => .sr

/-- The rounding mode that mod3 of CVT selects (R274). -/
def cvtMode (frm : DWord) (m : BitVec 3) : Rm :=
  match m.toNat with
  | 0 => .rne
  | 1 => .rz
  | 2 => .ru
  | 3 => .rd
  | 4 => .sr
  | _ => frmMode frm

/-- NSAT of FRM (R267). -/
def frmNsat (frm : DWord) : Bool := frm.getLsbD 3

/-- What a WRSR stores into FRM: reserved bits read zero, and a mode of 5 to 7 leaves RM unchanged (R267). -/
def frmWrite (old new : DWord) : DWord :=
  let rm := fieldOf new 0 3
  (new &&& 0x1F8) ||| BitVec.ofNat 64 (if rm ≤ 4 then rm else fieldOf old 0 3)

/-- The enabled flags, in the order of R268. -/
def frmEnables (frm : DWord) : FFlags := (frm >>> 4).setWidth 5

/-- XVAL of FPX, if some thread raised an enabled flag (R268). -/
def fpxVal (frm : DWord) (threads : List Nat) (fl : Nat → FFlags) : Option DWord :=
  (threads.find? fun k => decide (fl k &&& frmEnables frm ≠ 0)).map fun k =>
    (fl k).setWidth 64 ||| fieldAt 8 k

/-- OR the raised flags into PLYSTAT (R268, R440). -/
def addFlags (s : State) (key : Nat) (threads : List Nat) (fl : Nat → FFlags) : State :=
  let all := threads.foldl (fun a k => a ||| fl k) (0 : FFlags)
  s.modPly key fun p => { p with stat := p.stat ||| all.setWidth 64 }

/-- The threads an instruction computes for: thread 0 alone when uniform (R281). -/
def Env.threads (v : Env) (i : Instr) : List Nat :=
  if i.shape.uniform then [0] else threadsOf v.p.width v.p.em

/-- The number that SR compares with in thread `k`, element `e`, from every thread's discard word (R270, R284). -/
def Env.r16 (v : Env) (i : Instr) (d : Nat → Word) (k e : Nat) : Nat :=
  if i.shape.uniform then srHash 0 0 (64 * e)
  else srHash (d ((k + v.p.width - 1) % v.p.width)) (d ((k + 1) % v.p.width)) (k + 64 * e)

/-- The results of every thread as register results and latch value (R281, R282). -/
def laneEffect (i : Instr) (v : Env) (d : Name) (w : Width) (g : Nat → QWord) : Effect :=
  let vals := if i.shape.uniform then [g 0] else (List.range v.p.width).map g
  { writes := dstWrites d w (if i.shape.uniform then 1 else v.p.em) vals
    latch := some (vals.map fun x => x.extractLsb' 0 32 |>.setWidth 64) }

/-- A lane instruction whose result raises nothing. -/
def lanePure (i : Instr) (d : Name) (w : Width) (g : Env → Nat → QWord) (s : State) : Host.Outcome State Fault Refusal :=
  issue i (fun v s => .done s (laneEffect i v d w (g v))) s

/-- A lane instruction whose results carry flags: FPX when an enabled flag is raised, else the flags become sticky. -/
def laneFlags (i : Instr) (d : Name) (w : Width) (g : Env → Nat → QWord × FFlags) (s : State) :
    Host.Outcome State Fault Refusal :=
  issue i (fun v s =>
    let fl := fun k => (g v k).2
    match fpxVal v.p.frm (v.threads i) fl with
    | some x => .trap causeFPX x
    | none => .done (addFlags s v.key (v.threads i) fl) (laneEffect i v d w fun k => (g v k).1)) s

/-- Round the exact result of a thread, element `e`, into a format under FRM (R284). -/
def roundLane (i : Instr) (f : Fmt) (v : Env) (pre : Nat → Pre) (k e : Nat) : Nat × FFlags :=
  let mode := frmMode v.p.frm
  let r16 := if mode = .sr then v.r16 i (fun j => (pre j).discard f) k e else 0
  (pre k).round f mode r16 (overflow f mode)

/-- An FP32 instruction: the exact result of each thread, rounded once. -/
def laneF32 (i : Instr) (d : Name) (pre : Env → Rm → Nat → Pre) (s : State) : Host.Outcome State Fault Refusal :=
  laneFlags i d .one (fun v k =>
    let r := roundLane i .f32 v (pre v (frmMode v.p.frm)) k 0
    (BitVec.ofNat 128 r.1, r.2)) s

/-- A bf16x2 instruction: each element rounded on its own (R284, R293). `pre` takes the element. -/
def laneBf16 (i : Instr) (d : Name) (pre : Env → Rm → Nat → Nat → Pre) (s : State) : Host.Outcome State Fault Refusal :=
  laneFlags i d .one (fun v k =>
    let r0 := roundLane i .bf16 v (pre v (frmMode v.p.frm) 0) k 0
    let r1 := roundLane i .bf16 v (pre v (frmMode v.p.frm) 1) k 1
    (BitVec.ofNat 128 (r0.1 + r1.1 * 2 ^ 16), r0.2 ||| r1.2)) s

/-- An operand of a thread as an FP32 value, and one element of it as a BF16 value. -/
def Env.f32 (v : Env) (n k : Nat) : FVal := Fmt.f32.unpack ((v.op n).at32 k).toNat
def Env.bf (v : Env) (n e k : Nat) : FVal := Fmt.bf16.unpack (((v.op n).at32 k).toNat / 2 ^ (16 * e) % 2 ^ 16)

end Sys2Proof.Machine
end

