-- ==== Sys2Proof/Machine/IntLanes.lean ====
section
/-! DEFINITION. The integer lane instructions (R286 to R291) and their 16-bit forms (R38, R303). -/

namespace Sys2Proof.Machine

abbrev Out := Host.Outcome State Fault Refusal

/-! ## The functions -/

def wide (x : Word) : QWord := x.setWidth 128
def wide64 (x : DWord) : QWord := x.setWidth 128

def shl32 (a b : Word) : Word := if 32 ≤ b.toNat then 0 else a <<< b.toNat
def shr32 (a b : Word) : Word := if 32 ≤ b.toNat then 0 else a >>> b.toNat
def sar32 (a b : Word) : Word := a.sshiftRight (min b.toNat 31)
def minS (a b : Word) : Word := if b.slt a then b else a
def maxS (a b : Word) : Word := if a.slt b then b else a
def minU (a b : Word) : Word := if b < a then b else a
def maxU (a b : Word) : Word := if a < b then b else a

/-- Bits 63:32 of the signed and the unsigned product (R286). -/
def mulhS (a b : Word) : Word := ((a.signExtend 64 * b.signExtend 64) >>> 32).setWidth 32
def mulhU (a b : Word) : Word := ((a.setWidth 64 * b.setWidth 64) >>> 32).setWidth 32

/-- The position and effective length of BFE and BFI (R288). -/
def bfPos (b : Word) : Nat := b.toNat % 32
def bfLen (b : Word) : Nat := min (min ((b.toNat / 256) % 64) 32) (32 - bfPos b)

def bfe (a b : Word) : Word :=
  let n := bfLen b
  let f := (a.toNat / 2 ^ bfPos b) % 2 ^ n
  if b.getLsbD 16 && decide (n > 0) && decide (f / 2 ^ (n - 1) = 1) then BitVec.ofInt 32 ((f : Int) - 2 ^ n)
  else BitVec.ofNat 32 f

def bfi (base a b : Word) : Word :=
  let m : Word := BitVec.ofNat 32 ((2 ^ bfLen b - 1) * 2 ^ bfPos b)
  (base &&& ~~~m) ||| ((a <<< bfPos b) &&& m)

def popc (a : Word) : Nat := ((List.range 32).filter a.getLsbD).length
def ctz (a : Word) : Nat := (leastBelow 32 a.getLsbD).getD 32
def clz (a : Word) : Nat := (leastBelow 32 fun j => a.getLsbD (31 - j)).getD 32
def brev (a : Word) : Word := (List.range 32).foldl (fun r j => if a.getLsbD j then r ||| (1#32 <<< (31 - j)) else r) 0

/-- IUN on 32-bit values (R289). -/
def iun (f : Nat) (a : Word) : Word :=
  match f with
  | 0 => if a.getLsbD 31 then -a else a
  | 1 => -a
  | 2 => ~~~a
  | 3 => BitVec.ofNat 32 (popc a)
  | 4 => BitVec.ofNat 32 (clz a)
  | 5 => BitVec.ofNat 32 (ctz a)
  | 6 => brev a
  | 7 => (a.setWidth 8).signExtend 32
  | 8 => (a.setWidth 16).signExtend 32
  | 9 => (a.setWidth 8).setWidth 32
  | _ => (a.setWidth 16).setWidth 32

/-- The integer conditions (R290). -/
def icond (c : Nat) {n : Nat} (a b : BitVec n) : Bool :=
  match c with
  | 0 => decide (a = b)
  | 1 => decide (a ≠ b)
  | 2 => a.slt b
  | 3 => a.sle b
  | 4 => b.slt a
  | 5 => b.sle a
  | 6 => decide (a < b)
  | 7 => decide (a ≤ b)
  | 8 => decide (b < a)
  | _ => decide (b ≤ a)

def sdivQ (a b : Word) : Word := BitVec.ofInt 32 (a.toInt.tdiv b.toInt)
def sdivR (a b : Word) : Word := BitVec.ofInt 32 (a.toInt.tmod b.toInt)
def udivQ (a b : Word) : Word := BitVec.ofNat 32 (a.toNat / b.toNat)
def udivR (a b : Word) : Word := BitVec.ofNat 32 (a.toNat % b.toNat)

/-! ## Shared shapes -/

/-- d from a and b, 32 bits each. -/
def lane2 (i : Instr) (d : Name) (f : Word → Word → Word) (s : State) : Out :=
  lanePure i d .one (fun v k => wide (f ((v.op 0).at32 k) ((v.op 1).at32 k))) s

/-- d from a and an immediate. -/
def lane1 (i : Instr) (d : Name) (f : Word → Word) (s : State) : Out :=
  lanePure i d .one (fun v k => wide (f ((v.op 0).at32 k))) s

def lane64 (i : Instr) (d : Name) (f : DWord → DWord → DWord) (s : State) : Out :=
  lanePure i d .pair (fun v k => wide64 (f ((v.op 0).at64 k) ((v.op 1).at64 k))) s

/-- A compare: the predicate of the active threads, or q when both sources are uniform, and the latch value of R282. -/
def compare (i : Instr) (p : BitVec 3) (f : Env → Nat → Bool) (s : State) : Out :=
  issue i (fun v s =>
    if i.shape.uniform then .done s { writes := [⟨.q p.toNat, 1, [if f v 0 then 1 else 0]⟩] }
    else
      let bits := (threadsOf v.p.width v.p.em).foldl (fun m k => if f v k then m ||| (1#64 <<< k) else m) 0
      .done s { writes := if v.p.em = 0 then [] else [⟨.p p.toNat, v.p.em, [bits]⟩]
                latch := some ((List.range v.p.width).map fun k => if f v k then 1 else 0) }) s

/-- The divide family (R291): IDIV0 on an active zero divisor, else a result that lands. -/
def divide (i : Instr) (d : Name) (f : Word → Word → Word) (s : State) : Out :=
  issue i (fun v s =>
    let z := (v.threads i).foldl (fun m k => if (v.op 1).at32 k = 0 then m ||| (1#64 <<< k) else m) 0
    if z ≠ 0 then .trap causeIDIV0 z
    else
      let g := fun k => wide (f ((v.op 0).at32 k) ((v.op 1).at32 k))
      let vals := if i.shape.uniform then [g 0] else (List.range v.p.width).map g
      let ws := (dstWrites d .one (if i.shape.uniform then 1 else v.p.em) vals).filter fun w => decide (w.mask ≠ 0)
      .done s { land := some ⟨0, true, 0, ws⟩ }) s

/-! ## Meanings -/

def execIadd (d : Name) (a b : Src) (sw : Bool) (s : State) : Out := lane2 (.iadd d a b sw) d (· + ·) s
def execIsub (d : Name) (a b : Src) (sw : Bool) (s : State) : Out := lane2 (.isub d a b sw) d (· - ·) s
def execImul (d : Name) (a b : Src) (sw : Bool) (s : State) : Out := lane2 (.imul d a b sw) d (· * ·) s
/-- R286: d7 is also a source, read first. -/
def execImad (d : Name) (a b : Src) (sw : Bool) (s : State) : Out :=
  lanePure (.imad d a b sw) d .one (fun v k => wide ((v.op 1).at32 k * (v.op 2).at32 k + (v.op 0).at32 k)) s
def execImulh (d : Name) (a b : Src) (sw : Bool) (s : State) : Out := lane2 (.imulh d a b sw) d mulhS s
def execImulhn (d : Name) (a b : Src) (sw : Bool) (s : State) : Out := lane2 (.imulhn d a b sw) d mulhU s
def execImin (d : Name) (a b : Src) (sw : Bool) (s : State) : Out := lane2 (.imin d a b sw) d minS s
def execIminn (d : Name) (a b : Src) (sw : Bool) (s : State) : Out := lane2 (.iminn d a b sw) d minU s
def execImax (d : Name) (a b : Src) (sw : Bool) (s : State) : Out := lane2 (.imax d a b sw) d maxS s
def execImaxn (d : Name) (a b : Src) (sw : Bool) (s : State) : Out := lane2 (.imaxn d a b sw) d maxU s
def execAnd (d : Name) (a b : Src) (sw : Bool) (s : State) : Out := lane2 (.and d a b sw) d (· &&& ·) s
def execOr (d : Name) (a b : Src) (sw : Bool) (s : State) : Out := lane2 (.or d a b sw) d (· ||| ·) s
def execXor (d : Name) (a b : Src) (sw : Bool) (s : State) : Out := lane2 (.xor d a b sw) d (· ^^^ ·) s
def execAndn (d : Name) (a b : Src) (sw : Bool) (s : State) : Out := lane2 (.andn d a b sw) d (fun x y => x &&& ~~~y) s
def execShl (d : Name) (a b : Src) (sw : Bool) (s : State) : Out := lane2 (.shl d a b sw) d shl32 s
def execShr (d : Name) (a b : Src) (sw : Bool) (s : State) : Out := lane2 (.shr d a b sw) d shr32 s
def execSar (d : Name) (a b : Src) (sw : Bool) (s : State) : Out := lane2 (.sar d a b sw) d sar32 s
def execRotl (d : Name) (a b : Src) (sw : Bool) (s : State) : Out :=
  lane2 (.rotl d a b sw) d (fun x y => x.rotateLeft (y.toNat % 32)) s
def execIadd64 (d : Name) (a b : Src) (sw : Bool) (s : State) : Out := lane64 (.iadd64 d a b sw) d (· + ·) s
def execIsub64 (d : Name) (a b : Src) (sw : Bool) (s : State) : Out := lane64 (.isub64 d a b sw) d (· - ·) s
def execLea (d : Name) (a b : Src) (sw : Bool) (s : State) : Out :=
  lanePure (.lea d a b sw) d .pair (fun v k => wide64 ((v.op 0).at64 k + ((v.op 1).at32 k).signExtend 64)) s
/-- R286: p0 of the thread, or q0 when uniform. -/
def execSel (d : Name) (a b : Src) (sw : Bool) (s : State) : Out :=
  lanePure (.sel d a b sw) d .one (fun v k =>
    wide (if v.pred.getLsbD k then (v.op 0).at32 k else (v.op 1).at32 k)) s
def execBfe (d : Name) (a b : Src) (sw : Bool) (s : State) : Out := lane2 (.bfe d a b sw) d bfe s
/-- R288: the base is lx, the last operand read. -/
def execBfi (d : Name) (a b : Src) (sw : Bool) (s : State) : Out :=
  lanePure (.bfi d a b sw) d .one (fun v k =>
    wide (bfi ((v.op 2).at32 k) ((v.op 0).at32 k) ((v.op 1).at32 k))) s

def execIaddi (d : Name) (a : Src) (i : BitVec 8) (sw : Bool) (s : State) : Out :=
  lane1 (.iaddi d a i sw) d (· + i.signExtend 32) s
def execAndi (d : Name) (a : Src) (i : BitVec 8) (sw : Bool) (s : State) : Out :=
  lane1 (.andi d a i sw) d (· &&& i.signExtend 32) s
def execOri (d : Name) (a : Src) (i : BitVec 8) (sw : Bool) (s : State) : Out :=
  lane1 (.ori d a i sw) d (· ||| i.signExtend 32) s
def execXori (d : Name) (a : Src) (i : BitVec 8) (sw : Bool) (s : State) : Out :=
  lane1 (.xori d a i sw) d (· ^^^ i.signExtend 32) s
def execShli (d : Name) (a : Src) (i : BitVec 7) (sw : Bool) (s : State) : Out :=
  lane1 (.shli d a i sw) d (shl32 · (i.setWidth 32)) s
def execShri (d : Name) (a : Src) (i : BitVec 7) (sw : Bool) (s : State) : Out :=
  lane1 (.shri d a i sw) d (shr32 · (i.setWidth 32)) s
def execSari (d : Name) (a : Src) (i : BitVec 7) (sw : Bool) (s : State) : Out :=
  lane1 (.sari d a i sw) d (sar32 · (i.setWidth 32)) s
def execMovi (d : Name) (i : BitVec 16) (sw : Bool) (s : State) : Out :=
  lanePure (.movi d i sw) d .one (fun _ _ => i.setWidth 128) s
def execMovhi (d : Name) (i : BitVec 16) (sw : Bool) (s : State) : Out :=
  lanePure (.movhi d i sw) d .one (fun _ _ => i.setWidth 128 <<< 16) s

def execIcmp (a : Src) (b : Name) (p : BitVec 3) (c : BitVec 5) (sw : Bool) (s : State) : Out :=
  compare (.icmp a b p c sw) p (fun v k =>
    if c.toNat < 16 then icond c.toNat ((v.op 0).at32 k) ((v.op 1).at32 k)
    else icond (c.toNat - 16) ((v.op 0).at64 k) ((v.op 1).at64 k)) s

def execIun (d : Name) (a : Src) (f : BitVec 5) (sw : Bool) (s : State) : Out :=
  if f = 11 then lanePure (.iun d a f sw) d .pair (fun v k => wide64 ((v.op 0).at64 k)) s
  else lane1 (.iun d a f sw) d (iun f.toNat) s

def execIdiv (d : Name) (a b : Src) (sw : Bool) (s : State) : Out := divide (.idiv d a b sw) d sdivQ s
def execIdivn (d : Name) (a b : Src) (sw : Bool) (s : State) : Out := divide (.idivn d a b sw) d udivQ s
def execIrem (d : Name) (a b : Src) (sw : Bool) (s : State) : Out := divide (.irem d a b sw) d sdivR s
def execIremn (d : Name) (a b : Src) (sw : Bool) (s : State) : Out := divide (.iremn d a b sw) d udivR s

/-! ## The 16-bit forms: `d5` is the first operand where it is a source (R25, R38) -/

def execMovH (d b : Short) (sw : Bool) (s : State) : Out := lane1 (.movH d b sw) d.name id s
def execMovi5H (d : Short) (i : BitVec 5) (sw : Bool) (s : State) : Out :=
  lanePure (.movi5H d i sw) d.name .one (fun _ _ => wide (i.signExtend 32)) s
def execIaddH (d b : Short) (sw : Bool) (s : State) : Out := lane2 (.iaddH d b sw) d.name (· + ·) s
def execIaddi5H (d : Short) (i : BitVec 5) (sw : Bool) (s : State) : Out :=
  lane1 (.iaddi5H d i sw) d.name (· + i.signExtend 32) s
def execIsubH (d b : Short) (sw : Bool) (s : State) : Out := lane2 (.isubH d b sw) d.name (· - ·) s
def execImulH (d b : Short) (sw : Bool) (s : State) : Out := lane2 (.imulH d b sw) d.name (· * ·) s
def execAndH (d b : Short) (sw : Bool) (s : State) : Out := lane2 (.andH d b sw) d.name (· &&& ·) s
def execOrH (d b : Short) (sw : Bool) (s : State) : Out := lane2 (.orH d b sw) d.name (· ||| ·) s
def execXorH (d b : Short) (sw : Bool) (s : State) : Out := lane2 (.xorH d b sw) d.name (· ^^^ ·) s
def execShli5H (d : Short) (i : BitVec 5) (sw : Bool) (s : State) : Out :=
  lane1 (.shli5H d i sw) d.name (shl32 · (i.setWidth 32)) s
def execShri5H (d : Short) (i : BitVec 5) (sw : Bool) (s : State) : Out :=
  lane1 (.shri5H d i sw) d.name (shr32 · (i.setWidth 32)) s
def execSari5H (d : Short) (i : BitVec 5) (sw : Bool) (s : State) : Out :=
  lane1 (.sari5H d i sw) d.name (sar32 · (i.setWidth 32)) s

end Sys2Proof.Machine
end

