-- ==== Sys2Proof/Machine/Control.lean ====
section
/-! DEFINITION. Control flow inside a ply (R351 to R364) and the role queues (R365, R366). -/

namespace Sys2Proof.Machine

/-- The target of a relative transfer (R24). -/
def Env.rel {n : Nat} (v : Env) (o : BitVec n) : DWord := v.p.pc + (o.signExtend 64 <<< 1)

/-- A whole-ply transfer (R357). -/
def transfer (s : State) (a : DWord) : Res := .done s { target := some a }

/-- A transfer to a register's value: an odd target traps with ALIGN (R20). -/
def transferReg (s : State) (a : DWord) (ws : List Write) : Res :=
  if a.getLsbD 0 then .trap causeALIGN a else .done s { target := some a, writes := ws }

/-- STACK (R353). -/
def stackTrap (v : Env) (reason : Nat) : Res := .trap causeSTACK (fieldAt 0 reason ||| fieldAt 8 v.p.stack.length)

/-- The top entry above the floor, or the reason to trap; `absent` is the reason when there is none (R353). -/
def Env.top (v : Env) (absent : Nat) : DivEntry × List DivEntry ⊕ Nat :=
  match v.p.stack with
  | [] => .inr absent
  | e :: rest => if v.p.stack.length ≤ v.p.floor then .inr 6 else .inl (e, rest)

/-- Set EM and the stack of the issuing ply. -/
def setFlow (s : State) (v : Env) (em : DWord) (st : List DivEntry) : State :=
  s.modPly v.key fun p => { p with em := em, stack := st }

/-! ## Uniform transfers (R357) -/

def execBra (o : BitVec 23) (sw : Bool) (s : State) : Out :=
  issue (.bra o sw) (fun v s => transfer s (v.rel o)) s
def execBrq (p : BitVec 4) (o : BitVec 19) (sw : Bool) (s : State) : Out :=
  issue (.brq p o sw) (fun v s => if v.pred.getLsbD 0 != p.getLsbD 3 then transfer s (v.rel o) else .done s {}) s
def execCall (o : BitVec 23) (sw : Bool) (s : State) : Out :=
  issue (.call o sw) (fun v s => .done s { target := some (v.rel o), writes := [⟨.s 31, 1, [v.p.pc + 4]⟩] }) s
def execCalli (d : Name) (a : Src) (sw : Bool) (s : State) : Out :=
  issue (.calli d a sw) (fun v s => transferReg s ((v.op 0).at64 0) (dstWrites d .pair 1 [wide64 (v.p.pc + 4)])) s
def execJmpi (a : Src) (sw : Bool) (s : State) : Out :=
  issue (.jmpi a sw) (fun v s => transferReg s ((v.op 0).at64 0) []) s
def execRet (a : Src) (sw : Bool) (s : State) : Out :=
  issue (.ret a sw) (fun v s => transferReg s ((v.op 0).at64 0) []) s

/-! ## Divergence (R358 to R361) -/

def execIfp (p : BitVec 4) (o : BitVec 19) (sw : Bool) (s : State) : Out :=
  issue (.ifp p o sw) (fun v s =>
    if v.p.stack.length = 16 then stackTrap v 1
    else
      let c := if p.getLsbD 3 then ~~~v.pred else v.pred
      let em := v.p.em &&& c
      let s := setFlow s v em (⟨.ifK, v.p.em, v.p.em &&& ~~~c, false, 0⟩ :: v.p.stack)
      .done s { target := if em = 0 then some (v.rel o) else none }) s

def execElse (o : BitVec 19) (sw : Bool) (s : State) : Out :=
  issue (.elseI o sw) (fun v s =>
    match v.top 2 with
    | .inr r => stackTrap v r
    | .inl (e, rest) =>
      if e.kind = .loop then stackTrap v 2
      else if e.elsed then stackTrap v 3
      else .done (setFlow s v e.aux ({ e with elsed := true } :: rest))
        { target := if e.aux = 0 then some (v.rel o) else none }) s

def execEndif (sw : Bool) (s : State) : Out :=
  issue (.endif sw) (fun v s =>
    match v.top 2 with
    | .inr r => stackTrap v r
    | .inl (e, rest) =>
      if e.kind = .loop then stackTrap v 2
      else .done (setFlow s v (e.oem &&& v.p.tlive) rest) {}) s

/-- ELECT (R359): the lowest thread of EM, or all ones when EM is empty. -/
def execElect (d : Name) (sw : Bool) (s : State) : Out :=
  issue (.elect d sw) (fun v s =>
    if v.p.stack.length = 16 then stackTrap v 1
    else
      let first := leastBelow 64 v.p.em.getLsbD
      let em : DWord := match first with
        | some k => 1#64 <<< k
        | none => 0
      let r : DWord := match first with
        | some k => BitVec.ofNat 64 k
        | none => BitVec.allOnes 64
      .done (setFlow s v em (⟨.elect, v.p.em, 0, true, 0⟩ :: v.p.stack)) { writes := dstWrites d .pair 1 [wide64 r] }) s

def execLoop (o : BitVec 19) (sw : Bool) (s : State) : Out :=
  issue (.loop o sw) (fun v s =>
    if v.p.em = 0 then transfer s (v.rel o)
    else if v.p.stack.length = 16 then stackTrap v 1
    else .done (setFlow s v v.p.em (⟨.loop, v.p.em, 0, false, v.rel o &&& 0x1FFFFFFFFFFFFFE#64⟩ :: v.p.stack)) {}) s

def execEndloop (o : BitVec 19) (sw : Bool) (s : State) : Out :=
  issue (.endloop o sw) (fun v s =>
    match v.top 4 with
    | .inr r => stackTrap v r
    | .inl (e, rest) =>
      if e.kind ≠ .loop then stackTrap v 4
      else
        let em := (v.p.em ||| e.aux) &&& v.p.tlive
        if em ≠ 0 then .done (setFlow s v em ({ e with aux := 0 } :: rest)) { target := some (v.rel o) }
        else .done (setFlow s v (e.oem &&& v.p.tlive) rest) {}) s

/-- Clear the threads `a` from OEM and AUX of the entries above the innermost LOOP; that entry gets `f` (R361). Nothing
is answered when the entries above the floor, `n` of them, hold no LOOP. -/
def clearToLoop (a : DWord) (f : DivEntry → DivEntry) : Nat → List DivEntry → Option (List DivEntry)
  | n + 1, e :: rest =>
    if e.kind = .loop then some (f e :: rest)
    else (clearToLoop a f n rest).map ({ e with oem := e.oem &&& ~~~a, aux := e.aux &&& ~~~a } :: ·)
  | _, _ => none

/-- BRK and CONT (R361). -/
def leaveLoop (v : Env) (f : DivEntry → DivEntry) (s : State) : Res :=
  match clearToLoop v.p.em f (v.p.stack.length - v.p.floor) v.p.stack with
  | some st => .done (setFlow s v 0 st) {}
  | none => stackTrap v (if v.p.floor = 0 then 5 else 6)

def execBrk (sw : Bool) (s : State) : Out := issue (.brk sw) (fun v s => leaveLoop v id s) s
def execCont (sw : Bool) (s : State) : Out :=
  issue (.cont sw) (fun v s => leaveLoop v (fun e => { e with aux := e.aux ||| v.p.em }) s) s

/-! ## EXIT, YIELD, NOP (R362, R364) -/

def execExit (sw : Bool) (s : State) : Out :=
  issue (.exit sw) (fun v s =>
    let a := v.p.em
    let live := v.p.tlive &&& ~~~a
    let s := s.modPly v.key fun p => { p with
      tlive := live
      em := 0
      stack := p.stack.map fun e => { e with oem := e.oem &&& ~~~a, aux := e.aux &&& ~~~a } }
    .done s { park := if live = 0 then .retire else .none }) s

def execYield (sw : Bool) (s : State) : Out :=
  issue (.yield sw) (fun v s => .done (s.modPly v.key fun p => { p with yielded := true }) {}) s
def execNop (sw : Bool) (s : State) : Out := issue (.nop sw) (fun _ s => .done s {}) s

/-! ## Role queues (R365, R366) -/

def Skein.queue (k : Skein) (q : Nat) : List DWord := k.queues.getD q []
def Skein.setQueue (k : Skein) (q : Nat) (l : List DWord) : Skein := { k with queues := k.queues.set q l }

/-- The park that an instruction makes before it shows a ply's earlier accesses to another party: no strict access
outstanding, tile slots passed, and spindle windows ended when `spin` (R150, R221, R330). -/
def quietWait (v : Env) (spin : Bool) : Option Cond :=
  if decide (v.p.strict ≠ 0) || decide (v.t < v.p.tileAt) || (spin && decide (v.t < v.p.spinAt)) then some (.quiet spin) else none

/-- Whether queue `q` of a skein is closed for a popper: every ply of the from role has retired or waits in QPOP on it. -/
def queueClosed (k : Skein) (q : Nat) : Bool :=
  let d := recQueue k.lrec q
  (List.range (recNply k.lrec)).all fun p =>
    !roleIn (d / 4 % 4) (recRole k.lrec p) || k.retired.getLsbD p ||
      k.poppers.any fun w => decide (w.queue = q) && decide (w.plyid = p)

/-- Whether ply `p` may take the oldest token of queue `q`: it is the first of the waiting poppers. -/
def popTurn (k : Skein) (q p : Nat) : Bool :=
  match k.poppers.find? fun w => decide (w.queue = q) && !w.closed with
  | some w => decide (w.plyid = p)
  | none => true

def execQpush (a : Src) (q : BitVec 3) (sw : Bool) (s : State) : Out :=
  issue (.qpush a q sw) (fun v s =>
    match quietWait v false with
    | some c => .wait s c 0
    | none =>
      match s.skein? v.p with
      | none => .trap causeILLEGAL v.enc
      | some k =>
        if 32 ≤ (k.queue q.toNat).length then .wait s (.queueRoom q.toNat) 0
        else .done (s.modSkein v.p.skeinKey fun k => k.setQueue q.toNat (k.queue q.toNat ++ [(v.op 0).at64 0])) {}) s

def execQpop (d : Name) (q : BitVec 3) (sw : Bool) (s : State) : Out :=
  issue (.qpop d q sw) (fun v s =>
    match s.skein? v.p with
    | none => .trap causeILLEGAL v.enc
    | some k =>
      let n := q.toNat
      let me := v.p.plyid
      let leave (k : Skein) : Skein := { k with poppers := k.poppers.filter fun w => decide (w.plyid ≠ me) }
      let res (x : DWord) (closed : Bool) : Effect :=
        { writes := dstWrites d .pair 1 [wide64 x] ++ [⟨.q 7, 1, [if closed then 1 else 0]⟩] }
      let shut := k.poppers.any fun w => decide (w.plyid = me) && decide (w.queue = n) && w.closed
      match k.queue n with
      | x :: rest =>
        if !shut && popTurn k n me then .done (s.modSkein v.p.skeinKey fun k => leave (k.setQueue n rest)) (res x false)
        else if shut then .done (s.modSkein v.p.skeinKey leave) (res 0 true)
        else
          let k' := if k.poppers.any fun w => decide (w.plyid = me) then k
            else { k with poppers := k.poppers ++ [⟨n, me, false⟩] }
          .wait (s.modSkein v.p.skeinKey fun _ => k') (.queueToken n) 0
      | [] =>
        let k' := if k.poppers.any fun w => decide (w.plyid = me) then k
          else { k with poppers := k.poppers ++ [⟨n, me, false⟩] }
        if shut then .done (s.modSkein v.p.skeinKey leave) (res 0 true)
        else if queueClosed k' n then
          let k'' := { k' with poppers := k'.poppers.map fun w => if w.queue = n then { w with closed := true } else w }
          .done (s.modSkein v.p.skeinKey fun _ => leave k'') (res 0 true)
        else .wait (s.modSkein v.p.skeinKey fun _ => k') (.queueToken n) 0) s

end Sys2Proof.Machine
end

