-- ==== Sys2Proof/Machine/Exchange.lean ====
section
/-! DEFINITION. Lane exchange (R298 to R302): every source of every thread is read, active or not, in one cycle. -/

namespace Sys2Proof.Machine

def execShfl (d : Name) (a b : Src) (sw : Bool) (s : State) : Out :=
  lanePure (.shfl d a b sw) d .one (fun v k => wide ((v.op 0).at32 (((v.op 1).at32 k).toNat % v.p.width))) s
def execShflx (d : Name) (a : Src) (i : BitVec 8) (sw : Bool) (s : State) : Out :=
  lanePure (.shflx d a i sw) d .one (fun v k => wide ((v.op 0).at32 ((k ^^^ i.toNat) % v.p.width))) s
def execRdlane (d : Name) (a : Src) (i : BitVec 8) (sw : Bool) (s : State) : Out :=
  lanePure (.rdlane d a i sw) d .one (fun v _ => wide ((v.op 0).at32 i.toNat)) s

/-- WRLANE writes thread imm8 alone, active or not; ly only if it is active (R299). An empty EM writes nothing (R281). -/
def execWrlane (d : Name) (a : Src) (i : BitVec 8) (sw : Bool) (s : State) : Out :=
  let ins := Instr.wrlane d a i sw
  issue ins (fun v s =>
    let m : DWord := 1#64 <<< i.toNat
    let e := laneEffect ins v d .one fun k => wide ((v.op 0).at32 k)
    .done s { e with
      writes := if v.p.em = 0 then [] else e.writes.map fun w => { w with mask := m }
      latchMask := some (m &&& v.p.em) }) s

/-! ## VOTE (R300) -/

/-- A vote: the value to every active thread, and q7 even when EM is empty. -/
def vote (i : Instr) (d : Name) (w : Width) (f : DWord → DWord → DWord) (s : State) : Out :=
  issue i (fun v s =>
    let x := f v.p.em (v.pred &&& v.p.em)
    let e := laneEffect i v d w fun _ => wide64 x
    .done s { e with writes := e.writes ++ [⟨.q 7, 1, [if x = 0 then 0 else 1]⟩] }) s

def countBits (m : DWord) : DWord := BitVec.ofNat 64 ((List.range 64).filter m.getLsbD).length

def execVoteAny (d : Name) (p : BitVec 3) (sw : Bool) (s : State) : Out :=
  vote (.voteAny d p sw) d .one (fun _ m => if m = 0 then 0 else 1) s
def execVoteAll (d : Name) (p : BitVec 3) (sw : Bool) (s : State) : Out :=
  vote (.voteAll d p sw) d .one (fun em m => if m = em then 1 else 0) s
def execVoteBallot (d : Name) (p : BitVec 3) (sw : Bool) (s : State) : Out :=
  vote (.voteBallot d p sw) d .pair (fun _ m => m) s
def execVoteCount (d : Name) (p : BitVec 3) (sw : Bool) (s : State) : Out :=
  vote (.voteCount d p sw) d .one (fun _ m => countBits m) s

/-! ## SCAN and REDUCE (R301) -/

def scanIdent (f : Nat) : Word :=
  match f with
  | 0 => 0
  | 1 => 0x80000000
  | 2 => 0x7FFFFFFF
  | 3 => 0x80000000
  | 4 => 0xFFFFFFFF
  | 5 => 0
  | 6 => 0x7F800000
  | _ => 0xFF800000

def scanComb (f : Nat) (x y : Word) : Word :=
  match f with
  | 0 => x + y
  | 1 => BitVec.ofNat 32 (fAddRne .f32 x.toNat y.toNat)
  | 2 => minS x y
  | 3 => maxS x y
  | 4 => minU x y
  | 5 => maxU x y
  | 6 => BitVec.ofNat 32 (fMinMax false x.toNat y.toNat)
  | _ => BitVec.ofNat 32 (fMinMax true x.toNat y.toNat)

/-- The running values over the active threads: for each, its number, the value before it and the value after it. -/
def scanRun (f : Nat) (x : Nat → Word) : List Nat → Word → List (Nat × Word × Word)
  | [], _ => []
  | k :: ks, acc =>
    let next := scanComb f acc (x k)
    (k, acc, next) :: scanRun f x ks next

def execScan (d : Name) (a : Src) (f : BitVec 5) (e : Bool) (sw : Bool) (s : State) : Out :=
  lanePure (.scan d a f e sw) d .one (fun v k =>
    match (scanRun f.toNat (v.op 0).at32 (threadsOf v.p.width v.p.em) (scanIdent f.toNat)).find? fun r => r.1 = k with
    | some (_, before, after) => wide (if e then before else after)
    | none => 0) s

def execReduce (d : Name) (a : Src) (f : BitVec 5) (sw : Bool) (s : State) : Out :=
  lanePure (.reduce d a f sw) d .one (fun v _ =>
    wide ((threadsOf v.p.width v.p.em).foldl (fun acc k => scanComb f.toNat acc ((v.op 0).at32 k)) (scanIdent f.toNat))) s

/-- MATCH (R302): the active threads whose key equals the thread's own. -/
def execMatch (d : Name) (a b : Src) (sw : Bool) (s : State) : Out :=
  lanePure (.matchI d a b sw) d .pair (fun v k =>
    let key := fun j => ((v.op 1).at32 j, (v.op 0).at32 j)
    wide64 ((threadsOf v.p.width v.p.em).foldl (fun m j => if key j = key k then m ||| (1#64 <<< j) else m) 0)) s

end Sys2Proof.Machine
end

