-- ==== Sys2Proof/Machine/FloatLanes.lean ====
section
/-! DEFINITION. The floating-point lane instructions (R292 to R297), the conversions (R276, R277) and the 16-bit float
forms (R38, R303). -/

namespace Sys2Proof.Machine

def execFadd (d : Name) (a b : Src) (sw : Bool) (s : State) : Out :=
  laneF32 (.fadd d a b sw) d (fun v m k => fAddPre .f32 m (v.f32 0 k) (v.f32 1 k)) s
def execFsub (d : Name) (a b : Src) (sw : Bool) (s : State) : Out :=
  laneF32 (.fsub d a b sw) d (fun v m k => fAddPre .f32 m (v.f32 0 k) (v.f32 1 k).neg) s
def execFmul (d : Name) (a b : Src) (sw : Bool) (s : State) : Out :=
  laneF32 (.fmul d a b sw) d (fun v m k => fMulPre .f32 m (v.f32 0 k) (v.f32 1 k)) s
def execFfma (d : Name) (a b : Src) (sw : Bool) (s : State) : Out :=
  laneF32 (.ffma d a b sw) d (fun v m k => fFmaPre .f32 m (v.f32 1 k) (v.f32 2 k) (v.f32 0 k)) s
def execFdiv (d : Name) (a b : Src) (sw : Bool) (s : State) : Out :=
  laneF32 (.fdiv d a b sw) d (fun v _ k => fDivPre .f32 (v.f32 0 k) (v.f32 1 k)) s

def execFmin (d : Name) (a b : Src) (sw : Bool) (s : State) : Out :=
  lane2 (.fmin d a b sw) d (fun x y => BitVec.ofNat 32 (fMinMax false x.toNat y.toNat)) s
def execFmax (d : Name) (a b : Src) (sw : Bool) (s : State) : Out :=
  lane2 (.fmax d a b sw) d (fun x y => BitVec.ofNat 32 (fMinMax true x.toNat y.toNat)) s

def execFadd2 (d : Name) (a b : Src) (sw : Bool) (s : State) : Out :=
  laneBf16 (.fadd2 d a b sw) d (fun v m e k => fAddPre .bf16 m (v.bf 0 e k) (v.bf 1 e k)) s
def execFmul2 (d : Name) (a b : Src) (sw : Bool) (s : State) : Out :=
  laneBf16 (.fmul2 d a b sw) d (fun v m e k => fMulPre .bf16 m (v.bf 0 e k) (v.bf 1 e k)) s
def execFfma2 (d : Name) (a b : Src) (sw : Bool) (s : State) : Out :=
  laneBf16 (.ffma2 d a b sw) d (fun v m e k => fFmaPre .bf16 m (v.bf 1 e k) (v.bf 2 e k) (v.bf 0 e k)) s
/-- R294: the exact sum of two products, rounded once to FP32. -/
def execFdot2 (d : Name) (a b : Src) (sw : Bool) (s : State) : Out :=
  laneF32 (.fdot2 d a b sw) d (fun v m k =>
    sumTerms .f32 m [(v.bf 0 0 k).mulTerm (v.bf 1 0 k), (v.bf 0 1 k).mulTerm (v.bf 1 1 k)]) s

def execFcmp (a : Src) (b : Name) (p : BitVec 3) (c : BitVec 5) (sw : Bool) (s : State) : Out :=
  compare (.fcmp a b p c sw) p (fun v k => fCmp c.toNat ((v.op 0).at32 k).toNat ((v.op 1).at32 k).toNat) s

def execFun (d : Name) (a : Src) (f : BitVec 5) (m : BitVec 3) (sw : Bool) (s : State) : Out :=
  laneFlags (.funI d a f m sw) d .one (fun v k =>
    let x := ((v.op 0).at32 k).toNat
    if m = 0 then
      let r := funF32 f.toNat x
      (BitVec.ofNat 128 r.1, r.2)
    else
      let r0 := funBf16 f.toNat (x % 2 ^ 16)
      let r1 := funBf16 f.toNat (x / 2 ^ 16)
      (BitVec.ofNat 128 (r0.1 + r1.1 * 2 ^ 16), r0.2 ||| r1.2)) s

/-! ## Conversions (R276, R277) -/

def execCvtF2bf (d : Name) (a : Src) (m : BitVec 3) (sw : Bool) (s : State) : Out :=
  let i := Instr.cvtF2bf d a m sw
  laneFlags i d .one (fun v k =>
    let mode := cvtMode v.p.frm m
    let pre := fun j => fromF32Pre .bf16 (frmNsat v.p.frm) mode ((v.op 0).at32 j).toNat
    let r16 := if mode = .sr then v.r16 i (fun j => (pre j).discard .bf16) k 0 else 0
    let r := fromF32Round .bf16 (frmNsat v.p.frm) mode r16 (pre k)
    (BitVec.ofNat 128 r.1, r.2)) s

def execCvtBf2f (d : Name) (a : Src) (m : Bool) (sw : Bool) (s : State) : Out :=
  lane1 (.cvtBf2f d a m sw) d (fun x => BitVec.ofNat 32 (toF32 .bf16 (if m then x.toNat / 2 ^ 16 else x.toNat % 2 ^ 16))) s

/-- F2I, F2N and F2I64: round, then the limits. -/
def cvtToInt (i : Instr) (d : Name) (w : Width) (m : BitVec 3) (lo hi : Int) (s : State) : Out :=
  laneFlags i d w (fun v k =>
    let mode := cvtMode v.p.frm m
    let r16 := if mode = .sr then v.r16 i (fun j => intDiscard ((v.op 0).at32 j).toNat) k 0 else 0
    let r := f32ToInt lo hi mode r16 ((v.op 0).at32 k).toNat
    ((BitVec.ofInt 64 r.1).setWidth 128, r.2)) s

/-- I2F, N2F and I642F. -/
def cvtFromInt (i : Instr) (d : Name) (m : BitVec 3) (f : QWord → Int) (s : State) : Out :=
  laneFlags i d .one (fun v k =>
    let mode := cvtMode v.p.frm m
    let pre := fun j => intPre (f ((v.op 0).at j))
    let r16 := if mode = .sr then v.r16 i (fun j => (pre j).discard .f32) k 0 else 0
    let r := (pre k).round .f32 mode r16 (overflow .f32 mode)
    (BitVec.ofNat 128 r.1, r.2)) s

def execCvtF2i (d : Name) (a : Src) (m : BitVec 3) (sw : Bool) (s : State) : Out :=
  cvtToInt (.cvtF2i d a m sw) d .one m (-2 ^ 31) (2 ^ 31 - 1) s
def execCvtF2n (d : Name) (a : Src) (m : BitVec 3) (sw : Bool) (s : State) : Out :=
  cvtToInt (.cvtF2n d a m sw) d .one m 0 (2 ^ 32 - 1) s
def execCvtF2i64 (d : Name) (a : Src) (m : BitVec 3) (sw : Bool) (s : State) : Out :=
  cvtToInt (.cvtF2i64 d a m sw) d .pair m (-2 ^ 63) (2 ^ 63 - 1) s
def execCvtI2f (d : Name) (a : Src) (m : BitVec 3) (sw : Bool) (s : State) : Out :=
  cvtFromInt (.cvtI2f d a m sw) d m (fun x => (x.extractLsb' 0 32).toInt) s
def execCvtN2f (d : Name) (a : Src) (m : BitVec 3) (sw : Bool) (s : State) : Out :=
  cvtFromInt (.cvtN2f d a m sw) d m (fun x => (x.extractLsb' 0 32).toNat) s
def execCvtI642f (d : Name) (a : Src) (m : BitVec 3) (sw : Bool) (s : State) : Out :=
  cvtFromInt (.cvtI642f d a m sw) d m (fun x => (x.extractLsb' 0 64).toInt) s

/-! ## 16-bit forms -/

def execFaddH (d b : Short) (sw : Bool) (s : State) : Out :=
  laneF32 (.faddH d b sw) d.name (fun v m k => fAddPre .f32 m (v.f32 0 k) (v.f32 1 k)) s
def execFmulH (d b : Short) (sw : Bool) (s : State) : Out :=
  laneF32 (.fmulH d b sw) d.name (fun v m k => fMulPre .f32 m (v.f32 0 k) (v.f32 1 k)) s
/-- R38: lx times b plus d, lx being the last operand read. -/
def execFfmaH (d b : Short) (sw : Bool) (s : State) : Out :=
  laneF32 (.ffmaH d b sw) d.name (fun v m k => fFmaPre .f32 m (v.f32 2 k) (v.f32 1 k) (v.f32 0 k)) s
def execFmaxH (d b : Short) (sw : Bool) (s : State) : Out :=
  lane2 (.fmaxH d b sw) d.name (fun x y => BitVec.ofNat 32 (fMinMax true x.toNat y.toNat)) s

end Sys2Proof.Machine
end

