-- ==== Sys2Proof/Machine/Aes.lean ====
section
/-! DEFINITION. AES-256-XTS, which R63 names for the memory controllers. The cipher itself is FIPS 197 and IEEE 1619, outside the
manual (PRESUMED, log 5). Bytes are numbers below 256, blocks lists of 16 of them, keys lists of 32. -/

namespace Sys2Proof.Machine

/-! ## The field GF(2^8) -/

def gfDouble (a : Nat) : Nat := if 128 ≤ a then (2 * a) ^^^ 0x11B else 2 * a

def gfMulLoop : Nat → Nat → Nat → Nat
  | 0, _, _ => 0
  | n + 1, a, b => (if b % 2 = 1 then a else 0) ^^^ gfMulLoop n (gfDouble a) (b / 2)

def gfMul (a b : Nat) : Nat := gfMulLoop 8 a b

/-- The inverse: the power 254. -/
def gfInv (a : Nat) : Nat :=
  let a2 := gfMul a a
  let a3 := gfMul a2 a
  let a12 := gfMul (gfMul a3 a3) (gfMul a3 a3)
  let a15 := gfMul a12 a3
  let sq (x : Nat) : Nat := gfMul x x
  gfMul (sq (sq (sq (sq a15)))) (gfMul a12 a2)

def rotl8 (a n : Nat) : Nat := (a * 2 ^ n) % 256 + a / 2 ^ (8 - n)

def aesSbox (a : Nat) : Nat :=
  let b := gfInv a
  b ^^^ rotl8 b 1 ^^^ rotl8 b 2 ^^^ rotl8 b 3 ^^^ rotl8 b 4 ^^^ 0x63

def aesInvSbox (a : Nat) : Nat := gfInv (rotl8 a 1 ^^^ rotl8 a 3 ^^^ rotl8 a 6 ^^^ 0x05)

/-! ## The rounds -/

def xorBytes (a b : List Nat) : List Nat := List.zipWith (· ^^^ ·) a b

/-- The next word of the key schedule, the `i`-th, from the words so far, last first. -/
def keyWord (i : Nat) (ws : List (List Nat)) : List Nat :=
  let prev := ws.headD []
  let rot := prev.tail ++ prev.take 1
  let t :=
    if i % 8 = 0 then xorBytes (rot.map aesSbox) [2 ^ (i / 8 - 1), 0, 0, 0]
    else if i % 8 = 4 then prev.map aesSbox
    else prev
  xorBytes t (ws.getD 7 [])

def keyWords : Nat → List (List Nat) → List (List Nat)
  | 0, ws => ws
  | n + 1, ws => keyWords n (keyWord ws.length ws :: ws)

/-- The 15 round keys of a 32-byte key. -/
def roundKeys (key : List Nat) : List (List Nat) :=
  let first := ((List.range 8).map fun i => (List.range 4).map fun j => key.getD (4 * i + j) 0).reverse
  let bytes := (keyWords 52 first).reverse.flatten
  (List.range 15).map fun r => (List.range 16).map fun j => bytes.getD (16 * r + j) 0

/-- Row `r` of the state turned by `k` columns; byte 4c + r of a block is row r of column c. -/
def shiftBy (f : Nat → Nat) (b : List Nat) : List Nat :=
  (List.range 16).map fun i => b.getD (4 * ((i / 4 + f (i % 4)) % 4) + i % 4) 0

def mixWith (m : List Nat) (b : List Nat) : List Nat :=
  (List.range 16).map fun i => (List.range 4).foldl (fun x j => x ^^^ gfMul (m.getD ((j + 4 - i % 4) % 4) 0) (b.getD (i / 4 * 4 + j) 0)) 0

def aesEncrypt (key block : List Nat) : List Nat :=
  let ks := roundKeys key
  let start := xorBytes block (ks.getD 0 [])
  let last := (List.range 13).foldl (fun b r =>
    xorBytes (mixWith [2, 3, 1, 1] (shiftBy (fun r => r) (b.map aesSbox))) (ks.getD (r + 1) [])) start
  xorBytes (shiftBy (fun r => r) (last.map aesSbox)) (ks.getD 14 [])

def aesDecrypt (key block : List Nat) : List Nat :=
  let ks := roundKeys key
  let undo (b : List Nat) : List Nat := (shiftBy (fun r => 4 - r) b).map aesInvSbox
  let start := undo (xorBytes block (ks.getD 14 []))
  let last := (List.range 13).foldl (fun b r => undo (mixWith [14, 11, 13, 9] (xorBytes b (ks.getD (13 - r) [])))) start
  xorBytes last (ks.getD 0 [])

/-! ## XTS -/

/-- Multiply a tweak by the primitive element of GF(2^128). -/
def xtsDouble (t : List Nat) : List Nat :=
  let carry (i : Nat) : Nat := t.getD i 0 / 128
  (List.range 16).map fun i => (2 * t.getD i 0) % 256 ^^^ (if i = 0 then (if carry 15 = 1 then 0x87 else 0) else carry (i - 1))

/-- A 32-byte data unit under the key pair `k1`, `k2`; `unit` is its number. -/
def xtsUnit (f : List Nat → List Nat → List Nat) (k1 k2 : List Nat) (unit : Nat) (data : List Nat) : List Nat :=
  let t0 := aesEncrypt k2 ((List.range 16).map fun i => unit / 2 ^ (8 * i) % 256)
  let t1 := xtsDouble t0
  xorBytes (f k1 (xorBytes (data.take 16) t0)) t0 ++ xorBytes (f k1 (xorBytes (data.drop 16) t1)) t1

def xtsEncrypt (k1 k2 : List Nat) (unit : Nat) (data : List Nat) : List Nat := xtsUnit aesEncrypt k1 k2 unit data
def xtsDecrypt (k1 k2 : List Nat) (unit : Nat) (data : List Nat) : List Nat := xtsUnit aesDecrypt k1 k2 unit data

end Sys2Proof.Machine
end

