-- ==== Sys2Proof/Machine/Memory.lean ====
section
/-! DEFINITION. Memory by location: bytes, little-endian words, encryption keys per sector (R63), homes and grains (R51 to
R54, R66), and the operations of the atomics (R180). -/

namespace Sys2Proof.Machine

/-! ## Bytes -/

/-- The byte at a location. -/
def Memory.read : Memory → Nat → Byte
  | [], _ => 0
  | (b, x) :: t, a => if b = a then x else if a < b then 0 else Memory.read t a

/-- Write one byte; the canonical form is kept. -/
def Memory.write : Memory → Nat → Byte → Memory
  | [], a, v => if v = 0 then [] else [(a, v)]
  | (b, x) :: t, a, v =>
    if b < a then (b, x) :: Memory.write t a v
    else if b = a then (if v = 0 then t else (a, v) :: t)
    else if v = 0 then (b, x) :: t else (a, v) :: (b, x) :: t

/-- The canonical form: locations strictly rising, no byte 0 listed. -/
def Memory.wf : Memory → Bool
  | [] => true
  | (a, x) :: t => decide (x ≠ 0) && (match t with
      | [] => true
      | (b, _) :: _ => decide (a < b)) && Memory.wf t

/-- Write consecutive bytes. -/
def Memory.writeBytes : Memory → Nat → List Byte → Memory
  | m, _, [] => m
  | m, a, v :: vs => Memory.writeBytes (m.write a v) (a + 1) vs

/-- The bytes of a value, lowest first (R4). -/
def bytesOf (n : Nat) (x : Nat) : List Byte := (List.range n).map fun i => BitVec.ofNat 8 (x / 2 ^ (8 * i))

/-- The value of little-endian bytes (R4). -/
def valueOf : List Byte → Nat
  | [] => 0
  | b :: t => b.toNat + 256 * valueOf t

/-! ## Locations (R51 to R54) -/

def locOf (tier off : Nat) : Nat := tier * 2 ^ 60 + off
def tierOf (loc : Nat) : Nat := loc / 2 ^ 60
def offOf (loc : Nat) : Nat := loc % 2 ^ 60
def bitsAt (a lo n : Nat) : Nat := a / 2 ^ lo % 2 ^ n

/-- The global slice number of a location's home (R53, R54). -/
def homeSlice (loc : Nat) : Nat :=
  let a := offOf loc
  if tierOf loc = 0 then 32 * bitsAt a 36 2 + (bitsAt a 12 5 ^^^ bitsAt a 17 5)
  else 32 * (bitsAt a 12 2 ^^^ bitsAt a 30 2) + (bitsAt a 14 5 ^^^ bitsAt a 19 5)

def homeDie (loc : Nat) : Nat := homeSlice loc / 32
def coreDie (c : Nat) : Nat := c / 32
/-- The RDC slice of die d that serves a location (R117). -/
def rdcSlice (d loc : Nat) : Nat := 8 * d + (bitsAt (offOf loc) 9 3 ^^^ bitsAt (offOf loc) 12 3)

def blockOf (loc : Nat) : Nat := loc / 512 * 512
def granuleOf (loc : Nat) : Nat := loc / 4096 * 4096

/-- The channel of a far-memory offset (R54). -/
def farChannel (loc : Nat) : Nat := bitsAt (offOf loc) 9 32 % 48

/-- The grain a home uses for an access (R66, R119, R122): the one recorded with the block's tag or its directory entries, else the
access's own. -/
def grainCode (s : State) (loc : Nat) (g : BitVec 2) : BitVec 2 :=
  match s.tags.get? (blockOf loc) with
  | some t => t.grain
  | none => match List.find? (fun (x : Nat × DirEntry) => decide (blockOf x.1 = blockOf loc)) s.dir with
    | some x => x.2.gcode
    | none => g

def grainBytes (loc : Nat) (g : BitVec 2) : Nat :=
  if g = 2 then 512 else if g = 1 then 128 else if tierOf loc = 2 then 64 else 32

def grainBase (s : State) (loc : Nat) (g : BitVec 2) : Nat :=
  let n := grainBytes loc (grainCode s loc g)
  loc / n * n

/-! ## Keys (R63) -/

/-- The plaintext stored in a sector. -/
def sectorPlain (m : Memory) (sec : Nat) : List Byte := (List.range 32).map fun i => m.read (32 * sec + i)

/-- A key as it is held now: its number, and how often it has been loaded. -/
def State.keyId (s : State) (key : Nat) : Nat := key + 64 * s.tenantKeys.getD key 0

/-- The halves of a key. -/
def keyHalf (id half : Nat) : List Nat :=
  (List.range 32).map fun i => ((Config.keyMaterial (id % 64) (id / 64)).extractLsb' (256 * half + 8 * i) 8).toNat

/-- What a sector that was written under one key reads as under another (R63): the memory controller deciphers with the one what it
has enciphered with the other. The tweak is the location offset divided by 32. -/
def otherKeySector (old new sec : Nat) (plain : List Byte) : List Byte :=
  let unit := offOf (32 * sec) / 32
  (xtsDecrypt (keyHalf new 0) (keyHalf new 1) unit
    (xtsEncrypt (keyHalf old 0) (keyHalf old 1) unit (plain.map (·.toNat)))).map (BitVec.ofNat 8)

/-- What a byte reads as under a key: the stored byte, or the byte of the other key's decryption (R63). -/
def State.readByte (s : State) (key loc : Nat) : Byte :=
  if 2 ≤ tierOf loc then s.mem.read loc
  else match s.keyed.get? (loc / 32) with
    | none => s.mem.read loc
    | some k =>
      if k = s.keyId key then s.mem.read loc
      else (otherKeySector k (s.keyId key) (loc / 32) (sectorPlain s.mem (loc / 32))).getD (loc % 32) 0

/-- The value of `n` bytes at a location. -/
def State.readLoc (s : State) (key loc n : Nat) : Nat := valueOf ((List.range n).map fun i => s.readByte key (loc + i))

/-- Bring a sector under a key: its bytes become what they read as under it (R63). -/
def State.rekey (s : State) (key sec : Nat) : State :=
  match s.keyed.get? sec with
  | some k =>
    if k = s.keyId key then s
    else
      let bytes := (List.range 32).map fun i => s.readByte key (32 * sec + i)
      { s with mem := s.mem.writeBytes (32 * sec) bytes, keyed := s.keyed.set sec (s.keyId key) }
  | none => { s with keyed := s.keyed.set sec (s.keyId key) }

/-- Write bytes at a location under a key. An access never crosses a sector boundary, being aligned and at most 32 bytes;
longer writes go sector by sector. -/
def State.putBytes (s : State) (key loc : Nat) (bytes : List Byte) : State :=
  let secs := (List.range (bytes.length / 32 + 2)).map (fun i => loc / 32 + i) |>.filter fun sec => decide (32 * sec < loc + bytes.length)
  let s := if 2 ≤ tierOf loc || bytes.isEmpty then s else secs.foldl (fun s sec => s.rekey key sec) s
  { s with mem := s.mem.writeBytes loc bytes }

/-! ## Atomics (R180) -/

def bf2 (f : Nat → Nat → Nat) (x y : Word) : Word :=
  BitVec.ofNat 32 (f (x.toNat % 2 ^ 16) (y.toNat % 2 ^ 16) + f (x.toNat / 2 ^ 16) (y.toNat / 2 ^ 16) * 2 ^ 16)

/-- The new memory value of an atomic; `c` is the compare value of CAS. -/
def atomNew (op : Nat) (m a c : DWord) : DWord :=
  let w (f : Word → Word → Word) : DWord := (f (lo32 m) (lo32 a)).setWidth 64
  match op with
  | 0 => w (· + ·)
  | 1 => m + a
  | 2 => w fun x y => BitVec.ofNat 32 (fAddRne .f32 x.toNat y.toNat)
  | 3 => w (bf2 (fAddRne .bf16))
  | 4 => w minS
  | 5 => w minU
  | 6 => w maxS
  | 7 => w maxU
  | 8 => w (· &&& ·)
  | 9 => w (· ||| ·)
  | 10 => w (· ^^^ ·)
  | 11 => w fun _ y => y
  | 12 => a
  | 13 => if lo32 m = lo32 c then (lo32 a).setWidth 64 else m
  | _ => if m = c then a else m

/-- Bytes of memory an atomic works on (R172). -/
def atomSize (op : Nat) : Nat := if op = 1 ∨ op = 12 ∨ op = 14 then 8 else 4

/-- The identity of an update-only operation (R133). -/
def redIdent (op : Nat) : DWord :=
  match op with
  | 2 => 0x80000000
  | 3 => 0x80008000
  | 4 => 0x7FFFFFFF
  | 5 => 0xFFFFFFFF
  | 6 => 0x80000000
  | 8 => 0xFFFFFFFF
  | _ => 0

end Sys2Proof.Machine
end

