-- ==== Sys2Proof/Machine/Mesh.lean ====
section
/-! DEFINITION. The base-die mesh: endpoints and identifiers (R91, R92), the three networks (R94), the crossing FIFOs (R93), virtual
channels and credits (R99 to R101), routes and transit times (R95), the slot wheel (R103, R104, R513), and the layouts of the
flits (R96 to R98, R126, R146). A message that `State.send` has appended to `State.net` waits there until its source may send it;
then it is a flit of `State.flits`. -/

namespace Sys2Proof.Machine

/-- Mesh cycles since reset: 24 to the tick (R14). -/
def State.mesh (s : State) : Nat := s.tick * 24 + min 23 ((s.cycle - s.tickAt) * 24 / (s.clock / 100))

/-- The first mesh cycle that begins no earlier than `k` arithmetic cycles from now (R14). -/
def State.meshBy (s : State) (k : Nat) : Nat := s.tick * 24 + ((s.cycle + k - s.tickAt) * 24 + s.clock / 100 - 1) / (s.clock / 100)

/-- Service cycles since reset: 20 to the tick (R14). -/
def State.service (s : State) : Nat := s.tick * 20 + min 19 ((s.cycle - s.tickAt) * 20 / (s.clock / 100))

/-! ## Endpoints (R3, R91, R92) -/

/-- The module number, 8 × row + column, of the router with local index `i` on die `d` (R3, R91). -/
def routerAt (d i : Nat) : Nat := 8 * (4 * (d / 2) + i / 4) + 4 * (d % 2) + i % 4

/-- The die of a router and its local index. -/
def dieOfRouter (m : Nat) : Nat := 2 * (m / 8 / 4) + m % 8 / 4
def localIndex (m : Nat) : Nat := 4 * (m / 8 % 4) + m % 4

/-- The router at which the service die's port of a die stands (R91). -/
def serviceRouter (d : Nat) : Nat := routerAt d ([15, 12, 3, 0].getD d 0)

/-- The core at endpoint port 0 or 1 of a router (R3, R91). -/
def routerCore (m port : Nat) : Nat := 32 * dieOfRouter m + 2 * localIndex m + port

/-- The router of a core and its port. -/
def coreRouter (c : Nat) : Nat × Nat := (routerAt (c / 32) (c % 32 / 2), c % 2)

/-- The router and the port of an endpoint (R91); none for a number the module does not have. -/
def endpointPort : Endpoint → Option (Nat × Nat)
  | .core c => if c < 128 then some (coreRouter c) else none
  | .slice s => if s < 128 then some ((coreRouter s).1, 2 + s % 2) else none
  | .rdc r => if r < 32 then some (routerAt (r / 8) (2 * (r % 8)), 4) else none
  | .service d => if d < 4 then some (serviceRouter d, 5) else none
  | .router m => if m < 64 then some (m, 6) else none

/-- The endpoint at a port of a router, where one is present (R91): port 7 never is. -/
def endpointAt (m port : Nat) : Option Endpoint :=
  let d := dieOfRouter m
  let i := localIndex m
  match port with
  | 0 | 1 => some (.core (routerCore m port))
  | 2 | 3 => some (.slice (32 * d + 2 * i + (port - 2)))
  | 4 => if i % 2 = 0 then some (.rdc (8 * d + i / 2)) else none
  | 5 => if serviceRouter d = m then some (.service d) else none
  | 6 => some (.router m)
  | _ => none

/-- The 9-bit endpoint identifier (R92): module column, module row, port. -/
def endpointId (e : Endpoint) : Nat :=
  match endpointPort e with
  | some (m, p) => m % 8 * 64 + m / 8 * 8 + p
  | none => 0

/-! ## Networks (R94) -/

inductive Network where
  | req | data | probe
deriving DecidableEq, Repr

/-- The header of a flit; other instructions and events are none. -/
def flitHdr? (i : Instr) : Option Hdr :=
  match i with
  | .rd f | .rdo f | .upg f | .arm f | .renew f => some f.hdr
  | .atsreq f => some f.hdr
  | .steal f => some f.hdr
  | .rdata f | .wr f | .wb f => some f.hdr
  | .atomq f | .atomr f => some f.hdr
  | .redp f => some f.hdr
  | .tcb f => some f.hdr
  | .nup f | .ndown f => some f.hdr
  | .atsrsp f => some f.hdr
  | .inv f | .down f | .drain f | .wake f => some f.hdr
  | .drainack f => some f.hdr
  | .ack f => some f.hdr
  | .fbwake f => some f.hdr
  | .tlbinv f => some f.hdr
  | .answer f | .nflush f => some f.hdr
  | _ => none

/-- The network that carries a flit (R94). -/
def networkOf (i : Instr) : Network :=
  match i with
  | .rd _ | .rdo _ | .upg _ | .arm _ | .renew _ | .atsreq _ | .steal _ => .req
  | .rdata _ | .wr _ | .wb _ | .atomq _ | .atomr _ | .redp _ | .tcb _ | .nup _ | .ndown _ | .atsrsp _ => .data
  | _ => .probe

/-- Bits of a flit of each network (R94). -/
def Network.bits : Network → Nat
  | .req => 192
  | .data => 128 + 8 * 512
  | .probe => 96

/-- OP of a flit (R96 to R98). -/
def flitOp (i : Instr) : Nat :=
  match i with
  | .rd _ => 0 | .rdo _ => 1 | .upg _ => 2 | .arm _ => 3 | .renew _ => 4 | .atsreq _ => 5 | .steal _ => 6
  | .rdata _ => 0 | .wr _ => 1 | .wb _ => 2 | .atomq _ => 3 | .atomr _ => 4 | .redp _ => 5 | .tcb _ => 6 | .nup _ => 7
  | .ndown _ => 8 | .atsrsp _ => 9
  | .inv _ => 0 | .down _ => 1 | .drain _ => 2 | .drainack _ => 3 | .ack _ => 4 | .wake _ => 5 | .fbwake _ => 6 | .tlbinv _ => 7
  | .answer _ => 8 | .nflush _ => 9
  | _ => 63

/-! ## The wheel (R102 to R104, R513) -/

/-- Bits of tenants that are isolated (R104). -/
def State.iso (s : State) (t : Nat) : Bool := (s.wheel.getD 4 0).getLsbD t

/-- The class of slot `n` of the wheel. -/
def wheelClass (s : State) (n : Nat) : Nat := fieldOf (s.wheel.getD (n / 16) 0) (4 * (n % 16)) 4

/-- Whether class `c` is an isolated tenant. -/
def isolated (s : State) (c : Nat) : Bool := decide (c < 8) && s.iso c

/-- Whether class `c` may use a slot of class `k` when that class has nothing ready (R103). -/
def borrows (s : State) (c k : Nat) : Bool := !isolated s c && (decide (11 ≤ k) || !isolated s k)

/-- Whether a class has a slot that R103 lets it use: its own, or, unless it is isolated, one whose class is not isolated. -/
def wheelAdmits (s : State) (c : Nat) : Bool :=
  (List.range 64).any fun n => decide (wheelClass s n = c ∧ c ≤ 10) || borrows s c (wheelClass s n)

/-- The older of two: by arrival, then by input in the order W, E, N, S, ports 0 to 6 (R103). -/
def earlier (a b : Nat × Nat × Nat) : Bool := decide (a.1 < b.1 ∨ (a.1 = b.1 ∧ a.2.1 < b.2.1))

/-- What an output, or a slice's tag check (R121), takes in mesh cycle `n` among candidates, each with its class, its arrival, its
input and its index: the oldest of the slot's class, else, unless that class is isolated, the oldest of a class that is not. -/
def wheelPick (s : State) (n : Nat) (l : List (Nat × Nat × Nat × Nat)) : Option Nat :=
  let oldest (l : List (Nat × Nat × Nat × Nat)) : Option Nat :=
    (l.foldl (fun (a : Option (Nat × Nat × Nat)) x => match a with
      | none => some x.2
      | some y => if earlier x.2 y then some x.2 else some y) none).map (·.2.2)
  let k := wheelClass s (n % 64)
  match oldest (l.filter fun x => decide (x.1 = k ∧ k ≤ 10)) with
  | some i => some i
  | none => if isolated s k then none else oldest (l.filter fun x => !isolated s x.1)

/-! ## Routes (R94, R95) -/

/-- The output a flit takes at router `m` toward a router and port: 0 W, 1 E, 2 N, 3 S, 4 + p the endpoint port p. REQ and DATA go
along X first, PROBE along Y first. -/
def outputOf (net : Network) (m : Nat) (dst : Nat × Nat) : Nat :=
  let x := m % 8
  let y := m / 8
  let x' := dst.1 % 8
  let y' := dst.1 / 8
  let hx : Option Nat := if x' < x then some 0 else if x < x' then some 1 else none
  let hy : Option Nat := if y' < y then some 2 else if y < y' then some 3 else none
  let first := if net = .probe then hy else hx
  let second := if net = .probe then hx else hy
  match first, second with
  | some o, _ => o
  | none, some o => o
  | none, none => 4 + dst.2

/-- The router behind a link output, the input it arrives at, and the cycles of the link: 1, and 4 more at a die edge. -/
def linkOf (m out : Nat) : Nat × Nat × Nat :=
  let x := m % 8
  let y := m / 8
  match out with
  | 0 => (m - 1, 1, if x = 4 then 5 else 1)
  | 1 => (m + 1, 0, if x = 3 then 5 else 1)
  | 2 => (m - 8, 3, if y = 4 then 5 else 1)
  | _ => (m + 8, 2, if y = 3 then 5 else 1)

/-- Links between two routers on the route, and those at die edges. -/
def hopsOf (a b : Nat) : Nat × Nat :=
  let d (u v : Nat) : Nat := (u - v) + (v - u)
  (d (a % 8) (b % 8) + d (a / 8) (b / 8),
   (if a % 8 / 4 = b % 8 / 4 then 0 else 1) + (if a / 8 / 4 = b / 8 / 4 then 0 else 1))

/-- Mesh cycles of a flit that waits for no slot and no credit (R95). -/
def transit (src dst : Endpoint) : Nat :=
  match endpointPort src, endpointPort dst with
  | some a, some b =>
    let (h, c) := hopsOf a.1 b.1
    (if a.2 = 6 then 0 else 3) + 2 * (h + 1) + h + 4 * c + (if b.2 = 6 then 0 else 3)
  | _, _ => 0

/-! ## Buffers and credits (R93, R99 to R101) -/

def MeshFlit.cls (f : MeshFlit) : Nat := ((flitHdr? f.instr).map (·.cls)).getD 0
def MeshFlit.src (f : MeshFlit) : Option Endpoint := (flitHdr? f.instr).map (·.src)
def MeshFlit.dst (f : MeshFlit) : Option Endpoint := (flitHdr? f.instr).map (·.dst)

/-- Flits in the virtual channel of a class at an input of a router, or on the link to it (R99). -/
def channelUse (l : List MeshFlit) (net : Network) (m inp cls : Nat) : Nat :=
  (l.filter fun f => decide (f.place = .router m inp) && decide (networkOf f.instr = net ∧ f.cls = cls)).length

/-- Flits of a network in the crossing FIFO of an endpoint, toward the router or from it (R93). -/
def fifoUse (l : List MeshFlit) (net : Network) (e : Endpoint) (outward : Bool) : Nat :=
  (l.filter fun f => decide (networkOf f.instr = net) &&
    (if outward then decide (f.place = .source ∧ f.src = some e) else decide (f.place = .sink ∧ f.dst = some e))).length

/-- Probes of a source that their sinks have not taken yet (R101). -/
def probesOut (l : List MeshFlit) (e : Endpoint) : List MeshFlit :=
  l.filter fun f => decide (networkOf f.instr = .probe ∧ f.src = some e)

/-- Whether a flit is store, write-back, atomic or partial data of a core toward a home slice, which takes a write credit (R100):
core and slice. -/
def creditOf (i : Instr) : Option (Nat × Nat) :=
  match i with
  | .wr _ | .wb _ | .atomq _ | .redp _ =>
    match flitHdr? i with
    | some ⟨_, _, _, .core c, .slice s⟩ => some (c, s)
    | _ => none
  | _ => none

/-- Whether a flit answers a probe: it goes in the mesh cycle of its ACK (R126) and so waits for no credit, although it takes one
(DEDUCED, log 74). -/
def answersProbe (i : Instr) : Bool :=
  match i with
  | .wb _ | .redp _ => true
  | _ => false

/-- Give a probe the lowest answer slot that no outstanding probe of its source toward its sink holds (R126, R146). -/
def withAnswerSlot (l : List MeshFlit) (i : Instr) : Instr :=
  let used (src dst : Endpoint) (n : Nat) : Bool := l.any fun f => match f.instr with
    | .inv p | .down p | .drain p => decide (p.hdr.src = src ∧ p.hdr.dst = dst ∧ p.aslot = n)
    | _ => false
  let pick (p : ProbeFlit) : ProbeFlit := { p with aslot := (leastBelow 4 fun n => !used p.hdr.src p.hdr.dst n).getD 0 }
  match i with
  | .inv p => .inv (pick p)
  | .down p => .down (pick p)
  | .drain p => .drain (pick p)
  | i => i

/-- Credits of a core that a home slice holds (R100). -/
def creditsUsed (s : State) (core slice : Nat) : Nat :=
  match s.cores.get? core with
  | some m => m.credits.getD slice 0
  | none => 0

/-- Whether a flit is the data of an overlapped write that a drain of its core waits for: an overlapped access never waits on a drain
(R152), so it does not wait for a credit that a write held up by the drain has (DEDUCED, log 74). -/
def underDrain (s : State) (core : Nat) (i : Instr) : Bool :=
  let held (loc : Nat) : Bool := match s.cores.get? core with
    | some m => m.drains.any fun d => d.loc = granuleOf loc
    | none => false
  match i with
  | .wr f => !f.strict && held f.loc
  | .atomq f => !f.strict && held f.loc
  | _ => false

/-- Whether an endpoint is fenced (R137). -/
def endpointFenced (s : State) : Endpoint → Bool
  | .core c => s.fenced.contains (.core c)
  | .slice n => s.fenced.contains (.slice n)
  | .rdc r => s.fenced.contains (.rdc r)
  | .router m => s.fenced.contains (.router m)
  | .service _ => false

/-- Whether a source may put a flit into its FIFO now: FIFO room, at most four probes toward a sink and 64 in all, and a write
credit (R93, R100, R101). -/
def mayInject (s : State) (i : Instr) (h : Hdr) : Bool :=
  let net := networkOf i
  let port := ((endpointPort h.src).map (·.2)).getD 7
  let room := if port = 6 then decide (channelUse s.flits net ((endpointPort h.src).map (·.1) |>.getD 0) 10 h.cls < 2)
    else decide (fifoUse s.flits net h.src true < 16)
  let out := probesOut s.flits h.src
  room && (decide (net ≠ .probe) || (decide (out.length < 64) && decide ((out.filter fun f => f.dst = some h.dst).length < 4))) &&
    (match creditOf i with
      | some (c, sl) => answersProbe i || underDrain s c i || decide (creditsUsed s c sl < 2)
      | none => true)

/-- Whether a message is a flit that has to cross the mesh: both its ends have a port. -/
def crosses (i : Instr) : Bool :=
  match flitHdr? i with
  | some h => (endpointPort h.src).isSome && (endpointPort h.dst).isSome
  | none => false

/-- Put a flit into its source's FIFO: it reaches the router 3 mesh cycles later, at once from port 6 (R93). -/
def injectFlit (s : State) (i : Instr) (h : Hdr) : State :=
  let i := withAnswerSlot s.flits i
  let f : MeshFlit := match endpointPort h.src with
    | some (m, 6) => ⟨i, .router m 10, s.mesh⟩
    | _ => ⟨i, .source, s.mesh + 3⟩
  let s := match creditOf i with
    | some (c, sl) => { s with cores := s.cores.modify c fun m => { m with credits := m.credits.set sl (m.credits.getD sl 0 + 1) } }
    | none => s
  { s with flits := s.flits ++ [f] }

/-- Send what may be sent, oldest first: a flit of a fenced source is dropped, one to a fenced sink discarded (R137). -/
def injectAll (s : State) : State :=
  s.net.foldl (fun s i => match flitHdr? i with
    | none => { s with net := s.net ++ [i] }
    | some h =>
      if !crosses i then { s with net := s.net ++ [i] }
      else if endpointFenced s h.src || endpointFenced s h.dst then s
      else if mayInject s i h then injectFlit s i h
      else { s with net := s.net ++ [i] }) { s with net := [] }

/-- Whether some message waits that can leave its source now. -/
def injectDue (s : State) : Bool := s.net.any fun i => match flitHdr? i with
  | none => false
  | some h => crosses i && (endpointFenced s h.src || endpointFenced s h.dst || mayInject s i h)

/-! ## One mesh cycle (R95, R99, R103, R117, R121) -/

/-- Whether a flit is a request that a slice's tag check serves (R117). -/
def isRequest (i : Instr) : Bool :=
  match i with
  | .rd _ | .rdo _ | .upg _ | .arm _ | .renew _ | .wr _ | .atomq _ => true
  | _ => false

def moveFlit (l : List MeshFlit) (k : Nat) (p : MeshPlace) (t : Nat) : List MeshFlit :=
  l.modify k fun f => { f with place := p, since := t }

/-- Flits leave their source FIFOs: one for each endpoint and network, when its channel has room. -/
def leaveSources (n : Nat) (l : List MeshFlit) : List MeshFlit :=
  (l.zipIdx).foldl (fun l x =>
    let f := x.1
    match f.place, (f.src.bind endpointPort) with
    | .source, some (m, p) =>
      let net := networkOf f.instr
      let busy := l.any fun g => decide (g.place = .router m (4 + p) ∧ g.since = n ∧ networkOf g.instr = net)
      if f.since ≤ n ∧ busy = false ∧ channelUse l net m (4 + p) f.cls < 2 then moveFlit l x.2 (.router m (4 + p)) n else l
    | _, _ => l) l

/-- The output of a flit that stands at a router and has passed it, with its network (R95: a router adds 2 mesh cycles). -/
def wantsOut (n : Nat) (f : MeshFlit) : Option (Nat × Network × Nat) :=
  match f.place, f.dst.bind endpointPort with
  | .router m _, some d => if f.since + 2 ≤ n then some (m, networkOf f.instr, outputOf (networkOf f.instr) m d) else none
  | _, _ => none

/-- Where an output leads, and when the flit is there; none when the next buffer is full. -/
def leadsTo (n : Nat) (l : List MeshFlit) (f : MeshFlit) (m out : Nat) : Option (MeshPlace × Nat) :=
  let net := networkOf f.instr
  if out < 4 then
    let (m', inp, t) := linkOf m out
    if channelUse l net m' inp f.cls < 2 then some (.router m' inp, n + t) else none
  else if out = 10 then some (.sink, n)
  else match f.dst with
    | some e => if fifoUse l net e false < 16 then some (.sink, n + 3) else none
    | none => none

/-- One output of one router in mesh cycle `n`. -/
def runOutput (s : State) (n : Nat) (l : List MeshFlit) (key : Nat × Network × Nat) : List MeshFlit :=
  let cands := (l.zipIdx).filterMap fun x =>
    if wantsOut n x.1 = some key ∧ (leadsTo n l x.1 key.1 key.2.2).isSome then
      (match x.1.place with
        | .router _ inp => some (x.1.cls, x.1.since, inp, x.2)
        | _ => none)
    else none
  match wheelPick s n cands with
  | none => l
  | some k => match l[k]? with
    | some f => match leadsTo n l f key.1 key.2.2 with
      | some (p, t) => moveFlit l k p t
      | none => l
    | none => l

/-- The mesh cycle in which a core answers an INV or DOWN (R128): at least 16 after the probe left its FIFO, in a slot of the probe's
class; if the class has no slot, in one that is not an isolated tenant's. -/
def answersIn (s : State) (n : Nat) (f : MeshFlit) : Bool :=
  let slots := (List.range 64).map (wheelClass s)
  decide (f.since + 16 ≤ n) &&
    (if slots.contains f.cls then decide (wheelClass s (n % 64) = f.cls) else !isolated s (wheelClass s (n % 64)))

/-- Whether a sink other than a slice's tag check takes a flit in mesh cycle `n`. -/
def takenIn (s : State) (n : Nat) (f : MeshFlit) : Bool :=
  match f.instr with
  | .inv _ | .down _ => answersIn s n f
  | i => !isRequest i && decide (f.since ≤ n)

/-- Every slice takes one request for its tag check, 4 mesh cycles after it left the FIFO (R117, R121); a core takes a probe when it
answers it (R128), and every other sink takes what has arrived. -/
def takeArrivals (s : State) (n : Nat) (l : List MeshFlit) : List MeshFlit :=
  let slices := (l.filterMap fun f => if f.place = .sink ∧ f.since + 4 ≤ n ∧ isRequest f.instr = true then f.dst else none).eraseDups
  let l := slices.foldl (fun l e =>
    let cands := (l.zipIdx).filterMap fun x =>
      if x.1.place = .sink ∧ x.1.dst = some e ∧ isRequest x.1.instr = true ∧ x.1.since + 4 ≤ n then some (x.1.cls, x.1.since, 0, x.2) else none
    match wheelPick s n cands with
    | some k => moveFlit l k .taken n
    | none => l) l
  l.map fun f => if f.place = .sink ∧ takenIn s n f = true then { f with place := .taken, since := n } else f

/-- What happens on the mesh in cycle `n`. -/
def meshCycle (s : State) (n : Nat) : State :=
  let keys := (s.flits.filterMap (wantsOut n)).eraseDups
  let l := keys.foldl (runOutput s n) s.flits
  { s with flits := takeArrivals s n (leaveSources n l), meshAt := n }

/-- Whether the mesh has something to do: a message to send, or a mesh cycle that has passed with flits on their way. -/
def meshDue (s : State) : Bool := injectDue s || (!s.flits.isEmpty && decide (s.meshAt < s.mesh))

/-- Send what can be sent, then run the next mesh cycle; with no flit on its way the mesh has nothing to catch up with. -/
def meshStep (s : State) : State :=
  let s := if s.flits.isEmpty then { s with meshAt := s.mesh } else s
  let s := injectAll s
  if s.meshAt < s.mesh then meshCycle s (s.meshAt + 1) else s

/-- The oldest flit that its sink has taken, and the state without it. -/
def takeFlit (s : State) : Option (Instr × State) :=
  match s.flits.find? fun f => f.place = .taken with
  | some f => some (f.instr, { s with flits := s.flits.erase f })
  | none => none

/-! ## Layouts (R96 to R98) -/

/-- A word from fields: low bit, width, value. -/
def packFields (l : List (Nat × Nat × Nat)) : Nat := l.foldl (fun n x => n + x.2.2 % 2 ^ x.2.1 * 2 ^ x.1) 0

/-- A party as OWNER codes it (R96): core, kind, and the partition and ply slot of a ply (its slot in the partition counts the skein
slots by eight) or the engine context. Parties outside the cores are never owners of a flit. -/
def ownerCode : Party → Nat
  | .ply k => k / 512 * 2 ^ 10 + k % 4 * 2 ^ 7 + (k / 32 % 16 * 8 + k % 32 / 4)
  | .engine k => k / 16 * 2 ^ 10 + 2 ^ 9 + k % 16
  | _ => 0

/-- TAG, TEN, CLS, SRC and DST, common to REQ and DATA (R96, R97). -/
def commonFields (i : Instr) (h : Hdr) : List (Nat × Nat × Nat) :=
  [(37, 6, flitOp i), (25, 12, h.tag), (22, 3, h.ten), (18, 4, h.cls), (9, 9, endpointId h.src), (0, 9, endpointId h.dst)]

/-- A REQ flit (R96); a field that the opcode leaves unused holds its Reset value. -/
def reqBits (i : Instr) : Option (BitVec 192) :=
  let plain (f : ReqFlit) (sect : Nat) : BitVec 192 := BitVec.ofNat 192 (packFields
    ([(149, 20, f.aux), (132, 17, ownerCode f.owner), (131, 1, f.strict.toNat), (125, 6, f.key), (123, 2, f.grain.toNat),
      (107, 16, sect), (43, 64, f.loc / 512 * 512)] ++ commonFields i f.hdr))
  match i with
  | .rd f | .rdo f | .upg f | .arm f | .renew f => some (plain f f.sect.toNat)
  | .atsreq f => some (BitVec.ofNat 192 (packFields ([(149, 20, f.pasid), (123, 2, 1), (43, 64, f.vpage * 4096)] ++ commonFields i f.hdr)))
  | .steal f => some (BitVec.ofNat 192 (packFields ([(123, 2, 1)] ++ commonFields i f.hdr)))
  | _ => none

def statCode : Stat → Nat
  | .done => 0
  | .memlost => 1
  | .prot => 2

/-- The control part of a DATA flit (R97, R130); `nop` is NOP of a tree by its slot. -/
def dataControl (nop : Nat → Nat) (i : Instr) : Option (BitVec 128) :=
  let word (h : Hdr) (loc stat sect : Nat) : BitVec 128 := BitVec.ofNat 128 (packFields
    ([(64, 64, loc), (59, 5, stat), (43, 16, sect)] ++ commonFields i h))
  let tree (f : TreeFlit) : Nat := packFields [(27, 1, f.flushed.toNat),
    (25, 2, ((List.range 4).find? fun c => decide (8 * 2 ^ c = f.vals.length)).getD 0), (22, 3, nop f.slot), (6, 16, f.round), (0, 6, f.slot)]
  match i with
  | .rdata f =>
    let g := match f.hdr.dst with
      | .rdc _ => f.lease
      | _ => 0
    some (word f.hdr (f.loc / 512 * 512 + g) (statCode f.stat) f.sect.toNat)
  | .wr f | .wb f => some (word f.hdr f.loc (statCode f.stat) f.sect.toNat)
  | .atomq f | .atomr f => some (word f.hdr f.loc (statCode f.stat) 0)
  | .redp f => some (word f.hdr f.loc 0 0)
  | .tcb f => some (word f.hdr 0 0 0)
  | .nup f | .ndown f => some (word f.hdr (tree f) 0 0)
  | .atsrsp f => some (word f.hdr (f.vpage * 4096) 0 0)
  | _ => none

/-- The payload of a DATA flit by byte, where the manual lays it out: memory bytes at their places in the block, and the elements
and the contributor mask of a tree packet (R97). -/
def dataPayload (i : Instr) : List Byte :=
  let block (f : DataFlit) : List Byte := (List.range 512).map fun b =>
    if f.loc % 512 ≤ b then f.bytes.getD (b - f.loc % 512) 0 else 0
  let tree (f : TreeFlit) : List Byte := (List.range 512).map fun b =>
    if b < 256 then (f.vals.getD (b / 4) 0).extractLsb' (8 * (b % 4)) 8
    else if b < 272 then f.mask.extractLsb' (8 * (b - 256)) 8 else 0
  match i with
  | .rdata f | .wr f | .wb f => block f
  | .nup f | .ndown f => tree f
  | _ => List.replicate 512 0

/-- GIDX: the index of a grain in its block (R123, R126). -/
def grainIndex (loc : Nat) (g : BitVec 2) : Nat := loc % 512 / grainBytes loc g

/-- ARG of a PROBE flit (R98, R126, R146). -/
def probeArg (i : Instr) : Nat :=
  match i with
  | .inv f | .down f | .wake f => packFields [(9, 55, f.loc / 512), (7, 2, f.grain.toNat), (3, 4, grainIndex f.loc f.grain), (0, 3, f.aslot)]
  | .drain f => packFields [(12, 52, f.loc / 4096), (0, 3, f.aslot)]
  | .drainack f => packFields [(12, 52, f.loc / 4096), (4, 1, f.wrote.toNat), (3, 1, f.held.toNat), (0, 3, f.aslot)]
  | .ack f => match f.arg with
    | .classAnswer credit cls mix _ => packFields [(0, 12, f.hdr.tag), (12, 1, credit.toNat), (13, 2, cls.toNat), (15, 1, mix.toNat)]
    | .probeAnswer aslot held _ => packFields [(63, 1, 1), (3, 1, held.toNat), (0, 3, aslot)]
  | .fbwake f => packFields [(56, 8, f.ctx), (11, 45, f.vpage), (0, 1, f.refused.toNat)]
  | .tlbinv f => packFields [(56, 8, f.ctx), (11, 45, f.vpage), (5, 6, f.log2Pages)]
  | .answer f | .nflush f => packFields [(6, 16, f.round), (0, 6, f.slot)]
  | _ => 0

/-- A PROBE flit (R98). -/
def probeBits (i : Instr) : Option (BitVec 96) :=
  if networkOf i = .probe then
    (flitHdr? i).map fun h => BitVec.ofNat 96 (packFields
      [(32, 64, probeArg i), (25, 6, flitOp i), (22, 3, h.ten), (18, 4, h.cls), (9, 9, endpointId h.src), (0, 9, endpointId h.dst)])
  else none

end Sys2Proof.Machine
end

