-- ==== Sys2Proof/Machine/Translate.lean ====
section
/-! DEFINITION. Region attributes (R58 to R65), translation, page requests and the fault buffer (R69 to R86). -/

namespace Sys2Proof.Machine

/-! ## Contexts -/

/-- A word of a zeroed descriptor: WAYQ gives every class 24 ways (R59, R60). -/
def descReset (n : Nat) : DWord := if n = 1 then 0xC6318 else 0

def VecSt.zero : VecSt := ⟨false, 0, [], 0, none⟩
def Ctx.zero : Ctx :=
  { desc := (List.range 32).map descReset, rat := [], trapcfg := 0, xvec := 0, watchen := 0, wdog := 10000, detq := 0, uivec := 0, uimask := 0, perms := [],
    rates := [], vectors := [], vecs := List.replicate 64 VecSt.zero, mailPasid := 0, mailStat := 0, nacc := 0,
    treemap := List.replicate 32 none, watchUnits := [], watchSeq := 0, idleTicks := 0, saves := [], serial := [],
    inSerial := false, boost := false, killed := false, killRec := none, killStep := 0, quantum := 0, quantAt := 0, suspended := false }
def State.ctx (s : State) (c : Nat) : Ctx := s.ctxs.getD c Ctx.zero
def Ctx.word (c : Ctx) (n : Nat) : DWord := c.desc.getD n (descReset n)
def Ctx.pasid (c : Ctx) : Nat := fieldOf (c.word 0) 0 20
def Ctx.tenant (c : Ctx) : Nat := fieldOf (c.word 0) 53 3
def Ctx.port (c : Ctx) : Nat := fieldOf (c.word 0) 47 2
def Ctx.pcls (c : Ctx) : Nat := fieldOf (c.word 0) 49 2

/-- The service die's endpoint nearest a core (R91). -/
def svcOf (core : Nat) : Endpoint := .service (coreDie core)

/-- The header of a message, with its wheel class (R102). -/
def hdrOf (s : State) (ctx tag : Nat) (src dst : Endpoint) : Hdr :=
  let t := (s.ctx ctx).tenant
  ⟨tag, t, if fieldOf (s.ctx ctx).detq 0 17 = 0 then t else 8, src, dst⟩

def State.send (s : State) (i : Instr) : State := { s with net := s.net ++ [i] }
def State.tellHost (s : State) (m : HostMsg) : State := { s with hostOut := s.hostOut ++ [m] }

/-- An event of a core's stream (R475), sent while a unit of the core captures the stream. -/
def State.noteCore (s : State) (core stream ctx v : Nat) : State :=
  if s.watch.any fun (x : Nat × WatchUnit) => decide (x.1 / 4 = core) && x.2.cfg.getLsbD 63 && decide (fieldOf x.2.cfg 46 8 = stream) then
    s.send (.watchEvent (.core core) stream ctx v)
  else s

/-! ## Attributes -/

/-- The attributes of an address that no entry holds (R62). -/
def Attr.plain (tenant : Nat) : Attr := ⟨0, 0, 0, 0, 0, false, false, false, 8 * tenant, false, 0, 1, 0⟩

/-- The attributes an entry gives (R61). -/
def attrOfEntry (e : Words4) : Attr :=
  { target := fieldOf e.w2 28 2
    link := fieldOf e.w2 32 5
    pwin := fieldOf e.w2 40 8
    pwoff := fieldOf e.w3 12 52
    vbase := fieldOf e.w0 12 52
    nolane := e.w2.getLsbD 30
    stwatch := e.w2.getLsbD 25
    mixchk := e.w2.getLsbD 24
    key := fieldOf e.w2 16 6
    repl := e.w2.getLsbD 4
    repmask := fieldOf e.w2 8 4
    grain := BitVec.ofNat 2 (fieldOf e.w2 2 2)
    cls := fieldOf e.w2 0 2 }

/-- The attributes of an address under a table: the valid entry of lowest index whose range holds it (R58). -/
def attrOf (rat : List Words4) (tenant : Nat) (va : DWord) : Attr :=
  let page := va.toNat / 4096
  match rat.find? fun e => e.w0.getLsbD 0 && decide (fieldOf e.w0 12 52 ≤ page) && decide (page ≤ fieldOf e.w1 12 52) with
  | some e => attrOfEntry e
  | none => Attr.plain tenant

/-- The attributes of an address for a launch (R58). -/
def State.attr (s : State) (ctx lid : Nat) (va : DWord) : Attr :=
  match s.launches.get? (ctx * 64 + lid) with
  | some l => attrOf l.rat (s.ctx ctx).tenant va
  | none => Attr.plain (s.ctx ctx).tenant

/-- A word of the descriptor for a launch: as it stood at the acceptance (R60). -/
def State.launchWord (s : State) (ctx lid n : Nat) : DWord :=
  match if lid < 64 then s.launches.get? (ctx * 64 + lid) else none with
  | some l => l.desc.getD n (descReset n)
  | none => (s.ctx ctx).word n

/-- The priority class of a launch (R60, R381). -/
def State.launchClass (s : State) (ctx lid : Nat) : Nat := fieldOf (s.launchWord ctx lid 0) 49 2

/-- Bits 63:57 all equal to bit 56 (R56). -/
def canonical (va : DWord) : Bool := decide (va.toNat / 2 ^ 56 = 0) || decide (va.toNat / 2 ^ 56 = 255)

def pageOf (va : DWord) : Nat := va.toNat / 4096

/-! ## TLBs (R69, R70) -/

def TlbEnt.holds (e : TlbEnt) (pasid page : Nat) : Bool :=
  decide (e.pasid = pasid) && decide (e.vpage ≤ page) && decide (page < e.vpage + 2 ^ e.log2)

def TlbEnt.allows (e : TlbEnt) (r w x : Bool) : Bool := (!r || e.r) && (!w || e.w) && (!x || e.x)

def TlbEnt.meets (e : TlbEnt) (pasid page log2 : Nat) : Bool :=
  decide (e.pasid = pasid) && decide (e.vpage < page + 2 ^ log2) && decide (page < e.vpage + 2 ^ e.log2)

def tlbFind (l : List TlbEnt) (pasid page : Nat) : Option TlbEnt := l.find? fun e => e.holds pasid page

/-- Insert an entry into a level of `sets` sets and `ways` ways; entries for the same addresses go, and the oldest of a full
set is replaced (DESIGN CHOICE, log 20: R69 names no replacement). -/
def tlbInsert (sets ways : Nat) (l : List TlbEnt) (e : TlbEnt) : List TlbEnt :=
  let l := l.filter fun x => !x.meets e.pasid e.vpage e.log2
  let set (x : TlbEnt) : Nat := (x.vpage / 2 ^ x.log2 ^^^ x.pasid) % sets
  let same := l.filter fun x => set x = set e
  let l := if same.length < ways then l else match same with
    | o :: _ => l.erase o
    | [] => l
  l ++ [e]

def CoreMem.empty : CoreMem := ⟨[], [], [], [], [], [], 0, 0, [], [], []⟩
def State.core (s : State) (c : Nat) : CoreMem := s.cores.getD c CoreMem.empty
def State.modCore (s : State) (c : Nat) (f : CoreMem → CoreMem) : State := { s with cores := s.cores.set c (f (s.core c)) }

def State.fillCore (s : State) (c : Nat) (e : TlbEnt) : State := s.modCore c fun m => { m with tlb := tlbInsert 1 128 m.tlb e }
def State.fillDie (s : State) (d : Nat) (e : TlbEnt) : State :=
  { s with dieTlbs := s.dieTlbs.set d (tlbInsert 2048 8 (s.dieTlbs.getD d []) e) }
def State.fillAts (s : State) (e : TlbEnt) : State := { s with ats := tlbInsert 4096 16 s.ats e }

/-- Remove every entry of a PASID that overlaps a range, below the core TLBs (R84). -/
def State.dropShared (s : State) (pasid page log2 : Nat) : State :=
  { s with
    ats := s.ats.filter fun e => !e.meets pasid page log2
    dieTlbs := List.map (fun x => (x.1, x.2.filter fun e => !e.meets pasid page log2)) s.dieTlbs }

/-! ## Attributes with a translation (R58, R69) -/

/-- The entries of a region attribute table that meet a page (R58). -/
def ratOf (rat : List Words4) (vpage log2 : Nat) : List Words4 :=
  rat.filter fun e => e.w0.getLsbD 0 && decide (fieldOf e.w0 12 52 < vpage + 2 ^ log2) && decide (vpage ≤ fieldOf e.w1 12 52)

/-- A translation with the attributes that a launch has for its page (R69). -/
def TlbEnt.forLaunch (e : TlbEnt) (s : State) (ctx lid : Nat) : TlbEnt :=
  match s.launches.get? (ctx * 64 + lid) with
  | some l => { e with launch := ctx * 64 + lid, attrs := ratOf l.rat e.vpage e.log2 }
  | none => e

/-- The attributes that an access takes: those of the core TLB's entry, when it has them for the access's launch (R58, R69). -/
def State.attrAt (s : State) (core ctx lid : Nat) (va : DWord) : Attr :=
  match tlbFind (s.core core).tlb (s.ctx ctx).pasid (pageOf va) with
  | some e => if e.launch = ctx * 64 + lid then attrOf e.attrs (s.ctx ctx).tenant va else s.attr ctx lid va
  | none => s.attr ctx lid va

/-! ## Lookup -/

/-- What a lookup gives (R69, R73, R75, R89). -/
inductive Xlate where
  | ok (loc : Nat)
  | prot
  | lost (loc : Nat)
  /-- held by the die TLB: fill the core TLB with it -/
  | fill (e : TlbEnt)
  | miss
  /-- held without a permission that the access needs: not present for it (R75) -/
  | denied
deriving DecidableEq, Repr

/-- Look an address up for a core and kinds of access. -/
def lookup (s : State) (core pasid : Nat) (va : DWord) (r w x : Bool) : Xlate :=
  let page := pageOf va
  match tlbFind (s.core core).tlb pasid page with
  | some e =>
    if x && !e.x && (e.r || e.w) then .prot
    else if e.allows r w x then
      let loc := e.loc + (va.toNat - e.vpage * 4096)
      if s.withdrawn.contains (granuleOf loc) then .lost loc else .ok loc
    else .denied
  | none =>
    match tlbFind (s.dieTlbs.getD (coreDie core) []) pasid page with
    | some e => .fill e
    | none => .miss

/-- The request of a die's miss, from the core that missed first (R71). -/
def DieMiss.request (s : State) (m : DieMiss) : Instr :=
  let core := m.cores.headD 0
  .atsreq ⟨hdrOf s m.ctx 0 (.core core) (svcOf core), m.ctx, m.pasid, m.vpage, m.exec⟩

/-- A miss of the core TLB and the die TLB (R71, R72): it joins the die's entry for the page, or takes a free one and asks the ATS
cache, or waits for a free one. -/
def sendAts (s : State) (core ctx : Nat) (page : Nat) (x : Bool) : State :=
  let pasid := (s.ctx ctx).pasid
  let d := coreDie core
  let l := s.dieMisses.getD d []
  match l.find? fun m => decide (m.pasid = pasid ∧ m.vpage = page) with
  | some m =>
    if m.cores.contains core then s
    else { s with dieMisses := s.dieMisses.set d (l.map fun y => if y = m then { y with cores := y.cores ++ [core] } else y) }
  | none =>
    let m : DieMiss := ⟨pasid, page, ctx, x, [core], decide (l.length < 512)⟩
    let s := { s with dieMisses := s.dieMisses.set d (l ++ [m]) }
    if m.sent then s.send (m.request s) else s

/-- The reply for a page has reached a die: its entry is free, and the oldest miss that waited for one takes it (R72). -/
def dieAnswered (s : State) (d pasid page : Nat) : State :=
  let l := (s.dieMisses.getD d []).filter fun m => !decide (m.pasid = pasid ∧ m.vpage = page)
  match (l.take 512).find? fun m => !m.sent with
  | some m => { s with dieMisses := s.dieMisses.set d (l.map fun y => if y = m then { y with sent := true } else y) }.send (m.request s)
  | none => { s with dieMisses := if l.isEmpty then s.dieMisses.erase d else s.dieMisses.set d l }

/-! ## The fault buffer (R76 to R82) -/

/-- The open record of a page. -/
def recordOf (s : State) (pasid page : Nat) : Option FRec :=
  s.faults.find? fun f => decide (f.pasid = pasid ∧ f.vpage = page ∧ f.st ≠ .free)

def modRecord (s : State) (pasid page : Nat) (f : FRec → FRec) : State :=
  { s with faults := s.faults.map fun x => if x.pasid = pasid ∧ x.vpage = page ∧ x.st ≠ .free then f x else x }

def bumpCnt (s : State) (n : Nat) (k : Nat) : State := { s with fbcnt := s.fbcnt.modify n (· + BitVec.ofNat 64 k) }

/-- The lowest index of a record that is free (R78; DESIGN CHOICE, log 79: the spec does not say which). -/
def freeRecord (s : State) : Option Nat :=
  leastBelow 4096 fun i => !s.faults.any fun f => decide (f.idx = i ∧ f.st ≠ .free)

/-- Open or join the record of a page for some waiting cores (R76); `none` when the buffer is full. -/
def openFor (s : State) (wait : BitVec 128) (ctx page : Nat) (r w x : Bool) : Option State :=
  let c := s.ctx ctx
  match recordOf s c.pasid page with
  | some _ =>
    some (bumpCnt (modRecord s c.pasid page fun f => { f with
      r := f.r || r, w := f.w || w, x := f.x || x
      merged := min 4095 (f.merged + 1), wait := f.wait ||| wait }) 1 1)
  | none => match freeRecord s with
    | none => none
    | some i => some (bumpCnt { s with faults := (s.faults.filter fun f => f.idx ≠ i) ++ [⟨i, c.pasid, page, ctx, r, w, x, 0, 0, .gather,
        c.port, c.tenant, s.tick, 0, wait, 0, 0, false, false⟩] } 0 1)

def openRecord (s : State) (core ctx page : Nat) (r w x : Bool) : Option State := openFor s (1#128 <<< core) ctx page r w x

/-- A page fault at TL0 (R76): it opens or joins the page's record, or waits in the ATS miss table while the buffer is full. -/
def faultPage (s : State) (core ctx page : Nat) (r w x : Bool) : State :=
  match openRecord s core ctx page r w x with
  | some s => s
  | none =>
    let pasid := (s.ctx ctx).pasid
    if s.misses.any fun m => decide (m.pasid = pasid ∧ m.vpage = page) && m.full then s
    else { s with misses := s.misses ++ [⟨pasid, page, ctx, x, [], false, [], false, true⟩] }

/-- The faults of plies and copies that wait on a page for the fault buffer, as core, context and kinds of access. -/
def waitersOf (s : State) (pasid page : Nat) : List (Nat × Nat × Bool × Bool × Bool) :=
  (List.filterMap (fun (x : Nat × Ply) => match x.2.park with
    | .wait (.page vp r w e true) =>
      if (s.ctx x.2.ctx).pasid = pasid ∧ vp = page then some (x.2.core, x.2.ctx, r, w, e) else none
    | _ => none) s.plies) ++
  (s.skeins.flatMap fun (x : Nat × Skein) => x.2.eng.copies.filterMap fun c => match c.miss with
    | some (vp, r, w, true) => if (s.ctx x.2.ctx).pasid = pasid ∧ vp = page then some (x.1 / 16, x.2.ctx, r, w, false) else none
    | _ => none)

/-- Faults that waited for a record open one as long as there is room (R76). -/
def openWaiting (s : State) : State :=
  (s.misses.filter (·.full)).foldl (fun s m =>
    if (recordOf s m.pasid m.vpage).isNone && (freeRecord s).isNone then s
    else (waitersOf s m.pasid m.vpage).foldl (fun s x => (openRecord s x.1 x.2.1 m.vpage x.2.2.1 x.2.2.2.1 x.2.2.2.2).getD s)
      { s with misses := s.misses.erase m }) s

/-- A record goes to WAKE with its verdict (R80). -/
def toWake (s : State) (f : FRec) (refused : Bool) : State :=
  modRecord s f.pasid f.vpage fun g => { g with st := .wake, refused := refused }

/-- A record in WAKE (R80, R81): its wake goes to every waiting core with the verdict, and it is free. -/
def wakeRecord (s : State) (f : FRec) : State :=
  let cores := (List.range 128).filter f.wait.getLsbD
  let s := modRecord s f.pasid f.vpage fun g => { g with st := .free }
  openWaiting (cores.foldl (fun s c => s.send (.fbwake ⟨hdrOf s f.ctx 0 (svcOf c) (.core c), f.ctx, f.vpage, f.refused⟩)) s)

/-- The port that carries a port's traffic: the next live one when it is fenced (R454). -/
def State.livePort (s : State) (p : Nat) : Nat :=
  (((List.range 4).map fun i => (p + i) % 4).find? fun q => !s.fenced.contains (.hostPort q)).getD p

/-- Whether a miss of the ATS cache has had its request sent on a host port and not answered. -/
def AtsMiss.onPort (s : State) (port : Nat) (m : AtsMiss) : Bool := m.sent && decide (s.livePort (s.ctx m.ctx).port = port)

/-- Send the translation request of the oldest miss that has an entry of the table and may send one (R71, R72): at most 1,024 are
outstanding on a host port. -/
def requestNext (s : State) : State :=
  let port (m : AtsMiss) : Nat := s.livePort (s.ctx m.ctx).port
  match (s.misses.take 4096).find? fun m => !m.sent && !m.full && decide ((s.misses.filter (·.onPort s (port m))).length < 1024) with
  | some m =>
    { s with misses := s.misses.map fun x => if x = m then { x with sent := true } else x }.tellHost
      (.atsRequest (port m) m.pasid m.vpage m.exec)
  | none => s

/-- A new miss of the ATS cache (R72). -/
def requestPage (s : State) (m : AtsMiss) : State := requestNext { s with misses := s.misses ++ [m] }

/-- A miss that nothing has happened to. -/
def AtsMiss.fresh (pasid vpage ctx : Nat) (exec : Bool) (cores : List Nat) : AtsMiss :=
  ⟨pasid, vpage, ctx, exec, cores, false, [], false, false⟩

/-! ## Judging a translation (R75, R76, R83) -/

/-- Whether a translation is present for an access: a page with neither R nor W is not, and a write needs W. -/
def presentFor (e : Option TlbEnt) (r w x : Bool) : Bool :=
  match e with
  | some e => e.allows r w x || (x && !e.x && (e.r || e.w))
  | none => false

/-- Judge a page for one parked ply: it is woken by the reply, waits on the fault buffer, or will take XLATE. -/
def judgePly (s : State) (e : Option TlbEnt) (key : Nat) (p : Ply) (page : Nat) : State :=
  match p.park with
  | .wait (.page vp r w x false) =>
    if vp ≠ page || presentFor e r w x then s
    else if p.tl ≥ 1 then s.modPly key fun q => { q with verdict := .xlate, waited := some (page, x) }
    else (faultPage s p.core p.ctx page r w x).modPly key fun q => { q with park := .wait (.page vp r w x true) }
  | _ => s

/-- Judge a page for the copies of one skein (R82, R201). -/
def judgeCopies (s : State) (e : Option TlbEnt) (sk : Nat) (k : Skein) (page : Nat) : State :=
  k.eng.copies.foldl (fun (s : State) c =>
    match c.miss with
    | some (vp, r, w, false) =>
      if vp ≠ page || presentFor e r w false then s
      else
        let put (s : State) (f : Copy → Copy) : State := s.modSkein sk fun k => { k with eng := { k.eng with
          copies := k.eng.copies.map fun x => if x.n = c.n then f x else x } }
        if c.tl ≥ 1 then put s fun x => { x with verdict := .xlate }
        else put (faultPage s (sk / 16) k.ctx page r w false) fun x => { x with miss := some (vp, r, w, true) }
    | _ => s) s

/-- Judge a page for the waiters of a PASID on the dies that asked, then send the reply to the cores that asked (R73, R76). -/
def judgePage (s : State) (m : AtsMiss) (e : Option TlbEnt) : State :=
  let dies := m.cores.map coreDie
  let mine (c core : Nat) : Bool := decide ((s.ctx c).pasid = m.pasid) && dies.contains (coreDie core)
  let s := s.plies.foldl (fun s x => if mine x.2.ctx x.2.core then judgePly s e x.1 x.2 m.vpage else s) s
  let s := s.skeins.foldl (fun s x => if mine x.2.ctx (x.1 / 16) then judgeCopies s e x.1 x.2 m.vpage else s) s
  m.cores.foldl (fun s c => s.send (.atsrsp ⟨hdrOf s m.ctx 0 (svcOf c) (.core c), m.pasid, m.vpage⟩)) s

/-! ## Messages and events -/

/-- ATSREQ at the service die (R71, R72): a page that the ATS cache holds is judged at once; otherwise the miss joins its entry or
asks for one. -/
def execAtsreq (f : AtsFlit) (s : State) : Out :=
  let core := match f.hdr.src with
    | .core c => c
    | _ => 0
  match tlbFind s.ats f.pasid f.vpage with
  | some e => .next (judgePage s (AtsMiss.fresh f.pasid f.vpage f.ctx f.exec [core]) (some e))
  | none =>
    match s.misses.find? fun m => decide (m.pasid = f.pasid ∧ m.vpage = f.vpage) && !m.retrans && !m.full with
    | some m =>
      .next { s with misses := s.misses.map fun x =>
        if x = m then { x with cores := if x.cores.contains core then x.cores else x.cores ++ [core] } else x }
    | none => .next (requestPage s (AtsMiss.fresh f.pasid f.vpage f.ctx f.exec [core]))

/-- A ply that was parked on a page tries again, with a verdict (R73, R80, R81): after a reply those that do not wait on the fault
buffer, after a wake (`host`) every one. -/
def Ply.wakeOn (p : Ply) (page : Nat) (host : Bool) (v : Verdict) : Ply :=
  match p.park with
  | .wait (.page vp _ _ x h) =>
    if vp = page ∧ (host || !h) then
      { p with park := .none, waited := some (page, x), verdict := if v = .retry then p.verdict else v }
    else p
  | _ => p

/-- A copy that waited on a page is queued again (R206). -/
def Copy.wakeOn (c : Copy) (page : Nat) (host : Bool) (v : Verdict) : Copy :=
  match c.miss with
  | some (vp, _, _, h) =>
    if vp = page ∧ (host || !h) then
      { c with miss := none, st := .queued, verdict := if v = .retry then c.verdict else v }
    else c
  | none => c

def Skein.mapCopies (k : Skein) (f : Copy → Copy) : Skein := { k with eng := { k.eng with copies := k.eng.copies.map f } }
def State.mapPlies (s : State) (f : Ply → Ply) : State := { s with plies := List.map (fun e => (e.1, f e.2)) s.plies }
def State.mapSkeins (s : State) (f : Nat → Skein → Skein) : State :=
  { s with skeins := List.map (fun e => (e.1, f e.1 e.2)) s.skeins }

/-- Make runnable what a core parked on a page (R73, R81): everything when the fault buffer wakes it (`host`), else what does not wait
on the fault buffer. -/
def wakePage (s : State) (core pasid page : Nat) (host : Bool) (v : Verdict) : State :=
  let s1 := s.mapPlies fun p => if p.core = core ∧ (s.ctx p.ctx).pasid = pasid then p.wakeOn page host v else p
  s1.mapSkeins fun sk k =>
    if sk / 16 = core ∧ (s.ctx k.ctx).pasid = pasid then k.mapCopies fun c => c.wakeOn page host v else k

/-- A launch of a PASID that a core runs, for the attributes that an entry takes (R69). -/
def launchOn (s : State) (core pasid : Nat) : Option (Nat × Nat) :=
  (s.skeins.find? fun x => decide (x.1 / 16 = core ∧ (s.ctx x.2.ctx).pasid = pasid)).map fun x => (x.2.ctx, x.2.lid)

/-- A translation reaches a core, for the waiters of its die's entry (R69, R72). -/
def fillWaiter (s : State) (e : TlbEnt) (c : Nat) : State :=
  let e := match launchOn s c e.pasid with
    | some (ctx, lid) => e.forLaunch s ctx lid
    | none => e
  (s.fillDie (coreDie c) e).fillCore c e

/-- ATSRSP at a die (R94): the die TLB and the TLBs of the cores that wait take the translation, and the waiters try again (R72, R73). -/
def execAtsrsp (f : AtsReply) (s : State) : Out :=
  match f.hdr.dst with
  | .core c =>
    let d := coreDie c
    let cores := match (s.dieMisses.getD d []).find? fun m => decide (m.pasid = f.pasid ∧ m.vpage = f.vpage) with
      | some m => m.cores
      | none => [c]
    let s := match tlbFind s.ats f.pasid f.vpage with
      | some e => cores.foldl (fun s c => fillWaiter s e c) s
      | none => s
    .next (cores.foldl (fun s c => wakePage s c f.pasid f.vpage false .retry) (dieAnswered s d f.pasid f.vpage))
  | _ => .next s

/-- The location of a host physical address (R52). -/
def State.hpaLoc (s : State) (h : Nat) : Nat :=
  let within (b : Option Nat) (n : Nat) : Option Nat := match b with
    | some b => if b ≤ h ∧ h < b + 2 ^ n then some (h - b) else none
    | none => none
  match within s.dec0 38 with
  | some a => locOf 0 a
  | none => match within s.dec1 41 with
    | some a => locOf 1 a
    | none => locOf 2 (h % 2 ^ 52)

/-- The entry a completion gives (R70): the largest page size of R69 within the returned size. -/
def State.entryOf (s : State) (c : AtsCompletion) : TlbEnt :=
  let lg := if 30 ≤ c.size then 18 else if 21 ≤ c.size then 9 else if 16 ≤ c.size then 4 else 0
  let va := c.vpage / 2 ^ lg * 2 ^ lg
  ⟨c.pasid, va, lg, s.hpaLoc (c.hpa - (c.vpage - va) * 4096), c.r, c.w, c.x, 16384, []⟩

/-- A record in RETRANS meets its new translation (R80). -/
def settleRecord (s : State) (f : FRec) (e : Option TlbEnt) : State :=
  match e with
  | some x =>
    if x.allows f.r f.w f.x then toWake s f false
    else if x.r || x.w then toWake s f true
    else modRecord s f.pasid f.vpage fun g => { g with st := .gather, retry := min 7 (g.retry + 1) }
  | none => modRecord s f.pasid f.vpage fun g => { g with st := .gather, retry := min 7 (g.retry + 1) }

/-- Whether an invalidation has overtaken a request whose completion would store an entry (R85): its range meets the page looked up
or the stored page. -/
def overtaken (m : AtsMiss) (e : TlbEnt) : Bool :=
  m.late.any fun x => e.meets m.pasid x.1 x.2 || (decide (m.vpage < x.1 + 2 ^ x.2) && decide (x.1 ≤ m.vpage))

/-- A translation completion (R70, R75, R80, R85): it answers the oldest request for the page, and one that an invalidation overtook is
asked again. -/
def execAtsTranslationCompletion (c : AtsCompletion) (s : State) : Out :=
  match s.misses.find? fun m => decide (m.pasid = c.pasid ∧ m.vpage = c.vpage) && m.sent with
  | none => .next s
  | some m =>
    let s := { s with misses := s.misses.erase m }
    let e := s.entryOf c
    if overtaken m e then .next (requestPage s { m with late := [], sent := false })
    else
      let got := c.r || c.w
      let s := if got then s.fillAts e else s
      let e := if got then some e else none
      let s := match (if m.retrans then recordOf s c.pasid c.vpage else none) with
        | some f => if f.st = .retrans then settleRecord s f e else s
        | none => s
      .next (requestNext (judgePage s m e))

/-- The port's lowest free PRG index (R77). -/
def freePrgi (s : State) (port : Nat) : Option Nat :=
  leastBelow 512 fun i => !s.faults.any fun f => decide (f.port = port ∧ f.prgi = i ∧ f.st = .sent)

/-- Send the page requests of one group: the records of one PASID of a batch, the last with the Last flag. -/
def sendGroup (s : State) (group : List FRec) : State :=
  match group with
  | [] => s
  | f :: _ =>
    let port := s.livePort f.port
    match freePrgi s port with
    | none => s
    | some i =>
      let last := group.length - 1
      let s := (group.zipIdx).foldl (fun s x =>
        (modRecord s x.1.pasid x.1.vpage fun g => { g with st := .sent, prgi := i, port := port }).tellHost
          (.pageRequest port x.1.pasid x.1.vpage i x.1.r x.1.w x.1.x (decide (x.2 = last)))) s
      bumpCnt s 2 1

/-- The records of the batch that closes now: it is full or its oldest record has waited (R77), PRIEN is set (R79), and the
allocation and the indexes have room. -/
def batchOf (s : State) : List FRec :=
  let gathered := s.faults.filter fun f => f.st = .gather
  let old := gathered.any fun f => (fieldOf s.fbcfg 0 8 + 1) * 100 ≤ s.tick - f.tfirst
  if !s.fbcfg.getLsbD 16 || !(old || 512 ≤ gathered.length) then []
  else
    let busy := (s.faults.filter fun f => f.st = .sent).length
    (gathered.take (min 512 (s.prgAlloc - busy))).filter fun f => (freePrgi s (s.livePort f.port)).isSome

/-- FAULT_BATCH_CLOSE (R77): the batch is sent, one group for each PASID. -/
def execFaultBatchClose (s : State) : Out :=
  match batchOf s with
  | [] => .next s
  | batch =>
    let s := s.send (.watchEvent .module 7 256 batch.length)
    let pasids := (batch.map (·.pasid)).eraseDups
    .next (pasids.foldl (fun s p => sendGroup s (batch.filter fun f => f.pasid = p)) s)

/-- A PRG response (R80). -/
def execPrgResponse (port prgi : Nat) (code : BitVec 4) (s : State) : Out :=
  let group := s.faults.filter fun f => decide (f.port = port ∧ f.prgi = prgi ∧ f.st = .sent)
  let s := if code = 0 || group.isEmpty then s else bumpCnt s 3 1
  let s := if code = 15 && !group.isEmpty then { s with fbcfg := s.fbcfg &&& ~~~(1#64 <<< 16) } else s
  .next (group.foldl (fun s f =>
    let s := modRecord s f.pasid f.vpage fun g => { g with resp := code.toNat, rv := true, tresp := s.tick }
    if code = 0 then
      let s := modRecord s f.pasid f.vpage fun g => { g with st := .retrans }
      let s := { s with ats := s.ats.filter fun e => !e.meets f.pasid f.vpage 0 }
      requestPage s { AtsMiss.fresh f.pasid f.vpage f.ctx f.x [] with retrans := true }
    else toWake s f true) s)

/-- FBWAKE at a core (R81): everything parked on the page tries again, refused or not. The page's entries in the core's and
the die's TLB go, so that the retry meets the new translation (DEDUCED, log 21). -/
def execFbwake (f : FbWake) (s : State) : Out :=
  match f.hdr.dst with
  | .core c =>
    let pasid := (s.ctx f.ctx).pasid
    let v : Verdict := if f.refused then .prot else .retry
    let s := s.modCore c fun m => { m with tlb := m.tlb.filter fun e => !e.meets pasid f.vpage 0 }
    let s := { s with dieTlbs := s.dieTlbs.modify (coreDie c) (List.filter fun e => !e.meets pasid f.vpage 0) }
    let s := wakePage s c pasid f.vpage true v
    .next (s.mapPlies fun p =>
      if p.core = c ∧ (s.ctx p.ctx).pasid = pasid ∧ p.park = .wait (.record f.vpage) then
        { p with park := .none, stage := 1, verdict := v } else p)
  | _ => .next s

/-- An ATS Invalidate Request (R84, R85): the entries go from the ATS cache and the die TLBs, and a probe goes to each core for each
context whose PASID it names (R98). No probe can name a PASID that no context has any more: the entries that a torn-down context has left
in the core TLBs go at once (DEDUCED, log 21). -/
def execAtsInvalidateRequest (pasid vpage log2 : Nat) (s : State) : Out :=
  let s := s.dropShared pasid vpage log2
  let late (m : AtsMiss) : AtsMiss := if m.pasid = pasid && m.sent then { m with late := m.late ++ [(vpage, log2)] } else m
  let s := { s with misses := s.misses.map late, invals := s.invals ++ [(pasid, vpage, log2)] }
  let ctxs := s.ctxs.filter fun _ c => c.pasid = pasid
  let cores := (s.skeins.keys.map (· / 16) ++ s.cores.keys).eraseDups
  let s := if !ctxs.isEmpty then s else
    { s with cores := List.map (fun (x : Nat × CoreMem) => (x.1, { x.2 with tlb := x.2.tlb.filter fun e => !e.meets pasid vpage log2 })) s.cores }
  .next (ctxs.foldl (fun s x => cores.foldl (fun s c =>
    s.send (.tlbinv ⟨hdrOf s x.1 0 (svcOf c) (.core c), x.1, vpage, log2⟩)) s) s)

/-- TLBINV at a core (R84). -/
def execTlbinv (f : TlbInv) (s : State) : Out :=
  match f.hdr.dst with
  | .core c =>
    let pasid := (s.ctx f.ctx).pasid
    .next (s.modCore c fun m => { m with tlb := m.tlb.filter fun e => !e.meets pasid f.vpage f.log2Pages })
  | _ => .next s

/-- FBCFG (R79): the fields of the register. -/
def execFbcfgWrite (value : DWord) (s : State) : Out := .next { s with fbcfg := value &&& 0x100FF }

end Sys2Proof.Machine
end

