-- ==== Sys2Proof/Machine/Coherence.lean ====
section
/-! DEFINITION. Home slices: the class table (R144 to R148), the directory and its probes (R122 to R134), leases (R129 to
R132), the host's side (R135, R136), replicas (R165), and the tags (R117 to R121). -/

namespace Sys2Proof.Machine

/-! ## Names of places -/

/-- Whether the fused defect map disables a part: its bit, counted from the byte where the map lists the parts (R2, R471). -/
def Fuses.disables (f : Fuses) (byte i : Nat) : Bool := (f.defect.getD (byte + i / 8) 0).getLsbD (i % 8)

/-- Whether an L2 slice, or an RDC slice, is in use: neither disabled (R2) nor fenced (R137). -/
def State.sliceUp (s : State) (n : Nat) : Bool := !s.fuses.disables 24 n && !s.fenced.contains (.slice n)
def State.rdcUp (s : State) (r : Nat) : Bool := !s.fuses.disables 40 r && !s.fenced.contains (.rdc r)

/-- The home of a location. The other slice at the router takes over from a fenced one (R137), and from one that the defect map
disables; where a whole router is disabled, the next slice of the die in use does (DEDUCED, log 75). -/
def State.homeOf (s : State) (loc : Nat) : Nat :=
  let h := homeSlice loc
  if s.sliceUp h then h else if s.sliceUp (h ^^^ 1) then h ^^^ 1
  else (((List.range 32).map fun i => h / 32 * 32 + (h + i) % 32).find? s.sliceUp).getD h

/-- The RDC slice of a die for a location; another takes over from one that is fenced (R137) or disabled (log 75). -/
def State.rdcOf (s : State) (d loc : Nat) : Nat :=
  let r := rdcSlice d loc
  if s.rdcUp r then r else if s.rdcUp (r ^^^ 1) then r ^^^ 1
  else (((List.range 8).map fun i => r / 8 * 8 + (r + i) % 8).find? s.rdcUp).getD r

/-- The core of a party; no core has number 128, which stands for parties outside the cores. -/
def partyCore : Party → Nat
  | .ply k => k / 512
  | .engine k => k / 16
  | _ => 128

/-- The context and the launch slot of a party; one outside the cores has neither, which 256 and 64 stand for. -/
def State.partyCtx (s : State) : Party → Nat × Nat
  | .ply k => match s.plies.get? k with
    | some p => (p.ctx, p.lid)
    | none => (256, 64)
  | .engine k => match s.skeins.get? k with
    | some k => (k.ctx, k.lid)
    | none => (256, 64)
  | _ => (256, 64)

def State.use (s : State) : State := { s with uses := s.uses + 1 }

/-- The replica of a near-DRAM location on a die (R65). -/
def replicaLoc (d loc : Nat) : Nat := loc - bitsAt (offOf loc) 36 2 * 2 ^ 36 + d * 2 ^ 36

/-! ## Directory entries -/

def DirEntry.zero : DirEntry := ⟨0, .i, 0, false, 0, 0, 0, false, 0, 0, 0, 0⟩
def State.dirOf (s : State) (g : Nat) : DirEntry := s.dir.getD g DirEntry.zero

/-- A free entry (R122). -/
def DirEntry.free (e : DirEntry) : Bool := decide (e.st = .i) && decide (e.uoh = 0) && !e.ha && !e.hv

def State.setDir (s : State) (g : Nat) (e : DirEntry) : State :=
  { s with dir := if e.free && e.lp = 0 then s.dir.erase g else s.dir.set g e }

/-- The lease horizon has passed (R124). -/
def horizonPassed (tick : Nat) (e : DirEntry) : Bool :=
  let d := (tick + 2 ^ 24 - e.lh % 2 ^ 24) % 2 ^ 24
  !e.hv || (decide (1 ≤ d) && decide (d ≤ 2 ^ 23 - 1))

/-- Set the horizon to the later of the old and tick `h` (R124). -/
def DirEntry.lease (e : DirEntry) (h : Nat) : DirEntry :=
  let h := h % 2 ^ 24
  let later := (h + 2 ^ 24 - e.lh) % 2 ^ 24 < 2 ^ 23
  { e with hv := true, lh := if e.hv && !later then e.lh else h }

/-- Cores that SHR may mean (R123), for home die `d`. -/
def DirEntry.sharers (e : DirEntry) (d : Nat) : List Nat := (List.range 32).filterMap fun c =>
  if e.shr.getLsbD (c / 2) then some (32 * d + c) else none

/-- Cores that UOH may mean. -/
def DirEntry.holders (e : DirEntry) : List Nat := (List.range 128).filter fun c => e.uoh.getLsbD (c / 2)

/-! ## Writes to memory -/

/-- The tenant and the wheel class that a probe of a ply's monitor carries: those of its context (R57, R98, R102). -/
def plyLine (s : State) (key : Nat) (src dst : Endpoint) : Hdr :=
  hdrOf s (s.partyCtx (.ply key)).1 0 src dst

/-- Wake one monitor (R159, R185): it leaves the home's list, and WAKE goes to its core. -/
def wakeMonitor (s : State) (m : Nat × Nat × Nat) : State :=
  ({ s with mons := s.mons.erase m }).send
    (.wake ⟨plyLine s m.1 (.slice (s.homeOf m.2.1)) (.core (m.1 / 512)), m.2.1, grainCode s m.2.1 1, 0⟩)

/-- The monitors whose grain a write meets are woken (R159). -/
def monWake (s : State) (loc size : Nat) : State :=
  (s.mons.filter fun m => decide (m.2.1 < loc + size) && decide (loc < m.2.1 + m.2.2)).foldl wakeMonitor s

/-- Note the granule of a replicated location, under its master's, for the comparison of R166. -/
def noteReplicas (s : State) (loc repl : Nat) : State :=
  if repl = 0 then s else { s with replicated := s.replicated.set (granuleOf loc) repl }

/-- Perform a write of bytes, at every replica of a replicated range (R125, R165): monitors wake and LP is cleared. -/
def State.perform (s : State) (key loc : Nat) (bytes : List Byte) (repl : Nat) (g : BitVec 2) : State :=
  let locs := if repl = 0 then [loc] else (List.range 4).filterMap fun d =>
    if repl.testBit d then some (replicaLoc d loc) else none
  locs.foldl (fun s l =>
    let s := monWake (s.putBytes key l bytes) l bytes.length
    { s with dir := s.dir.modify (grainBase s l g) fun e => { e with lp := 0 } }) (noteReplicas s loc repl)

/-! ## Tags (R117 to R121) -/

def tagSet (loc : Nat) : Nat := bitsAt (offOf loc) 9 9 ^^^ bitsAt (offOf loc) 18 9

/-- The way quota of a class of a context (R59, R121). -/
def quotaOf (s : State) (ctx lid cls : Nat) : Nat :=
  let q := min 24 (fieldOf (s.launchWord ctx lid 1) (5 * cls) 5)
  if s.iso (s.ctx ctx).tenant then min 3 q else q

/-- Whether a way is open to a tenant (R121). -/
def wayOpen (s : State) (t way : Nat) : Bool := if s.iso t then decide (way / 3 = t) else !s.iso (way / 3)

/-- The sectors of an access; host memory is filled in pairs (R119). -/
def sectorsOf (loc size : Nat) : BitVec 16 :=
  (List.range 16).foldl (fun m i =>
    let lo := if tierOf loc = 2 then i / 2 * 64 else i * 32
    let n := if tierOf loc = 2 then 64 else 32
    if lo < loc % 512 + size ∧ loc % 512 < lo + n then m ||| (1#16 <<< i) else m) 0

/-- The tags of the set of a location, at its slice. -/
def tagsOfSet (s : State) (loc : Nat) : List (Nat × TagEntry) :=
  List.filter (fun (x : Nat × TagEntry) => decide (s.homeOf x.1 = s.homeOf loc) && decide (tagSet x.1 = tagSet loc)) s.tags

/-- Write a block back (R119): its bytes already stand in memory; those of host memory go to the host, by 64-byte lines with a sector
that differs. -/
def writeBack (s : State) (blk : Nat) (sd : BitVec 16) : State :=
  if tierOf blk ≠ 2 then s
  else (List.range 8).foldl (fun s i =>
    if sd.getLsbD (2 * i) || sd.getLsbD (2 * i + 1) then
      s.tellHost (.dirtyEvict (blk + 64 * i) ((List.range 64).map fun j => s.mem.read (blk + 64 * i + j)))
    else s) s

/-- A host block that has left L2: the grains that no core holds are the home's no longer, and their monitors wake (R135, R159;
those that a core holds stay with it, DEDUCED, log 77). -/
def loseHostBlock (s : State) (blk : Nat) : State :=
  if tierOf blk ≠ 2 then s
  else (List.filter (fun (x : Nat × DirEntry) => decide (blockOf x.1 = blk ∧ x.2.st = .i ∧ x.2.uoh = 0)) s.dir).foldl (fun s x =>
    monWake (s.setDir x.1 { x.2 with ha := false }) x.1 (grainBytes x.1 x.2.gcode)) (monWake s blk 512)

/-- Take a block out of L2: it is written back first (R119, R120). -/
def evictTag (s : State) (blk : Nat) : State :=
  match s.tags.get? blk with
  | none => s
  | some e => loseHostBlock { writeBack s blk e.sd with tags := s.tags.erase blk } blk

/-- Bring a cached block under another key: written back under the recorded one and, with the sectors asked for, filled again (R63,
R64). -/
def TagEntry.under (e : TagEntry) (key : Nat) (sect : BitVec 16) : TagEntry :=
  if e.key = key then e else { e with key := key, sv := sect, sd := 0 }

/-- Fill sectors of a block, choosing a way by R120 when it has none; blocks in ways that their tenants may no longer use leave the
set first (R121). -/
def fillTag (s : State) (loc : Nat) (ctx lid cls : Nat) (g : BitVec 2) (key : Nat) (sect : BitVec 16) (dirty : Bool) : State :=
  let blk := blockOf loc
  let s := s.use
  let sd := if dirty then sect else 0
  match s.tags.get? blk with
  | some e =>
    let e := e.under key sect
    { s with tags := s.tags.set blk { e with sv := e.sv ||| sect, sd := e.sd ||| sd, age := s.uses } }
  | none =>
    let t := (s.ctx ctx).tenant
    let q := quotaOf s ctx lid cls
    if q = 0 then s
    else
      let s := ((tagsOfSet s loc).filter fun x => !wayOpen s x.2.ten x.2.way).foldl (fun s x => evictTag s x.1) s
      let same := tagsOfSet s loc
      let oldest (l : List (Nat × TagEntry)) : Option (Nat × TagEntry) :=
        l.foldl (fun a x => match a with
          | none => some x
          | some y => if x.2.age < y.2.age then some x else some y) none
      let mine := same.filter fun x => decide (x.2.ctx = ctx ∧ x.2.cls = cls)
      let pick : Option (Nat × Option Nat) :=
        match leastBelow 24 fun w => wayOpen s t w && !same.any fun x => x.2.way = w with
        | some w => some (w, none)
        | none =>
          match if q ≤ mine.length then oldest mine else oldest (same.filter fun x => wayOpen s t x.2.way) with
          | some x => some (x.2.way, some x.1)
          | none => none
      match pick with
      | none => s
      | some (w, old) =>
        let g := grainCode s loc g
        let s := match old with
          | some b => evictTag s b
          | none => s
        { s with tags := s.tags.set blk ⟨w, key, g, cls, ctx, t, sect, sd, s.uses⟩ }

/-! ## The class table (R144 to R148) -/

def ClassEntry.zero : ClassEntry := ⟨.unseen, false, 0, false, none, 0, 0, 0, 0, 0⟩
def classSet (gran : Nat) : Nat := bitsAt (offOf gran) 12 11 ^^^ bitsAt (offOf gran) 23 11

def pairOf (core : Nat) : BitVec 64 := 1#64 <<< (core / 2)

/-- Whether a request writes, in the sense of R147. -/
def ReqKind.writes : ReqKind → Bool
  | .own | .upg | .wr | .atom | .hostWr | .svcWr | .linkWr => true
  | _ => false

/-- Whether a request of the host or of a service core, which leaves a granule UNSEEN (R147, R162). -/
def ReqKind.ofHost : ReqKind → Bool
  | .hostRd | .hostWr | .snpInv | .snpData | .snpCur | .svcRd | .svcWr => true
  | _ => false

/-- Whether a request came over a peer link; `aux` is the link (R458). -/
def ReqKind.ofLink : ReqKind → Bool
  | .linkRd | .linkWr => true
  | _ => false

/-- Whether a request is an access of a ply or an engine context. -/
def ReqKind.ofCore : ReqKind → Bool
  | .rd | .rdc | .renew | .own | .upg | .arm | .wr | .atom => true
  | _ => false

/-- The cores to drain before an entry may change for a request (R147). -/
def drainsFor (e : ClassEntry) (t : Txn) : List Nat :=
  let readers := (List.range 128).filter fun c => e.rdrs.getLsbD (c / 2)
  let owner := match e.owner with
    | some p => if partyCore p < 128 then [partyCore p] else []
    | none => []
  match e.cls with
  | .priv => if t.kind.ofHost || decide (t.kind = .drop) || decide (e.owner ≠ some t.who) then owner else []
  | .readonly => if t.kind.ofHost || decide (t.kind = .drop) || t.kind.writes then readers else []
  | _ => []

/-- The entry after a request, its drains made; `clean` says that no DRAINACK had S set (R147). -/
def classAfter (s : State) (e : ClassEntry) (t : Txn) (clean : Bool) : ClassEntry :=
  if t.kind.ofHost then
    match e.cls with
    | .priv | .readonly => { e with cls := .unseen, owner := none, rdrs := 0, stp := false }
    | _ => e
  else
    let (ctx, lid) := s.partyCtx t.who
    let stamp (e : ClassEntry) : ClassEntry := { e with ctx := ctx, lid := lid, ten := (s.ctx ctx).tenant }
    let bump (f : ClassEntry) : ClassEntry :=
      let m := min 7 (e.mig + 1)
      if m = 4 then stamp { f with cls := .shared, mig := m, owner := none, rdrs := 0, stp := false } else stamp { f with mig := m }
    let w := t.kind.writes
    let mine : ClassEntry := { e with cls := .priv, owner := some t.who, rdrs := 0, stp := w }
    match e.cls with
    | .unseen => stamp mine
    | .priv =>
      if e.owner = some t.who then { e with stp := e.stp || w }
      else if !w && !e.stp && clean then
        bump { e with cls := .readonly, owner := none, stp := false, rdrs := (match e.owner with
          | some p => pairOf (partyCore p)
          | none => 0) ||| pairOf (partyCore t.who) }
      else bump mine
    | .readonly => if w then bump mine else { e with rdrs := e.rdrs ||| pairOf (partyCore t.who) }
    | .shared => e

/-- CLS, and with it the class answer (R145, R146). -/
def classAnswer (e : ClassEntry) : Nat :=
  match e.cls with
  | .unseen => 0
  | .priv => 1
  | .readonly => 2
  | .shared => 3

def putTxn (s : State) (t : Txn) : State := { s with txns := s.txns.map fun x => if x.id = t.id then t else x }
def endTxn (s : State) (t : Txn) : State := { s with txns := s.txns.filter fun x => x.id ≠ t.id }

/-- A header for an answer of the home that serves a request: the request's tag, tenant and wheel class. -/
def Txn.hdr (t : Txn) (dst : Endpoint) : Hdr := ⟨t.tag, t.ten, t.wcls, .slice t.slice, dst⟩

/-- The header of a probe about a line or a granule (R57, R98, R102): it carries the line's tenant, in the request's wheel class when
the request is the same tenant's. -/
def Txn.probeHdr (t : Txn) (ten core : Nat) : Hdr :=
  ⟨t.tag, ten, if t.kind.ofCore && decide (t.ten = ten) then t.wcls else ten, .slice t.slice, .core core⟩

/-- A request that no flit has named: its id and stage are the start. A directory entry that a request of the host, a link or a service
core creates has TEN 0, since no context creates it (DESIGN CHOICE, log 78). -/
def Txn.blank (s : State) (kind : ReqKind) (loc : Nat) (g : BitVec 2) : Txn :=
  { id := s.nextTxn, kind := kind, who := .host, core := 128, tag := 0, ten := 0, wcls := 0, src := .slice (s.homeOf loc),
    slice := s.homeOf loc, loc := loc, size := 1, base := loc, len := 1, sect := 0, gran := granuleOf loc, grain := grainBase s loc g,
    gcode := g, key := 0, strict := false, aux := 0, aop := 0, a := 0, c := 0, quiet := false, bytes := [], stage := .classify, owed := [],
    clean := true, answer := 0, mix := false, hostOk := false, replOk := false, probed := false, repl := 0, mixchk := false, parts := [],
    lines := [] }

def addTxn (s : State) (t : Txn) : State := { s with txns := s.txns ++ [{ t with id := s.nextTxn }], nextTxn := s.nextTxn + 1 }

/-- The class entries of the set of a granule, at its slice. -/
def classesOfSet (s : State) (gran : Nat) : List (Nat × ClassEntry) :=
  List.filter (fun (x : Nat × ClassEntry) => decide (s.homeOf x.1 = s.homeOf gran) && decide (classSet x.1 = classSet gran)) s.classes

/-- The least recently used entry of a class set that may be evicted (R144). -/
def classVictim (s : State) (gran : Nat) : Option Nat :=
  let ok := (classesOfSet s gran).filter fun x => !x.2.wd &&
    !s.txns.any fun t => decide (t.gran = x.1) && decide (t.stage = .classify ∨ t.stage = .drains)
  (ok.foldl (fun (a : Option (Nat × ClassEntry)) x => match a with
    | none => some x
    | some y => if x.2.used < y.2.used then some x else some y) none).map (·.1)

/-- Whether a set has no room for a new entry, and whether all of it is withdrawn (R144). -/
def classFull (s : State) (gran : Nat) : Bool × Bool :=
  let same := classesOfSet s gran
  (decide (16 ≤ same.length), same.all fun x => x.2.wd)

/-- Whether an entry of the set is on its way out (R144). -/
def evicting (s : State) (gran : Nat) : Bool :=
  s.txns.any fun t => decide (t.kind = .drop ∧ s.homeOf t.gran = s.homeOf gran ∧ classSet t.gran = classSet gran)

/-- An entry that is removed: a withdrawn granule's is kept for WD alone, and no launch's any more (R88, R147). -/
def dropClass (s : State) (gran : Nat) : State :=
  { s with classes := if (s.classes.getD gran ClassEntry.zero).wd then s.classes.set gran { ClassEntry.zero with wd := true, lid := 64 }
      else s.classes.erase gran }

/-- Finish a class change: the entry and the answer, then the directory (R147). -/
def applyClass (s : State) (t : Txn) : State :=
  if t.kind = .drop then endTxn (dropClass s t.gran) t
  else
    let s := s.use
    let old := s.classes.get? t.gran
    let e := { classAfter s (old.getD ClassEntry.zero) t t.clean with used := s.uses }
    let s := if t.kind.ofHost && old.isNone then s else { s with classes := s.classes.set t.gran e }
    putTxn s { t with stage := .directory, answer := classAnswer e }

/-- Whether a request is classified: strict accesses, accesses of the host and the service cores, and removals (R147, R149), at the
master home only (R165). -/
def Txn.classified (t : Txn) : Bool :=
  (t.strict || t.kind.ofHost || decide (t.kind = .drop)) && decide (t.gran / 4096 = t.loc / 4096 ∨ t.kind = .drop)

/-- The turn of a request at the class table: `none` when it has to wait. -/
def classStep (s : State) (older : List Txn) (t : Txn) : Option State :=
  if t.kind.ofLink && older.any (fun o => o.kind.ofLink && decide (o.aux = t.aux)) then none
  else if !t.classified then some (putTxn s { t with stage := .directory })
  else if older.any fun o => decide (o.gran = t.gran) && decide (o.stage = .classify ∨ o.stage = .drains) then none
  else
    let go (e : ClassEntry) : State :=
      match drainsFor e t with
      | [] => applyClass s t
      | cores =>
        let live := cores.filter fun c => !s.fenced.contains (.core c)
        live.foldl (fun s c => s.send (.drain ⟨t.probeHdr e.ten c, t.gran, 0, 0⟩))
          (putTxn s { t with stage := .drains, owed := live, clean := decide (live.length = cores.length) })
    match s.classes.get? t.gran with
    | some e => some (go e)
    | none =>
      if t.kind = .drop then some (endTxn s t)
      else if t.kind.ofHost then some (go ClassEntry.zero)
      else match classFull s t.gran with
        | (false, _) => some (go ClassEntry.zero)
        | (true, true) => some (putTxn s { t with stage := .directory, answer := 3 })
        | (true, false) =>
          if evicting s t.gran then none
          else match classVictim s t.gran with
            | none => none
            | some v => some (addTxn s { Txn.blank s .drop v 1 with gran := v, slice := t.slice })

/-! ## The directory (R122 to R134) -/

/-- Requests that need the grain to have no other copy (R125). -/
def ReqKind.exclusive : ReqKind → Bool
  | .own | .upg | .wr | .atom | .replica | .recall | .hostWr | .snpInv | .svcWr | .linkWr => true
  | _ => false

/-- Requests that meet a grain as it stands: a snoop of the current data, a partial that comes by itself, a fetch of code (R21). -/
def ReqKind.asIs : ReqKind → Bool
  | .snpCur | .part | .code => true
  | _ => false

def dieOfSlice (slice : Nat) : Nat := slice / 32

/-- The directory entry that a request meets: the one of its grain, its HV cleared once the horizon has passed (R124), or a new one with
the requester's tenant and the block's grain (R122, R123). -/
def State.entryFor (s : State) (t : Txn) : DirEntry :=
  match s.dir.get? t.grain with
  | some e => { e with hv := e.hv && !horizonPassed s.tick e }
  | none => { DirEntry.zero with ten := t.ten, gcode := grainCode s t.loc t.gcode }

/-- The cores to probe before a request can be served, and whether with DOWN (R125, R134). An owner that reads gets DOWN too. -/
def probesFor (e : DirEntry) (t : Txn) : List Nat × Bool :=
  let d := dieOfSlice t.slice
  let owner := 32 * d + e.own
  match e.st with
  | .u => if (decide (t.kind = .upg ∧ t.key = e.ukey)) || decide (t.kind = .part) then ([], false) else (e.holders, false)
  | .m =>
    if t.kind.asIs || decide (owner = t.core ∧ t.kind = .own) then ([], false)
    else if t.kind = .collect then ([], false)
    else ([owner], !t.kind.exclusive)
  | .s =>
    if t.kind = .own ∨ t.kind = .upg then (if t.probed then [] else (e.sharers d).filter fun c => decide (c ≠ t.core), false)
    else if t.kind.exclusive then (e.sharers d, false)
    else ([], false)
  | .i => ([], false)

/-- The 64-byte lines of a range. -/
def linesOf (loc n : Nat) : List Nat := (List.range ((loc % 64 + n + 63) / 64)).map fun i => loc / 64 * 64 + 64 * i

/-- The lines for which the host must answer before a request is served (R135, R136), and the message for one: BISnp for what the host
holds of device memory, RdShared for sectors of host memory that are not there, RdOwn for every line of a grain that is to be
written. -/
def hostNeed (s : State) (e : DirEntry) (t : Txn) : List (Nat × HostMsg) :=
  let grainLines := linesOf t.grain (grainBytes t.loc e.gcode)
  if t.hostOk || (t.kind.ofHost && !(decide (t.kind = .svcRd ∨ t.kind = .svcWr))) || decide (t.kind = .snpCur ∨ t.kind = .part) ||
      decide (t.kind = .replica ∨ t.kind = .collect) then []
  else if tierOf t.loc ≤ 1 then (if e.ha then grainLines.map fun l => (l, .biSnp l t.kind.exclusive) else [])
  else
    let valid (l : Nat) : Bool := match s.tags.get? (blockOf t.loc) with
      | some x => decide (sectorsOf l 64 &&& ~~~x.sv = 0)
      | none => false
    match t.kind with
    | .own | .wr | .atom | .svcWr => if e.ha then [] else grainLines.map fun l => (l, .rdOwn l)
    | .rd | .rdc | .renew | .arm | .svcRd | .code =>
      let want := t.sect ||| sectorsOf t.loc t.size
      if e.ha then [] else ((linesOf (blockOf t.loc) 512).filter fun l => decide (sectorsOf l 64 &&& want ≠ 0) && !valid l).map fun l => (l, .rdShared l)
    | _ => []

/-- Combine the partials a collection gathered, cores ascending, as one write (R134). -/
def combineParts (s : State) (key : Nat) (parts : List (Nat × Nat × BitVec 4 × DWord)) (g : BitVec 2) : State :=
  (List.range 128).foldl (fun s c => (parts.filter fun p => p.1 = c).foldl (fun s p =>
    let n := atomSize p.2.2.1.toNat
    let v := BitVec.ofNat 64 (s.readLoc key p.2.1 n)
    s.perform key p.2.1 (bytesOf n (atomNew p.2.2.1.toNat v p.2.2.2 0).toNat) 0 g) s) s

/-- Whether a write-back or partials that the grain's probes have called for have still to come (R125, R126, R134). -/
def partsOnWay (s : State) (t : Txn) : Bool :=
  let n := grainBytes t.loc (grainCode s t.loc t.gcode)
  let mine (i : Instr) : Bool := match i with
    | .wb f => decide (f.hdr.dst = .slice t.slice ∧ t.grain < f.loc + f.bytes.length ∧ f.loc < t.grain + n)
    | .redp f => decide (f.hdr.dst = .slice t.slice) && f.parts.any fun p => decide (t.grain ≤ p.1 ∧ p.1 < t.grain + n)
    | _ => false
  s.net.any mine || s.flits.any fun f => mine f.instr

/-- Every probe of a request has been answered (R125, R134). -/
def applyProbes (s : State) (t : Txn) : State :=
  let e := s.entryFor t
  let s := match e.st with
    | .u => combineParts s e.ukey t.parts e.gcode
    | _ => s
  let e := s.entryFor t
  let e := match e.st with
    | .u => { e with st := .i, uoh := 0 }
    | .m => if t.kind.exclusive then { e with st := .i, shr := 0 } else { e with st := .s }
    | .s =>
      let self := if t.kind = .own ∨ t.kind = .upg then e.shr &&& (1#16 <<< (t.core % 32 / 2)) else 0
      { e with st := if self = 0 then .i else .s, shr := self }
    | .i => e
  putTxn (s.setDir t.grain e) { t with stage := .directory, parts := [], probed := true }

/-- A location's lease in powers of two of 16 ticks (R130). -/
def leaseCode (e : DirEntry) (t : Txn) : Nat :=
  let ask := if t.kind = .renew then
      (match (List.range 7).find? fun i => decide (t.aux = 16 * 2 ^ i) with
        | some i => i
        | none => 0)
    else 6
  let g := min ask e.lp
  if tierOf t.loc = 2 then min 2 g else g

/-- First location and length of the sectors of a block that a reply carries. -/
def sectorSpan (blk : Nat) (sect : BitVec 16) : Nat × Nat :=
  match (List.range 16).filter sect.getLsbD with
  | [] => (blk, 0)
  | f :: r => (blk + 32 * f, 32 * (r.getLastD f + 1 - f))

/-- Reply with data to the endpoint that asked (R97): the sectors of SECT. In the model `lease` 7 tells a core too that it keeps no copy
(R132); the flit's LOC has g only toward an RDC slice (R130). -/
def replyData (s : State) (t : Txn) (stat : Stat) (lease : Nat) (own : Bool) (bytes : Bool) : State :=
  let blk := blockOf t.loc
  let rd := if t.repl.testBit (coreDie t.core) then blockOf (replicaLoc (coreDie t.core) t.loc) else blk
  let (lo, n) := sectorSpan blk t.sect
  s.send (.rdata ⟨t.hdr t.src, lo, stat, t.sect, grainCode s t.loc t.gcode, t.key, t.strict, t.who, lease, own,
    if bytes then (List.range n).map fun i => s.readByte t.key (rd + (lo - blk) + i) else []⟩)

/-- The class answer of a strict access, and the write acknowledgement with its credit (R100, R146). -/
def replyAck (s : State) (t : Txn) (credit : Bool) : State :=
  if (t.strict && decide (t.core < 128)) || credit then
    s.send (.ack ⟨t.hdr (.core t.core), .classAnswer credit (BitVec.ofNat 2 t.answer) t.mix t.gran⟩)
  else s

/-- MIXCHK at the home (R155): whether an earlier access within 1,024 mesh cycles falls under R154 with this one. -/
def mixCheck (s : State) (t : Txn) : State × Txn :=
  if !t.mixchk || !t.strict then (s, t)
  else
    let now := s.mesh
    let recent := s.mixlog.filter fun m => decide (now - m.mesh ≤ 1024)
    let wr := t.kind.writes
    let hit := recent.any fun m => decide (m.who ≠ t.who) && decide (m.size ≠ t.size) && (m.writes || wr) &&
      decide (m.loc < t.loc + t.size) && decide (t.loc < m.loc + m.size)
    ({ s with mixlog := recent ++ [⟨t.loc, t.size, wr, t.who, now⟩] }, { t with mix := hit })

/-- The class in the region attributes of a request, for the quotas (R66). -/
def txnClass (s : State) (t : Txn) : Nat :=
  match (s.core t.core).trans.get? t.tag with
  | some x => x.acc.attr.cls
  | none => 0

/-- Remove one replica's hold. -/
def releaseReplicas (s : State) (t : Txn) : State :=
  (List.range 4).foldl (fun s d =>
    if t.repl.testBit d && d ≠ homeDie t.loc then
      s.send (.ack ⟨t.hdr (.slice (s.homeOf (replicaLoc d t.loc))), .classAnswer false 0 false (replicaLoc d t.loc)⟩)
    else s) s

/-- The region of the host key map that holds a location (R64). -/
def hostRegion (loc : Nat) : Nat := tierOf loc * 131072 + offOf loc / 2 ^ 21

/-- The key of a host access, none where the region has no V (R64). -/
def State.hostKey (s : State) (loc : Nat) : Option Nat :=
  match s.hostKeys.get? (hostRegion loc) with
  | some b => if 128 ≤ b % 256 then some (b % 64) else none
  | none => none

/-- A host request that the host key map refuses (R64). -/
def State.hostBad (s : State) (t : Txn) : Bool := (s.hostKey t.loc).isNone

/-- A host access meets a cached block under another key (R64): written back and filled again under the host's. -/
def hostMeets (s : State) (t : Txn) (dirty : Bool) : State :=
  let sect := sectorsOf t.loc t.size
  { s with tags := s.tags.modify (blockOf t.loc) fun e =>
      let e := e.under t.key sect
      { e with sv := e.sv ||| sect, sd := if dirty then e.sd ||| sect else e.sd } }

/-- A snoop gives a host grain up whole: its other lines that differ from the host's go back to the host first (R135). -/
def giveBackRest (s : State) (t : Txn) (e : DirEntry) : State :=
  let blk := blockOf t.loc
  let sect := ((linesOf t.grain (grainBytes t.loc e.gcode)).filter fun l => decide (l ≠ t.loc / 64 * 64)).foldl
    (fun m l => m ||| sectorsOf l 64) 0#16
  match s.tags.get? blk with
  | none => if e.ha then writeBack s blk sect else s
  | some x => { writeBack s blk (sect &&& x.sd) with
      tags := s.tags.set blk { x with sd := x.sd &&& ~~~sect, sv := x.sv &&& ~~~(sect &&& x.sd) } }

/-- A core's instruction cache takes a parcel for a launch: 65,536 of them (R12; which one makes room is DESIGN CHOICE, log 89). -/
def State.cacheParcel (s : State) (core launch key loc : Nat) : State :=
  s.modCore core fun m =>
    let old : Table CodeLine := if 65536 ≤ m.code.length ∧ m.code.has loc = false then m.code.tail else m.code
    { m with code := old.set loc ⟨launch, key, BitVec.ofNat 16 (s.readLoc key loc 2)⟩ }

/-- What a write at the home leaves in memory: the data of a store, or the result of an atomic on the value there. -/
def writeBytes (s : State) (t : Txn) : List Byte :=
  if t.kind = .atom then
    let n := atomSize t.aop.toNat
    bytesOf n (atomNew t.aop.toNat (BitVec.ofNat 64 (s.readLoc t.key t.loc n)) t.a t.c).toNat
  else t.bytes

/-- Whether the home may grant U on a grain (R159, R182). -/
def grantsU (s : State) (e : DirEntry) (t : Txn) : Bool :=
  !(s.mons.any fun m => decide (m.2.1 < t.grain + grainBytes t.loc e.gcode) && decide (t.grain < m.2.1 + m.2.2)) &&
    !(decide (tierOf t.loc = 2) && !e.ha)

/-- Serve a request whose turn has come with nothing left to wait for (R125, R130, R132, R133, R159). `hold` says that an
older write to the grain is held: a read is then answered without a copy or a lease. Two overlapping strict accesses of different
sizes are taken whole, one after the other, where R154 also allows an order byte by byte (DESIGN CHOICE, log 15). A refused host read
carries the bytes under the KEYIDX of a region whose V is 0 (DESIGN CHOICE, log 76). -/
def serve (s : State) (t : Txn) (hold : Bool) : State :=
  let (s, t) := mixCheck s t
  let (ctx, lid) := s.partyCtx t.who
  let e := { s.entryFor t with used := s.uses }
  let s := if (s.dir.get? t.grain).isSome then s.setDir t.grain e else s
  let d := dieOfSlice t.slice
  let bit : BitVec 16 := 1#16 <<< (t.core % 32 / 2)
  let cls := if t.kind = .code then t.aux else txnClass s t
  let sect := t.sect ||| sectorsOf t.loc t.size
  let s := match t.kind with
    | .rd | .rdc | .renew | .arm | .own | .code => fillTag s t.loc ctx lid cls t.gcode t.key sect false
    | .svcRd => fillTag s t.loc 256 64 cls t.gcode t.key (sectorsOf t.loc t.size) false
    | .wr | .atom => fillTag s t.loc ctx lid cls t.gcode t.key (sectorsOf t.loc t.size) true
    | .svcWr => fillTag s t.loc 256 64 cls t.gcode t.key (sectorsOf t.loc t.size) true
    | _ => s
  match t.kind with
  | .rd | .arm =>
    let s := if t.kind = .arm then
        let key := match t.who with
          | .ply k => k
          | _ => 0
        let s := { s with mons := s.mons.filter fun m => m.1 ≠ key }
        let atHome := s.mons.filter fun m => s.homeOf m.2.1 = t.slice
        let s := match (if 256 ≤ atHome.length then atHome.head? else none) with
          | some m => wakeMonitor s m
          | none => s
        let s := { s with mons := s.mons ++ [(key, t.grain, grainBytes t.loc e.gcode)] }
        s.modPly key fun p => { p with mon := ⟨.armed, t.loc⟩ }
      else s
    let near := decide (coreDie t.core = d)
    if hold || !near then endTxn (replyData (replyAck s t false) t .done 7 false true) t
    else
      let e := { e with st := .s, shr := e.shr ||| bit }
      endTxn (replyData (replyAck (s.setDir t.grain e) t false) t .done 0 false true) t
  | .rdc | .renew =>
    if hold then endTxn (replyData (replyAck s t false) t .done 7 false true) t
    else
      let g := leaseCode e t
      let e := { e.lease (s.tick + 16 * 2 ^ g + 1) with lp := min 6 (e.lp + 1) }
      let s := (s.setDir t.grain e).send (.watchEvent (.die d) 6 ctx (16 * 2 ^ g))
      endTxn (replyData (replyAck s t false) t .done g false true) t
  | .own =>
    let e := { e with st := .m, own := t.core % 32, shr := bit, lp := 0 }
    endTxn (replyData (replyAck (s.setDir t.grain e) t false) t .done 0 true true) t
  | .upg =>
    if grantsU s e t then
      let e := { e with st := .u, shr := 0, uoh := e.uoh ||| pairOf t.core, ukey := t.key }
      endTxn (replyData (replyAck (s.setDir t.grain e) t false) t .done 0 true false) t
    else endTxn (replyData (replyAck (s.setDir t.grain e) t false) t .done 0 false false) t
  | .wr =>
    let s := s.setDir t.grain { e with st := .i, shr := 0, lp := 0 }
    endTxn (releaseReplicas (replyAck (s.perform t.key t.loc t.bytes t.repl t.gcode) t true) t) t
  | .atom =>
    let s := s.setDir t.grain { e with st := .i, shr := 0, lp := 0 }
    let old := BitVec.ofNat 64 (s.readLoc t.key t.loc (atomSize t.aop.toNat))
    let s := replyAck (s.perform t.key t.loc (writeBytes s t) t.repl t.gcode) t true
    let s := if t.quiet then s else
      s.send (.atomr ⟨t.hdr t.src, t.loc, .done, t.aop, t.a, t.c, old, t.gcode, t.key, t.strict, t.who, false⟩)
    endTxn (releaseReplicas s t) t
  | .replica =>
    (putTxn (s.setDir t.grain { e with st := .i, shr := 0 }) { t with stage := .replicas }).send
      (.ack ⟨t.hdr t.src, .classAnswer true 0 false t.loc⟩)
  | .recall => endTxn (s.setDir t.grain { e with st := .i, shr := 0, uoh := 0, ha := false, lp := 0 }) t
  | .part => endTxn (combineParts s e.ukey t.parts e.gcode) t
  | .drop | .collect | .svcRd => endTxn s t
  | .svcWr => endTxn (s.setDir t.grain { e with st := .i, shr := 0 }) t
  | .code => endTxn ((List.range 32).foldl (fun s i => s.cacheParcel t.core (ctx * 64 + lid) t.key (t.loc + 2 * i)) s) t
  | .hostRd =>
    let refused := s.hostBad t
    let s := if refused then s else hostMeets s t false
    let s := if t.aux % 2 = 1 then s.setDir t.grain { e with ha := true } else s
    let all := (List.range t.len).map fun i => s.readByte t.key (t.base + i)
    let s := if refused then s.tellHost (.error 1) else s
    endTxn (if t.quiet then s else s.tellHost (.memData t.a.toNat refused all)) t
  | .hostWr =>
    let s := s.setDir t.grain { e with st := .i, shr := 0, lp := 0 }
    let s := if s.hostBad t then s.tellHost (.error 1) else (hostMeets s t true).perform t.key t.loc t.bytes 0 t.gcode
    endTxn (if t.quiet then s else s.tellHost (.memDone t.a.toNat)) t
  | .linkRd =>
    let all := (List.range t.len).map fun i => s.readByte t.key (t.base + i)
    endTxn (if t.quiet then s else s.tellHost (.peerData t.aux t.tag false all)) t
  | .linkWr =>
    let s := s.setDir t.grain { e with st := .i, shr := 0, lp := 0 }
    let s := (hostMeets s t true).perform t.key t.loc t.bytes 0 t.gcode
    endTxn (if t.quiet then s else s.tellHost (.peerAck t.aux t.tag false)) t
  | .snpInv | .snpData | .snpCur =>
    let tag := s.tags.get? (blockOf t.loc)
    let modified := e.ha && (match tag with
      | some x => decide (x.sd &&& sectorsOf t.loc 64 ≠ 0)
      | none => true)
    let bytes := (List.range t.size).map fun i => s.readByte t.key (t.loc + i)
    let clean (x : TagEntry) (keep : Bool) : TagEntry :=
      { x with sd := x.sd &&& ~~~(sectorsOf t.loc 64), sv := if keep then x.sv else x.sv &&& ~~~(sectorsOf t.loc 64) }
    let s := match t.kind with
      | .snpInv =>
        let s := giveBackRest s t e
        let s := evictTag { s with tags := s.tags.modify (blockOf t.loc) (clean · false) } (blockOf t.loc)
        monWake (s.setDir t.grain { e with st := .i, shr := 0, ha := false, lp := 0 }) t.grain (grainBytes t.loc e.gcode)
      | .snpData =>
        let s := giveBackRest s t e
        { s.setDir t.grain { e with ha := false } with tags := s.tags.modify (blockOf t.loc) (clean · true) }
      | _ => s
    endTxn (s.tellHost (.snoopReply t.loc modified bytes)) t

/-- Refuse an access to a withdrawn granule (R89): STAT says so where data or an old value is awaited, and MIX with class UNSEEN in the
ACK of a write that awaits none (DESIGN CHOICE, log 80). -/
def refuse (s : State) (t : Txn) : State :=
  let t := { t with answer := 0 }
  match t.kind with
  | .wr => endTxn (replyAck s { t with mix := true } true) t
  | .atom =>
    if t.quiet then endTxn (replyAck s { t with mix := true } true) t
    else endTxn (replyAck (s.send (.atomr ⟨t.hdr t.src, t.loc, .memlost, t.aop, t.a, t.c, 0, t.gcode, t.key, t.strict, t.who, false⟩)) t true) t
  | _ => endTxn (replyAck (replyData s t .memlost 7 false false) t false) t

/-- Refuse a peer's request that meets a withdrawn granule: what is left of it goes (R89, R458). -/
def refuseLink (s : State) (t : Txn) : State :=
  let s := { s with txns := s.txns.filter fun o => !(o.kind.ofLink && decide (o.aux = t.aux ∧ o.tag = t.tag)) }
  s.tellHost (if t.kind = .linkRd then .peerData t.aux t.tag true [] else .peerAck t.aux t.tag true)

/-- The blocks of a slice that hold directory entries (R122). -/
def dirBlocks (s : State) (slice : Nat) : List (Nat × DirEntry) :=
  List.filter (fun (x : Nat × DirEntry) => decide (s.homeOf x.1 = slice) && !x.2.free) s.dir

/-- Entries of a slice in use (R122): a block that is known to the directory holds one for each of its grains. -/
def dirCount (s : State) (slice : Nat) : Nat :=
  let l := dirBlocks s slice
  ((l.map fun x => (blockOf x.1, x.2.gcode)).eraseDups.map fun b => 512 / grainBytes b.1 b.2).sum

/-- Recall the least recently used block's entries of a slice (R122): one request for each of its grains. -/
def recallOldest (s : State) (slice : Nat) : State :=
  let mine := dirBlocks s slice
  let usedOf (b : Nat) : Nat := (mine.filter fun x => blockOf x.1 = b).foldl (fun n x => max n x.2.used) 0
  match ((mine.map fun x => blockOf x.1).eraseDups).foldl (fun (a : Option Nat) b => match a with
    | none => some b
    | some y => if usedOf b < usedOf y then some b else some y) none with
  | none => s
  | some b =>
    (mine.filter fun x => blockOf x.1 = b).foldl (fun s x =>
      monWake (addTxn s { Txn.blank s .recall x.1 x.2.gcode with grain := x.1, stage := .directory, ten := x.2.ten, wcls := x.2.ten }) x.1
        (grainBytes x.1 x.2.gcode)) s

/-- The partner of a fenced slice performs no write to its locations for 1,025 ticks (R137). -/
def State.sliceFree (s : State) (loc : Nat) : Bool :=
  match s.sliceHold.get? (homeSlice loc) with
  | some h => decide (h ≤ s.tick)
  | none => true

/-- Whether a read is answered although an older write to the grain is held: not the reads of the writing core itself (R132). -/
def readsPast (e : DirEntry) (busy : List Txn) (t : Txn) : Bool :=
  decide (t.kind = .rd ∨ t.kind = .rdc ∨ t.kind = .renew) && decide (e.st ≠ .u) &&
    busy.all fun o => o.kind.exclusive && decide (o.kind ≠ .replica ∧ o.kind ≠ .recall ∧ o.core ≠ t.core)

/-- The turn of a request at the directory: `none` when it has to wait. -/
def dirStep (s : State) (older : List Txn) (t : Txn) : Option State :=
  let busy := older.filter fun o => decide (o.grain = t.grain) && decide (o.stage ≠ .classify) && decide (o.stage ≠ .drains) &&
    decide (o.kind ≠ .drop)
  let e := s.entryFor t
  let wd := s.withdrawn.contains (granuleOf t.loc)
  if wd && t.kind.ofLink then some (refuseLink s t)
  else if wd && t.kind.ofCore then some (refuse s t)
  else if wd && decide (t.kind = .hostRd) then
    some (endTxn (if t.quiet then s else
      (s.tellHost (.memData t.a.toNat true (List.replicate t.len 0))).tellHost (.error 2)) t)
  else if !busy.isEmpty then (if readsPast e busy t then some (serve s t true) else none)
  else if (s.dirOf t.grain).free && !t.kind.asIs && decide (65536 < dirCount s t.slice + 512 / grainBytes t.loc e.gcode) then
    if s.txns.any fun o => decide (o.kind = .recall ∧ o.slice = t.slice) then none else some (recallOldest s t.slice)
  else
    match probesFor e t with
    | (c :: cs, down) =>
      let cores := (c :: cs).filter fun c => !s.fenced.contains (.core c)
      some (cores.foldl (fun s c =>
        let f : ProbeFlit := ⟨t.probeHdr e.ten c, t.grain, e.gcode, 0⟩
        s.send (if down then .down f else .inv f)) (putTxn s { t with stage := .probes, owed := cores, parts := [] }))
    | ([], _) =>
      match hostNeed s e t with
      | m :: ms =>
        let window := ((s.txns.filter fun o => decide (dieOfSlice o.slice = dieOfSlice t.slice)).map (·.lines.length)).sum
        if 32768 ≤ window then none
        else some ((m :: ms).foldl (fun s x => s.tellHost x.2) (putTxn s { t with stage := .host, lines := (m :: ms).map (·.1) }))
      | [] =>
        if (t.kind.exclusive || decide (t.kind = .part)) && !((horizonPassed s.tick e || decide (t.kind = .part)) && s.sliceFree t.loc) then none
        else if (decide (t.kind = .wr ∨ t.kind = .atom)) && decide (t.repl ≠ 0) && !t.replOk then
          let dies := (List.range 4).filter fun d => t.repl.testBit d && decide (d ≠ homeDie t.loc)
          let bytes := writeBytes s t
          some (dies.foldl (fun s d =>
            let l := replicaLoc d t.loc
            s.send (.wr ⟨t.hdr (.slice (s.homeOf l)), l, .done, sectorsOf l t.size, t.gcode, t.key, t.strict, t.who, 0, false, bytes⟩))
            (putTxn s { t with stage := if dies.isEmpty then .directory else .replicas, owed := dies, replOk := dies.isEmpty }))
        else some (serve s t false)

/-- One move of one request, if it has one. -/
def txnStep (s : State) (older : List Txn) (t : Txn) : Option State :=
  match t.stage with
  | .classify => classStep s older t
  | .drains => if t.owed.isEmpty then some (applyClass s t) else none
  | .directory => dirStep s older t
  | .probes => if t.owed.isEmpty && !partsOnWay s t then some (applyProbes s t) else none
  | .host => if t.lines.isEmpty then some (putTxn s { t with stage := .directory, hostOk := true }) else none
  | .replicas => if t.replOk && t.owed.isEmpty && decide (t.kind ≠ .replica) then some (putTxn s { t with stage := .directory }) else none

/-- The first request that can move. -/
def firstMove (s : State) : List Txn → List Txn → Option State
  | _, [] => none
  | older, t :: ts => match txnStep s older t with
    | some s' => some s'
    | none => firstMove s (older ++ [t]) ts

/-- Let the homes work until nothing more can move; the fuel bounds the moves of one message. -/
def pump : Nat → State → State
  | 0, s => s
  | n + 1, s => match firstMove s [] s.txns with
    | some s' => pump n s'
    | none => s

def State.pumpAll (s : State) : State := pump (64 + 16 * s.txns.length) s

/-- Whether some held write could be performed now (R125). -/
def heldReady (s : State) (slice : Nat) : Bool :=
  s.txns.any fun t => decide (t.slice = slice) && decide (t.stage = .directory) && t.kind.exclusive &&
    horizonPassed s.tick (s.dirOf t.grain) && s.sliceFree t.loc

/-- HELD_WRITE_PERFORMANCE: writes of the slice whose horizon has passed are performed (R125, R132, R138). -/
def execHeldWritePerformance (slice : Nat) (s : State) : Out := if heldReady s slice then .next s.pumpAll else .next s

/-- BURNISHER_SWEEP: HV is cleared wherever the horizon has passed (R124). -/
def execBurnisherSweep (s : State) : Out :=
  let clean := List.filterMap (fun (x : Nat × DirEntry) =>
    let e := { x.2 with hv := x.2.hv && !horizonPassed s.tick x.2 }
    if e.free && e.lp = 0 then none else some (x.1, e)) s.dir
  .next { s with dir := clean }

/-- Ask the homes to collect the partials of grains (R134, R168). -/
def askCollect (s : State) (grains : List Nat) : State :=
  grains.foldl (fun s g =>
    let e := s.dirOf g
    if e.st ≠ .u ∨ s.txns.any (fun t => decide (t.kind = .collect ∧ t.grain = g)) then s
    else addTxn s { Txn.blank s .collect g e.gcode with grain := g, stage := .directory, ten := e.ten, wcls := e.ten }) s

end Sys2Proof.Machine
end

