-- ==== Sys2Proof/Machine/Access.lean ====
section
/-! DEFINITION. The core's side of memory accesses: the L1 (R12, R125, R129), the class cache (R149), strict and overlapped accesses
(R149 to R152), L1 and RDC hits (R129 to R131), update-only partials (R133), and the probes a core answers (R126, R148, R159). -/

namespace Sys2Proof.Machine

/-- How an access goes: performed now with the value read; sent as a strict access, which its party waits for; sent as an overlapped
one; or not made yet, because an access of the party to the same bytes is outstanding (R151). -/
inductive AccRes where
  | now (old : QWord) (s : State)
  | sent (s : State)
  | overlapped (s : State)
  | blocked
deriving DecidableEq, Repr

/-! ## Class cache (R149) -/

def clsSet (gran : Nat) : Nat := bitsAt gran 12 6 ^^^ bitsAt gran 18 6 ^^^ bitsAt gran 24 6

/-- Install an entry, replacing the least recently used one of a full set. -/
def installCls (s : State) (core gran : Nat) (e : ClsLine) : State :=
  let s := s.use
  s.modCore core fun m =>
    let same := List.filter (fun (x : Nat × ClsLine) => decide (clsSet x.1 = clsSet gran) && decide (x.1 ≠ gran)) m.cls
    let old := if same.length < 8 then none else same.foldl (fun (a : Option (Nat × ClsLine)) x => match a with
      | none => some x
      | some y => if x.2.used < y.2.used then some x else some y) none
    let t := match old with
      | some x => m.cls.erase x.1
      | none => m.cls
    { m with cls := t.set gran { e with used := s.uses } }

/-- Note a use of an entry, and a write by its owner (R146 S). -/
def touchCls (s : State) (core gran : Nat) (wr : Bool) : State :=
  let s := s.use
  s.modCore core fun m => { m with cls := m.cls.modify gran fun e => { e with used := s.uses, sbit := e.sbit || wr } }

/-! ## Leases and the RDC (R129 to R131) -/

/-- A lease end is far enough away for a hit: at least 32 mesh cycles (R131). -/
def leaseGood (s : State) (e : Nat) : Bool :=
  let d := (e + 2 ^ 24 - s.tick % 2 ^ 24) % 2 ^ 24
  decide (d < 2 ^ 23) && decide (32 + s.mesh % 24 ≤ 24 * d)

/-- The earlier of two lease ends (R130). -/
def leaseEarlier (a b : Nat) : Nat := if (a + 2 ^ 24 - b) % 2 ^ 24 < 2 ^ 23 then b else a

def State.rdcBlock (s : State) (r loc : Nat) : Option RdcBlock := (s.rdc.getD r []).get? (blockOf loc)

def State.setRdc (s : State) (r blk : Nat) (b : Option RdcBlock) : State :=
  let t := s.rdc.getD r []
  { s with rdc := s.rdc.set r (match b with
    | some x => t.set blk x
    | none => t.erase blk) }

/-- The block of a die's RDC slice that holds sectors under a key. -/
def rdcHolds (s : State) (core loc : Nat) (sect : BitVec 16) (key : Nat) : Option RdcBlock :=
  match s.rdcBlock (s.rdcOf (coreDie core) loc) loc with
  | some b => if b.key = key ∧ sect &&& ~~~b.sv = 0 then some b else none
  | none => none

/-! ## The L1 (R12, R125, R126, R129) -/

/-- TAG of a write-back or a partial that no request has called for: no request takes it (R96, R100; DESIGN CHOICE, log 74). -/
def noTag : Nat := 4095

/-- Send a core's modified sectors of a block home (R126). -/
def sendWb (s : State) (h : Hdr) (blk : Nat) (l : L1Line) (sd : BitVec 16) : State :=
  if sd = 0 then s
  else
    let (lo, n) := sectorSpan blk sd
    s.send (.wb ⟨h, lo, .done, sd, grainCode s blk 1, l.key, false, .host, 0, false, (List.range n).map fun i => s.readByte l.key (lo + i)⟩)

/-- The header of a core's write-back or partial that no probe has asked for. -/
def homeHdr (s : State) (core ten loc : Nat) : Hdr := ⟨noTag, ten, ten, .core core, .slice (s.homeOf loc)⟩

/-- A block leaves a core's L1: what differs from the home goes there. -/
def evictL1 (s : State) (core blk : Nat) : State :=
  match (s.core core).l1.get? blk with
  | none => s
  | some l =>
    (sendWb s (homeHdr s core l.ten blk) blk l l.sd).modCore core fun m => { m with l1 := m.l1.erase blk }

/-- Put sectors of a block into a core's L1. It holds 512 blocks, and the least recently used one makes room (R12; DESIGN CHOICE, log 12).
A block of another die carries the lease end of the RDC block it came from (R129): the earlier one, when old sectors stay. -/
def fillL1 (s : State) (core blk key ten : Nat) (sect own : BitVec 16) (lease : Option Nat) : State :=
  let s := s.use
  let s := match (s.core core).l1.get? blk with
    | some l => if l.key = key then s else evictL1 s core blk
    | none => s
  match (s.core core).l1.get? blk with
  | some l =>
    let lease := match l.lease, lease with
      | some a, some b => some (if l.sv &&& ~~~sect = 0 then b else leaseEarlier a b)
      | _, e => e
    let l := { l with ten := ten, sv := l.sv ||| sect, own := l.own ||| own, lease := lease, used := s.uses }
    s.modCore core fun m => { m with l1 := m.l1.set blk l }
  | none =>
    let old := if (s.core core).l1.length < 512 then none else (s.core core).l1.foldl (fun (a : Option (Nat × L1Line)) x => match a with
      | none => some x
      | some y => if x.2.used < y.2.used then some x else some y) none
    let s := match old with
      | some x => evictL1 s core x.1
      | none => s
    s.modCore core fun m => { m with l1 := m.l1.set blk ⟨key, ten, sect, 0, own, lease, s.uses⟩ }

/-- A use of a block, which a store leaves different from the home in some sectors. -/
def touchL1 (s : State) (core blk : Nat) (sd : BitVec 16) : State :=
  let s := s.use
  s.modCore core fun m => { m with l1 := m.l1.modify blk fun l => { l with sd := l.sd ||| sd, used := s.uses } }

/-- Whether the L1 serves sectors under a key: they are valid, not of a grain held in state U, and under a good lease if they are
another die's (R129, R131, R134). -/
def l1Serves (s : State) (core loc : Nat) (sect : BitVec 16) (key : Nat) (g : BitVec 2) : Bool :=
  let m := s.core core
  !m.ugrains.has (grainBase s loc g) && (match m.l1.get? (blockOf loc) with
    | some l => decide (l.key = key) && decide (sect &&& ~~~l.sv = 0) && (match l.lease with
      | some e => leaseGood s e
      | none => true)
    | none => false)

/-- Whether a core owns sectors of a block (R125). -/
def l1Owns (s : State) (core loc : Nat) (sect : BitVec 16) (key : Nat) : Bool :=
  match (s.core core).l1.get? (blockOf loc) with
  | some l => decide (l.key = key) && decide (sect &&& ~~~(l.own &&& l.sv) = 0)
  | none => false

/-- The sectors of the grain of a location. -/
def grainSects (s : State) (loc : Nat) (g : BitVec 2) : BitVec 16 := sectorsOf (grainBase s loc g) (grainBytes loc (grainCode s loc g))

/-- Drop sectors of a block from an L1, or take their ownership away. -/
def L1Line.without (l : L1Line) (sect : BitVec 16) (drop : Bool) : L1Line :=
  { l with sv := if drop then l.sv &&& ~~~sect else l.sv, sd := l.sd &&& ~~~sect, own := l.own &&& ~~~sect }

def dropL1 (m : CoreMem) (blk : Nat) (sect : BitVec 16) (drop : Bool) : CoreMem :=
  match m.l1.get? blk with
  | none => m
  | some l =>
    let l := l.without sect drop
    { m with l1 := if l.sv = 0 then m.l1.erase blk else m.l1.set blk l }

/-- Every copy of a granule leaves the L1s and the RDC slices, when it is withdrawn (R88). -/
def dropCopies (s : State) (gran : Nat) : State :=
  { s with
    cores := List.map (fun (x : Nat × CoreMem) => (x.1, { x.2 with l1 := x.2.l1.filter fun b _ => !decide (granuleOf b = gran) })) s.cores
    rdc := List.map (fun (x : Nat × Table RdcBlock) => (x.1, x.2.filter fun b _ => !decide (granuleOf b = gran))) s.rdc }

/-! ## Performing -/

/-- A device store to a range with STWATCH is an event of stream 5 (R61, R475). -/
def noteStore (s : State) (core ctx : Nat) (a : Attr) (va : DWord) : State :=
  if a.stwatch then s.send (.watchEvent (.core core) 5 ctx va.toNat) else s

def Acc.replicas (a : Acc) : Nat := if a.attr.repl then a.attr.repmask else 0

/-- Bytes of memory that an access reads or writes. -/
def Acc.bytes (a : Acc) : Nat := match a.kind with
  | .atom | .red => atomSize a.aop.toNat
  | _ => a.size

def AccKind.writes : AccKind → Bool
  | .store | .atom | .red => true
  | _ => false

/-- Where a load of a core finds its value: in its die's replica when the range has one there (R65). -/
def Acc.at (a : Acc) (core : Nat) : Nat :=
  if a.attr.repl && a.attr.repmask.testBit (coreDie core) then replicaLoc (coreDie core) a.loc else a.loc

/-- Perform an access on memory: the value read and the state after (R139 to R141, R165, R180). -/
def performAcc (s : State) (core : Nat) (a : Acc) : QWord × State :=
  let n := a.bytes
  match a.kind with
  | .load | .mona => (BitVec.ofNat 128 (s.readLoc a.attr.key (a.at core) n), s)
  | .store => (0, s.perform a.attr.key a.loc (bytesOf n a.data.toNat) a.replicas a.attr.grain)
  | .atom | .red =>
    let old := BitVec.ofNat 64 (s.readLoc a.attr.key a.loc n)
    let new := atomNew a.aop.toNat old (a.data.setWidth 64) a.cmp
    (old.setWidth 128, s.perform a.attr.key a.loc (bytesOf n new.toNat) a.replicas a.attr.grain)
  | .pref => (0, s)

/-- Perform an access in the core's L1, on a grain it owns when the access writes (R125, R181). -/
def performL1 (s : State) (core : Nat) (a : Acc) : AccRes :=
  let r := performAcc s core a
  .now r.1 (touchL1 r.2 core (blockOf a.loc) (if a.kind.writes then sectorsOf a.loc a.bytes else 0))

/-! ## Requests to homes -/

/-- The endpoint a core reads through: itself on the home die, its die's RDC slice otherwise (R55, R117). -/
def readEndpoint (s : State) (core loc : Nat) : Endpoint :=
  if coreDie core = homeDie loc then .core core else .rdc (s.rdcOf (coreDie core) loc)

/-- Which message an access sends when its home must act (R125, R133, R159, R181, R182). -/
inductive Ask where
  | rd | own | upg | arm | wr | atomq
deriving DecidableEq, Repr

/-- A TAG that no outstanding request of the core has (R96). -/
def freeTag (m : CoreMem) : Nat :=
  (((List.range (m.trans.length + 1)).map fun i => (m.nextTag + i) % noTag).find? fun t => !m.trans.has t).getD m.nextTag

/-- Remember a request of a core under a free TAG. -/
def remember (s : State) (who : Party) (core : Nat) (a : Acc) (strict byAck keeps : Bool) (wtag : Nat) : Nat × State :=
  let tag := freeTag (s.core core)
  let s := s.use
  (tag, s.modCore core fun m => { m with
    nextTag := (tag + 1) % noTag
    trans := m.trans.set tag ⟨who, a, strict, wtag, s.tick, s.uses, true, strict || byAck, byAck, false, false, keeps⟩ })

/-- Ask for sectors of a block to read (R55, R129 to R131): a block that the RDC slice holds under an ended lease is renewed, with every
valid sector. -/
def sendRead (s : State) (core : Nat) (h : Endpoint → Hdr) (loc : Nat) (sect : BitVec 16) (g : BitVec 2) (key : Nat) (strict : Bool)
    (who : Party) : State :=
  let src := readEndpoint s core loc
  let f (sect : BitVec 16) (aux : Nat) : ReqFlit := ⟨h src, blockOf loc, sect, g, key, strict, who, aux⟩
  match (if src = .core core then none else rdcHolds s core loc sect key) with
  | some b => if leaseGood s b.e then s.send (.rd (f sect 0)) else s.send (.renew (f (b.sv ||| sect) (min 1024 (2 * b.lease))))
  | none => s.send (.rd (f sect 0))

/-- Send an access to its home, or a load to the home of location `loc`, and remember it until its answers (R96 TAG); ownership is asked
for the whole grain. -/
def sendAccess (s : State) (who : Party) (core : Nat) (a : Acc) (loc : Nat) (k : Ask) (strict : Bool) (wtag : Nat) : State :=
  let (ctx, _) := s.partyCtx who
  let byAck := decide (k = .wr) || (decide (k = .atomq) && decide (a.kind = .red))
  let (tag, s) := remember s who core a strict byAck true wtag
  let h (src : Endpoint) : Hdr := hdrOf s ctx tag src (.slice (s.homeOf loc))
  let sect := sectorsOf loc a.bytes
  let req (sect : BitVec 16) : ReqFlit := ⟨h (.core core), blockOf loc, sect, a.attr.grain, a.attr.key, strict, who, 0⟩
  match k with
  | .rd => sendRead s core h loc sect a.attr.grain a.attr.key strict who
  | .own => s.send (.rdo (req (grainSects s loc a.attr.grain)))
  | .upg => s.send (.upg (req 0))
  | .arm => s.send (.arm (req sect))
  | .wr => s.send (.wr ⟨h (.core core), loc, .done, sect, a.attr.grain, a.attr.key, strict, who, 0, false, bytesOf a.bytes a.data.toNat⟩)
  | .atomq => s.send (.atomq ⟨h (.core core), loc, .done, a.aop, a.data.setWidth 64, a.cmp, 0, a.attr.grain, a.attr.key, strict, who,
      decide (a.kind = .red)⟩)

/-- The written sectors leave the die's RDC when a write goes to another die (R129). -/
def dropRdc (s : State) (core : Nat) (a : Acc) : State :=
  if coreDie core = homeDie a.loc then s
  else
    let r := s.rdcOf (coreDie core) a.loc
    match s.rdcBlock r a.loc with
    | some b =>
      let sv := b.sv &&& ~~~(sectorsOf a.loc a.bytes)
      s.setRdc r (blockOf a.loc) (if sv = 0 then none else some { b with sv := sv })
    | none => s

/-- A store or an atomic that its home performs: the written sectors leave the core's L1 and its die's RDC (R125, R129). -/
def sendWrite (s : State) (who : Party) (core : Nat) (a : Acc) (k : Ask) (strict : Bool) (wtag : Nat) : State :=
  let s := (dropRdc s core a).modCore core fun m => dropL1 m (blockOf a.loc) (sectorsOf a.loc a.bytes) true
  sendAccess s who core a a.loc k strict wtag

/-! ## Update-only partials (R133) -/

/-- Bytes of a partial: a word or a pair. -/
def Partial.size (p : Partial) : Nat := atomSize p.op.toNat

/-- Send one partial home before its grain is collected (R133). -/
def sendPartial (s : State) (core ten loc : Nat) (p : Partial) : State :=
  (s.send (.redp ⟨homeHdr s core ten loc, loc, core, [(loc, p.op, p.val)]⟩)).modCore core fun m => { m with partials := m.partials.erase loc }

/-- Combine a RED into the L1 partial of its word or pair (R133); a partial of it with another operation goes home first. -/
def combineRed (s : State) (who : Party) (core : Nat) (a : Acc) : State :=
  let (ctx, _) := s.partyCtx who
  let n := a.bytes
  let s := (List.filter (fun (x : Nat × Partial) => decide (x.1 < a.loc + n ∧ a.loc < x.1 + x.2.size) && !decide (x.1 = a.loc ∧ x.2.op = a.aop))
    (s.core core).partials).foldl (fun s x => sendPartial s core (s.ctx ctx).tenant x.1 x.2) s
  let old := match (s.core core).partials.get? a.loc with
    | some p => p.val
    | none => redIdent a.aop.toNat
  let p : Partial := ⟨a.aop, atomNew a.aop.toNat old (a.data.setWidth 64) 0, (s.ctx ctx).pasid, pageOf a.va⟩
  s.modCore core fun m => { m with partials := m.partials.set a.loc p }

/-! ## One access (R149 to R152, R177, R181, R182) -/

/-- The accesses of a party that are not performed yet and meet some bytes, the latest first (R151). -/
def pendingAt (s : State) (who : Party) (core loc n : Nat) : List Trans :=
  let l := (List.map (fun (x : Nat × Trans) => x.2) (s.core core).trans).filter fun t =>
    decide (t.who = who) && t.reply && decide (t.acc.kind ≠ .pref) && decide (t.acc.loc < loc + n) && decide (loc < t.acc.loc + t.acc.bytes)
  l.foldl (fun acc t => (acc.filter fun u => t.order < u.order) ++ t :: acc.filter fun u => !decide (t.order < u.order)) []

/-- What the party's own outstanding accesses say to a new one (R151): nothing, the value of the latest store that covers a load, or that
it has to wait. -/
inductive Own where
  | clear
  | forward (x : QWord)
  | wait
deriving DecidableEq, Repr

def ownAccesses (s : State) (who : Party) (core : Nat) (a : Acc) : Own :=
  match pendingAt s who core a.loc a.bytes with
  | [] => .clear
  | t :: ts =>
    if a.kind = .load then
      if !(t :: ts).any (·.acc.kind.writes) then .clear
      else if t.acc.kind = .store ∧ t.acc.loc ≤ a.loc ∧ a.loc + a.bytes ≤ t.acc.loc + t.acc.bytes then
        .forward (BitVec.ofNat 128 (t.acc.data.toNat / 2 ^ (8 * (a.loc - t.acc.loc)) % 2 ^ (8 * a.bytes)))
      else .wait
    else .wait

/-- One access of a party: an overlapped access lets the party go on, performed at once where its L1 or RDC serves it and sent to the home
otherwise; a strict one is performed at an L1 or RDC hit of a SHARED granule, and else sent. Its class is read when it is made
(DEDUCED, log 30). -/
def access (s : State) (who : Party) (core : Nat) (a : Acc) (wtag : Nat) : AccRes :=
  let gran := granuleOf a.loc
  let m := s.core core
  let (ctx, _) := s.partyCtx who
  let cls := (m.cls.get? gran).map fun l => (l.cls, l.owner)
  let mine := decide (cls = some (.priv, some who))
  let shared := (match cls with
    | some (.shared, _) => true
    | _ => false)
  let readonly := (match cls with
    | some (.readonly, _) => true
    | _ => false)
  let near := decide (coreDie core = homeDie a.loc)
  let sect := sectorsOf a.loc a.bytes
  let owned := near && !a.attr.repl && l1Owns s core a.loc sect a.attr.key && !m.ugrains.has (grainBase s a.loc a.attr.grain)
  match ownAccesses s who core a with
  | .wait => .blocked
  | .forward x => .now x (touchCls s core gran false)
  | .clear =>
    let s := touchCls s core gran (a.kind.writes && mine)
    let s := if a.kind = .store then noteStore s core ctx a.attr a.va else s
    let put (s : State) (strict : Bool) : AccRes := if strict then .sent s else .overlapped s
    match a.kind with
    | .mona => .sent (sendAccess s who core a a.loc .arm true wtag)
    | .red =>
      if a.attr.repl then put (sendWrite s who core a .atomq (!mine) wtag) (!mine)
      else if m.ugrains.get? (grainBase s a.loc a.attr.grain) = some a.attr.key then .now 0 (combineRed s who core a)
      else .sent (sendAccess s who core a a.loc .upg true wtag)
    | .load =>
      let at' := if cls.isSome then a.at core else a.loc
      let sect := sectorsOf at' a.bytes
      let far := decide (coreDie core ≠ homeDie at')
      if mine || readonly || shared then
        if l1Serves s core at' sect a.attr.key a.attr.grain then
          let r := performAcc s core a
          .now r.1 (touchL1 r.2 core (blockOf at') 0)
        else match (if far && !m.ugrains.has (grainBase s at' a.attr.grain) then rdcHolds s core at' sect a.attr.key else none) with
          | some b =>
            if leaseGood s b.e then
              let r := performAcc s core a
              .now r.1 (fillL1 r.2 core (blockOf at') b.key b.ten sect 0 (some b.e))
            else put (sendAccess s who core a at' .rd shared wtag) shared
          | none => put (sendAccess s who core a at' .rd shared wtag) shared
      else .sent (sendAccess s who core a a.loc .rd true wtag)
    | .store =>
      if (mine || shared) && owned then performL1 s core a
      else if near && !a.attr.repl then put (sendAccess s who core a a.loc .own (!mine) wtag) (!mine)
      else put (sendWrite s who core a .wr (!mine) wtag) (!mine)
    | .atom =>
      if (mine || shared) && owned then performL1 s core a
      else put (sendWrite s who core a .atomq (!mine) wtag) (!mine)
    | .pref => .now 0 s

/-! ## Requests at their homes -/

/-- The transaction of the core that a request names. -/
def transOf (s : State) (who : Party) (h : Hdr) : Option Trans :=
  match (s.core (partyCore who)).trans.get? h.tag with
  | some t => if t.who = who then some t else none
  | none => none

/-- A request flit as work for its home (R96): the access itself is known to the core's transaction. A load that a replica serves names
the replica's location, and its granule is the master's (R165). -/
def reqTxn (s : State) (k : ReqKind) (f : ReqFlit) : Txn :=
  let b := Txn.blank s k f.loc f.grain
  let base := { b with who := f.owner, core := partyCore f.owner, tag := f.hdr.tag, ten := f.hdr.ten, wcls := f.hdr.cls, src := f.hdr.src,
                       sect := f.sect, key := f.key, strict := f.strict, aux := f.aux }
  match transOf s f.owner f.hdr with
  | some t =>
    let l := f.loc + t.acc.loc % 512
    { base with loc := l, size := t.acc.bytes, gran := granuleOf t.acc.loc, grain := grainBase s l f.grain,
                slice := s.homeOf l, repl := t.acc.replicas, mixchk := t.acc.attr.mixchk }
  | none =>
    let first := ((List.range 16).find? f.sect.getLsbD).getD 0
    let l := f.loc + 32 * first
    { base with loc := l, size := 32, gran := granuleOf l, grain := grainBase s l f.grain, slice := s.homeOf l }

def takeReq (k : ReqKind) (f : ReqFlit) (s : State) : Out :=
  let t := reqTxn s k f
  .next (addTxn s t).pumpAll

/-- RD at a home (R125, R132): from a core of the die, or from an RDC slice under a lease. -/
def execRd (f : ReqFlit) (s : State) : Out :=
  takeReq (match f.hdr.src with
    | .rdc _ => .rdc
    | _ => .rd) f s
/-- RDO at a home (R125). -/
def execRdo (f : ReqFlit) (s : State) : Out := takeReq .own f s
/-- UPG at a home (R125, R133): with sectors it asks for ownership, with none for the update-only state. -/
def execUpg (f : ReqFlit) (s : State) : Out := takeReq (if f.sect = 0 then .upg else .own) f s
/-- ARM at a home (R159, R184). -/
def execArm (f : ReqFlit) (s : State) : Out := takeReq .arm f s
/-- RENEW at a home (R130). -/
def execRenew (f : ReqFlit) (s : State) : Out := takeReq .renew f s

/-- A write at its home, as work: what its core's transaction says of replicas and MIXCHK comes with it. -/
def writeTxn (s : State) (k : ReqKind) (h : Hdr) (who : Party) (loc size : Nat) (g : BitVec 2) (key : Nat) (strict : Bool) : Txn :=
  { Txn.blank s k loc g with
    who := who, core := partyCore who, tag := h.tag, ten := h.ten, wcls := h.cls, src := h.src, size := size, key := key, strict := strict
    repl := match transOf s who h with
      | some t => t.acc.replicas
      | none => 0
    mixchk := match transOf s who h with
      | some t => t.acc.attr.mixchk
      | none => false }

/-- WR at a home (R125): a store of a core, or a master's write to a replica (R165). -/
def execWr (f : DataFlit) (s : State) : Out :=
  let k : ReqKind := match f.hdr.src with
    | .slice _ => .replica
    | _ => .wr
  let t := writeTxn s k f.hdr f.owner f.loc f.bytes.length f.grain f.key (f.strict && decide (k = .wr))
  .next (addTxn s { t with sect := f.sect, bytes := f.bytes }).pumpAll

/-- ATOMQ at a home (R125, R181). -/
def execAtomq (f : AtomFlit) (s : State) : Out :=
  let t := writeTxn s .atom f.hdr f.owner f.loc (atomSize f.op.toNat) f.grain f.key f.strict
  .next (addTxn s { t with aop := f.op, a := f.a, c := f.c, quiet := f.quiet }).pumpAll

/-- The write credit of a write-back or a partial goes back with an ACK that answers no access (R100). -/
def returnCredit (s : State) (h : Hdr) (loc : Nat) : State :=
  match h.src with
  | .core c => s.send (.ack ⟨⟨noTag, h.ten, h.cls, h.dst, .core c⟩, .classAnswer true 0 false (granuleOf loc)⟩)
  | _ => s

/-- WB at a home (R119, R126): the sectors written back differ from memory in the slice; a block without a tag passes through to memory.
The bytes are already those of the single order. -/
def execWb (f : DataFlit) (s : State) : Out :=
  let blk := blockOf f.loc
  let s := match s.tags.get? blk with
    | some e => { s with tags := s.tags.set blk { e.under f.key f.sect with sv := e.sv ||| f.sect, sd := e.sd ||| f.sect } }
    | none => writeBack s blk f.sect
  .next (returnCredit s f.hdr f.loc).pumpAll

/-- REDP at a home (R133, R134): part of a collection under way, or a partial whose core has gone on to another operation. -/
def execRedp (f : PartialFlit) (s : State) : Out :=
  let parts := f.parts.map fun p => (f.core, p.1, p.2.1, p.2.2)
  let s := returnCredit s f.hdr f.loc
  match s.txns.find? fun t => decide (t.stage = .probes) && f.parts.any fun p =>
      decide (t.grain ≤ p.1 ∧ p.1 < t.grain + grainBytes t.loc (grainCode s t.loc t.gcode)) with
  | some t => .next (putTxn s { t with parts := t.parts ++ parts }).pumpAll
  | none => .next (addTxn s { Txn.blank s .part f.loc (grainCode s f.loc 1) with
      ten := f.hdr.ten, wcls := f.hdr.cls, core := f.core, stage := .directory, parts := parts }).pumpAll

/-- DRAINACK at a home (R148). -/
def execDrainack (f : DrainAck) (s : State) : Out :=
  let c := match f.hdr.src with
    | .core c => c
    | _ => 0
  match s.txns.find? fun t => decide (t.gran = f.loc) && decide (t.stage = .drains) && t.owed.contains c with
  | some t => .next (putTxn s { t with owed := t.owed.erase c, clean := t.clean && !f.wrote }).pumpAll
  | none => .next s

/-- A core's answer to INV or DOWN at the home (R125, R126). -/
def probeAnswered (s : State) (core loc : Nat) : State :=
  match s.txns.find? fun t => decide (t.grain = loc) && decide (t.stage = .probes) && t.owed.contains core with
  | some t => (putTxn s { t with owed := t.owed.erase core }).pumpAll
  | none => s

/-- An ACK between slices (R165): the master hears of a hold, or a replica home of its end. -/
def replicaAcked (s : State) (loc : Nat) (tag : Nat) : State :=
  match s.txns.find? fun t => decide (t.stage = .replicas) && decide (t.tag = tag) && decide (t.kind ≠ .replica) &&
      decide (offOf t.loc % 2 ^ 36 = offOf loc % 2 ^ 36) && t.owed.contains (homeDie loc) with
  | some t =>
    let owed := t.owed.erase (homeDie loc)
    (putTxn s { t with owed := owed, replOk := owed.isEmpty }).pumpAll
  | none =>
    match s.txns.find? fun t => decide (t.kind = .replica) && decide (t.loc = loc) with
    | some t => (endTxn s t).pumpAll
    | none => s

/-! ## Probes at a core -/

/-- Whether a core has a resident context of a tenant (R128). -/
def hasTenant (s : State) (core ten : Nat) : Bool :=
  s.skeins.any fun x => decide (x.1 / 16 = core) && decide ((s.ctx x.2.ctx).tenant = ten)

/-- The partials of a core in a grain. -/
def partialsIn (m : CoreMem) (grain n : Nat) : Table Partial := m.partials.filter fun k _ => decide (grain ≤ k ∧ k < grain + n)

/-- What a core gives up of a grain: modified sectors go home as WB, partials as REDP when the grain is dropped (R126). -/
def giveUp (s : State) (core : Nat) (h : Hdr) (grain n : Nat) (drop : Bool) : State :=
  let m := s.core core
  let blk := blockOf grain
  let sect := sectorsOf grain n
  let parts := partialsIn m grain n
  let s := if drop && !parts.isEmpty then s.send (.redp ⟨h, grain, core, parts.map fun x => (x.1, x.2.op, x.2.val)⟩) else s
  let s := match m.l1.get? blk with
    | some l => sendWb s h blk l (l.sd &&& sect)
    | none => s
  s.modCore core fun m => { dropL1 m blk sect drop with
    partials := if drop then m.partials.filter fun k _ => !decide (grain ≤ k ∧ k < grain + n) else m.partials
    ugrains := if drop then m.ugrains.erase grain else m.ugrains }

/-- INV or DOWN at a core (R126, R128, R134): the copy goes or is kept for reading, partials and modified sectors return, and one ACK
answers. An answer on its way to the core then brings no copy any more (DEDUCED, log 82). -/
def answerProbe (f : ProbeFlit) (drop : Bool) (s : State) : Out :=
  match f.hdr.dst with
  | .core c =>
    let m := s.core c
    let n := grainBytes f.loc f.grain
    let back : Hdr := ⟨noTag, f.hdr.ten, f.hdr.cls, .core c, f.hdr.src⟩
    let here := hasTenant s c f.hdr.ten
    let held := (match m.l1.get? (blockOf f.loc) with
      | some l => decide (l.sv &&& sectorsOf f.loc n ≠ 0)
      | none => false) || !(partialsIn m f.loc n).isEmpty
    let s := (giveUp s c back f.loc n drop).modCore c fun m => { m with
      trans := List.map (fun (x : Nat × Trans) =>
        (x.1, if x.2.reply && decide (f.loc ≤ x.2.acc.loc) && decide (x.2.acc.loc < f.loc + n) then { x.2 with lost := true } else x.2)) m.trans
      pabs := if here then m.pabs else m.pabs + 1 }
    let s := if here then s else s.send (.watchEvent (.core c) 4 256 1)
    .next (s.send (.ack ⟨back, .probeAnswer f.aslot (here && held) f.loc⟩))
  | _ => .next s

/-- INV at a core (R126). -/
def execInv (f : ProbeFlit) (s : State) : Out := answerProbe f true s
/-- DOWN at a core (R126). -/
def execDown (f : ProbeFlit) (s : State) : Out := answerProbe f false s

/-- Whether an overlapped access of a core to a granule is still to be performed (R148). -/
def drainBusy (m : CoreMem) (gran : Nat) : Bool :=
  m.trans.any fun x => !x.2.strict && x.2.reply && decide (x.2.acc.kind ≠ .pref) && decide (granuleOf x.2.acc.loc = gran)

/-- Send the DRAINACKs of a core that wait for nothing any more (R148). -/
def answerDrains (s : State) (core : Nat) : State :=
  let m := s.core core
  let l := m.drains.filter fun d => !drainBusy m d.loc
  if l.isEmpty then s
  else l.foldl (fun s d => s.send (.drainack d)) (s.modCore core fun m => { m with drains := m.drains.filter fun d => drainBusy m d.loc })

/-- DRAIN at a core (R148, R149): the entry goes at once, and DRAINACK follows when every overlapped access issued before has been
performed. -/
def execDrain (f : ProbeFlit) (s : State) : Out :=
  match f.hdr.dst with
  | .core c =>
    let line := (s.core c).cls.get? f.loc
    let wrote := match line with
      | some l => l.sbit
      | none => true
    .next (answerDrains (s.modCore c fun m => { m with
      cls := m.cls.erase f.loc
      trans := List.map (fun (x : Nat × Trans) => (x.1, if granuleOf x.2.acc.loc = f.loc then { x.2 with drained := true } else x.2)) m.trans
      drains := m.drains ++ [⟨⟨f.hdr.tag, f.hdr.ten, f.hdr.cls, .core c, f.hdr.src⟩, f.loc, f.aslot, wrote, line.isSome⟩] }) c)
  | _ => .next s

/-- WAKE at a core (R159, R185): the armed monitors of its plies in the grain are woken. -/
def execWake (f : ProbeFlit) (s : State) : Out :=
  match f.hdr.dst with
  | .core c =>
    .next (s.mapPlies fun p =>
      if p.core = c ∧ p.mon.st = .armed ∧ p.mon.loc / 512 = f.loc / 512 ∧ !s.mons.any (fun m => decide (m.1 = p.key)) then
        { p with mon := { p.mon with st := .woken } }
      else p)
  | _ => .next s

/-! ## Invalidations of translations (R84) -/

/-- The PASID of a party. -/
def State.partyPasid (s : State) (who : Party) : Option Nat :=
  let (ctx, _) := s.partyCtx who
  if ctx < 256 then some (s.ctx ctx).pasid else none

/-- The grains of update-only partials that a RED has reached through a range (R84, R152). -/
def partialGrains (s : State) (pasid vpage log2 : Nat) : List Nat :=
  (s.cores.flatMap fun (c : Nat × CoreMem) => (List.filter (fun (x : Nat × Partial) =>
    decide (x.2.pasid = pasid ∧ vpage ≤ x.2.vpage ∧ x.2.vpage < vpage + 2 ^ log2)) c.2.partials).map fun x => grainBase s x.1 1).eraseDups.filter
    fun g => decide ((s.dirOf g).st = .u)

/-- Whether an access that has issued with a translation of the range is still to be performed, or a TLB probe of it is on its way
(R84). -/
def invalBusy (s : State) (pasid vpage log2 : Nat) : Bool :=
  let inRange (va : DWord) : Bool := decide (vpage ≤ pageOf va ∧ pageOf va < vpage + 2 ^ log2)
  let probe (i : Instr) : Bool := match i with
    | .tlbinv f => decide ((s.ctx f.ctx).pasid = pasid ∧ f.vpage = vpage)
    | _ => false
  s.net.any probe || s.flits.any (fun f => probe f.instr) ||
  (s.cores.any fun c => c.2.trans.any fun t => t.2.reply && inRange t.2.acc.va && decide (s.partyPasid t.2.who = some pasid)) ||
  (s.plies.any fun p => decide ((s.ctx p.2.ctx).pasid = pasid) && match p.2.work with
    | some w => w.todo.any fun a => inRange a.va
    | none => false) || !(partialGrains s pasid vpage log2).isEmpty

/-- Whether an invalidation waits for partials whose collection nobody has asked for (R84, R152). -/
def invalCollects (s : State) (x : Nat × Nat × Nat) : List Nat :=
  (partialGrains s x.1 x.2.1 x.2.2).filter fun g => (s.dirOf g).st = .u && !s.txns.any fun t => decide (t.kind = .collect ∧ t.grain = g)

/-- INVALIDATE_COMPLETION (R84): sent once nothing that used the old translation is outstanding; partials that did are collected first. -/
def execInvalidateCompletion (pasid vpage : Nat) (s : State) : Out :=
  match s.invals.find? fun x => decide (x.1 = pasid ∧ x.2.1 = vpage) with
  | none => .next s
  | some x =>
    if !(invalCollects s x).isEmpty then .next (askCollect s (invalCollects s x)).pumpAll
    else if invalBusy s pasid vpage x.2.2 then .next s
    else .next ({ s with invals := s.invals.erase x }.tellHost (.invalComplete pasid vpage))

end Sys2Proof.Machine
end

