-- ==== Sys2Proof/Machine/MemInstr.lean ====
section
/-! DEFINITION. The memory instructions (R169 to R188): addresses, the checks of R174, and the accesses they make. -/

namespace Sys2Proof.Machine

/-! ## The accesses of a ply -/

/-- What a run of accesses leaves: those still to make, the values got, how many are outstanding, and whether the party has to wait. -/
structure Ran where
  s : State
  todo : List Acc
  got : List (Nat × QWord)
  await : Nat
  waits : Bool
deriving DecidableEq, Repr

/-- Make accesses in order until one is strict and has gone to its home, or has to wait for an older one (R150, R151). -/
def runAccs (who : Party) (core wtag : Nat) : State → List Acc → List (Nat × QWord) → Nat → Ran
  | s, [], got, n => ⟨s, [], got, n, false⟩
  | s, a :: t, got, n => match access s who core a wtag with
    | .now x s => runAccs who core wtag s t (got ++ [(a.thread, x)]) n
    | .overlapped s => runAccs who core wtag s t got (n + 1)
    | .sent s => ⟨s, t, got, n + 1, true⟩
    | .blocked => ⟨s, a :: t, got, n, true⟩

/-- The register writes of the values a memory instruction got (R178 to R180). -/
def landWrites (w : Work) (width : Nat) : List Write :=
  let mask : DWord := if w.bcast then w.mask else w.got.foldl (fun m x => m ||| (1#64 <<< x.1)) 0
  let raw (k : Nat) : QWord :=
    if w.bcast || w.dst.isS then (match w.got with
      | x :: _ => x.2
      | [] => 0)
    else match w.got.find? fun x => x.1 = k with
      | some x => x.2
      | none => 0
  let n := if w.dst.isS then 1 else width
  let m := if w.dst.isS then 1 else mask
  match w.use with
  | .plain size =>
    dstWrites w.dst (if size = 16 then .quad else if size = 8 then .pair else .one) m ((List.range n).map raw)
  | .narrow f =>
    let fmt : Fmt := match f.toNat with
      | 0 => .f16
      | 1 => .e4m3
      | 2 => .e5m2
      | _ => .bf16
    dstWrites w.dst .one m ((List.range n).map fun k => BitVec.ofNat 128 (toF32 fmt (raw k).toNat))
  | .old wide => dstWrites w.dst (if wide then .pair else .one) m ((List.range n).map raw)
  | _ => []

/-- Every access of a work has been performed: its landing has arrived. -/
def landWork (p : Ply) (w : Work) : Ply :=
  match w.use with
  | .keep | .poll _ | .lost | .discard => p
  | _ => { p with out := p.out.map fun l =>
      if l.tag = w.tag ∧ l.arrived = false then { l with arrived := true, writes := landWrites w p.width } else l }

/-- The work of the instruction at the PC has made all its accesses: it is done, or overlapped ones are outstanding and the ply goes on
(R151). -/
def settleWork (p : Ply) (w : Work) : Ply :=
  if w.use.kept then { p with work := some w }
  else if w.await = 0 then landWork { p with work := none } w
  else { p with work := none, overlapped := p.overlapped ++ [w] }

/-- Go on with the accesses of a ply. -/
def runWork (s : State) (key : Nat) : State :=
  match s.plies.get? key with
  | none => s
  | some p => match p.work with
    | none => s
    | some w =>
      let r := runAccs (.ply key) p.core w.tag s w.todo w.got w.await
      let w := { w with todo := r.todo, got := r.got, await := r.await }
      r.s.modPly key fun p => if r.waits then { p with work := some w, strict := 1 } else settleWork { p with strict := 0 } w

/-- The answer to one access of a work: its value, or that the home refused it. -/
def Work.answered (w : Work) (thread : Nat) (x : Option QWord) : Work :=
  { w with
    await := w.await - 1
    use := if x.isNone && w.use.kept then .lost else w.use
    got := match x with
      | some v => w.got ++ [(thread, v)]
      | none => w.got }

/-- Whether a strict access of a ply is outstanding. -/
def strictOut (s : State) (core key : Nat) : Bool :=
  (s.core core).trans.any fun x => decide (x.2.who = .ply key) && x.2.strict && x.2.reply

/-- An access of a ply has been answered: the value, or that the home refused it (R89). The work it belongs to goes on; with the last
answer it lands. -/
def plyReply (s : State) (key wtag : Nat) (a : Acc) (x : Option QWord) : State :=
  match s.plies.get? key with
  | none => s
  | some p =>
    let lost (p : Ply) : Ply := { p with memlost := if x.isNone && p.memlost.isNone then some ((a.va &&& ~~~0xFFF) ||| 1) else p.memlost }
    let s := if x.isSome then s else s.modSkein p.skeinKey fun k => { k with failed := true }
    match p.work with
    | some w =>
      if w.tag = wtag then
        let s := s.setPly key { lost p with work := some (w.answered a.thread x) }
        if strictOut s p.core key then s else runWork s key
      else
        let s := s.setPly key (overReply (lost p) wtag a x)
        if strictOut s p.core key then s else runWork s key
    | none => s.setPly key (overReply (lost p) wtag a x)
where
  /-- the work of an instruction that has issued -/
  overReply (p : Ply) (wtag : Nat) (a : Acc) (x : Option QWord) : Ply :=
    match p.overlapped.find? fun w => w.tag = wtag with
    | none => p
    | some w =>
      let w' := w.answered a.thread x
      if w'.await = 0 then landWork { p with overlapped := p.overlapped.erase w } w'
      else { p with overlapped := p.overlapped.map fun y => if y = w then w' else y }

/-- Start accesses of the instruction at the PC, which waits for the values; `got` are those it has already. -/
def startKeep (s : State) (key : Nat) (got : List (Nat × QWord)) (accs : List Acc) (use : LoadUse) : State :=
  let tag := s.uses
  runWork (s.use.modPly key fun p => { p with work := some ⟨accs, got, use, .zero, 0, false, tag, 0⟩ }) key

/-- Whether the instruction at the PC has all the values it waits for. -/
def Ply.workWaits (p : Ply) : Bool :=
  decide (p.strict ≠ 0) || (match p.work with
    | some w => decide (w.await ≠ 0)
    | none => false)

/-- An access of the instruction at the PC, which waits for its value, was refused by its home: MEMLOST (R89). -/
def keptLost (v : Env) (s : State) : Res :=
  let val := v.p.memlost.getD 1
  .gone (takeTrap (s.modPly v.key fun p => { p with memlost := none, work := none }) v.key causeMEMLOST val v.p.pc)

/-! ## Addresses and checks (R171, R172, R174) -/

/-- The address of a thread: base operand `b`, offset operand `o`, scale (R171). -/
def vaOf (v : Env) (b o sc k : Nat) : DWord :=
  (v.op b).at64 0 + (((v.op o).at32 k).signExtend 64 <<< sc)

/-- The lanes that access: one for a uniform instruction, the active threads otherwise (R173). -/
def memThreads (v : Env) (i : Instr) : List Nat :=
  if i.shape.thread then threadsOf v.p.width v.p.em else [0]

/-- An address that has passed the checks: thread, address, location, attributes. -/
structure Target where
  thread : Nat
  va : DWord
  loc : Nat
  attr : Attr
deriving DecidableEq, Repr

/-- The checks end in a stop or in the translated addresses. -/
inductive Plan where
  | stop (r : Res)
  | go (l : List Target)
deriving DecidableEq, Repr

/-- The skein fails because an access met a withdrawn granule (R90, R376). -/
def markLost (s : State) (p : Ply) : State := s.modSkein p.skeinKey fun k => { k with failed := true }

/-- Attributes through which no access is made (R67). -/
def attrBad (a : Attr) : Bool :=
  decide (a.grain = 3) || decide (2 ≤ a.target) || decide (21 < a.link) || (a.repl && decide (a.target = 1))

/-- A replicated range whose location is not near DRAM, or whose home die holds no replica (R67). -/
def replBad (a : Attr) (loc : Nat) : Bool := a.repl && (decide (tierOf loc ≠ 0) || !a.repmask.testBit (homeDie loc))

/-- PROT by the attributes: R67, a peer window, NOLANE, a key of another tenant (R61, R63). -/
def attrDenies (s : State) (ctx : Nat) (a : Attr) (loc : Nat) : Bool :=
  attrBad a || replBad a loc || decide (a.target = 1) || a.nolane ||
    (decide (tierOf loc ≤ 1) && decide (a.key / 8 ≠ (s.ctx ctx).tenant))

/-- The checks of R174 from ALIGN on, for the addresses of an instruction. A verdict is for the access that waited (R80, R83). -/
def planAccess (v : Env) (s : State) (addrs : List (Nat × DWord)) (size : Nat) (r w : Bool) (lostTraps : Bool) : Plan :=
  let p := v.p
  let pasid := (s.ctx p.ctx).pasid
  let onPage := match p.waited with
    | some (pg, false) => addrs.find? fun a => pageOf a.2 = pg
    | _ => none
  match (if p.verdict = .prot then onPage else none) with
  | some a => .stop (.trap causePROT a.2)
  | none => match addrs.find? fun a => a.2.toNat % size ≠ 0 with
    | some a => .stop (.trap causeALIGN a.2)
    | none => match addrs.find? fun a => !canonical a.2 with
      | some a => .stop (.trap causePROT a.2)
      | none => match (if p.verdict = .xlate then onPage else none) with
        | some a => .stop (.trap causeXLATE a.2)
        | none =>
          let looked := addrs.map fun a =>
            let at' := s.attrAt p.core p.ctx p.lid a.2
            (a, at', if at'.target ≠ 0 then Xlate.prot else lookup s p.core pasid a.2 r w false)
          let clear (s : State) : State := s.modPly v.key fun q => { q with verdict := .retry }
          match looked.find? fun x => decide (x.2.2 = .miss) with
          | some x =>
            .stop (.wait (sendAts (clear s) p.core p.ctx (pageOf x.1.2) false) (.page (pageOf x.1.2) r w false false) v.stage)
          | none => match looked.findSome? fun x => (match x.2.2 with
              | .fill e => some e
              | _ => none) with
            | some e => .stop (.wait ((s.fillCore p.core (e.forLaunch s p.ctx p.lid)).modPly v.key Ply.dropLatches) (.cycle (v.t + 1)) v.stage)
            | none => match looked.find? fun x => decide (x.2.2 = .denied) with
              | some x =>
                if 1 ≤ p.tl then .stop (.trap causeXLATE x.1.2)
                else .stop (.wait (faultPage (clear s) p.core p.ctx (pageOf x.1.2) r w false) (.page (pageOf x.1.2) r w false true) v.stage)
              | none =>
                let bad := looked.find? fun x => match x.2.2 with
                  | .ok l | .lost l => attrDenies s p.ctx x.2.1 l
                  | _ => true
                match bad with
                | some x => .stop (.trap causePROT x.1.2)
                | none => match (if lostTraps then looked.find? fun x => (match x.2.2 with
                    | .lost _ => true
                    | _ => false) else none) with
                  | some x => .stop (.gone (takeTrap (markLost s p) v.key causeMEMLOST (x.1.2 &&& ~~~0xFFF) p.pc))
                  | none => .go (looked.map fun x => match x.2.2 with
                    | .ok l | .lost l => ⟨x.1.1, x.1.2, l, x.2.1⟩
                    | _ => ⟨x.1.1, x.1.2, 0, x.2.1⟩)

/-- The distinct core-TLB entries that addresses use (R74). -/
def tlbEntries (s : State) (p : Ply) (vas : List DWord) : List (Option TlbEnt) :=
  (vas.map fun a => tlbFind (s.core p.core).tlb (s.ctx p.ctx).pasid (pageOf a)).eraseDups

/-- The cycles after its slot at which an instruction issues whose addresses all hit (R74): four distinct entries a cycle. -/
def tlbDelay (s : State) (p : Ply) (vas : List DWord) : Nat := ((tlbEntries s p vas).length + 3) / 4 - 1

/-- An instruction that has only looked its entries up waits, if it must wait, from its checks on (log 91). -/
def Res.again : Res → Res
  | .wait s c _ => .wait s c 0
  | r => r

/-- Landing entries that an instruction takes (R175). -/
def blocksOf (l : List Target) : Nat := (l.map fun x => blockOf x.loc).eraseDups.length

/-- Landing entries that a ply holds: those of its outstanding results, and one for an attempt of POLL (R175). -/
def Ply.entries (p : Ply) : Nat :=
  (p.out.map (·.blocks)).sum + (match p.work with
    | some w => (match w.use with
      | .poll _ => 1
      | _ => 0)
    | none => 0)

/-- Landing entries that a ply's partition has left (R175). -/
def landingFree (s : State) (p : Ply) : Nat :=
  128 - s.plies.foldl (fun n x => if x.2.partKey = p.partKey then n + x.2.entries else n) 0

/-- Store and atomic slots of a core that are free (R175): each instruction holds one for each sector that it has still to write. -/
def slotsFree (s : State) (core : Nat) : Nat :=
  let writes (a : Acc) : Bool := a.kind.writes
  let waiting := s.plies.flatMap fun (x : Nat × Ply) => if x.2.core ≠ core then [] else match x.2.work with
    | some w => (w.todo.filter writes).map fun a => (w.tag, x.1, a.loc / 32)
    | none => []
  let sent := (s.core core).trans.filterMap fun (x : Nat × Trans) => match x.2.who with
    | .ply k => if x.2.reply && writes x.2.acc then some (x.2.wtag, k, x.2.acc.loc / 32) else none
    | _ => none
  256 - (waiting ++ sent).eraseDups.length

/-- Make the accesses of an instruction (R177): a result lands when every one is performed; a strict write parks the ply. -/
def makeAccesses (v : Env) (s : State) (accs : List Acc) (use : LoadUse) (dst : Name) (mask : DWord) (bcast : Bool)
    (blocks : Nat) (writes : Bool) : Res :=
  let tag := s.uses
  let s := accs.foldl (fun s a => noteReplicas s a.loc a.replicas) s.use
  let lands := decide (use ≠ .discard)
  let w : Work := ⟨accs, [], use, dst, mask, bcast, tag, 0⟩
  let s := s.modPly v.key fun p => { p with
    work := some w
    out := if lands then p.out ++ [⟨tag, false, blocks, landWrites { w with got := [] } p.width⟩] else p.out }
  let s := runWork s v.key
  let waits := match s.plies.get? v.key with
    | some p => decide (p.strict ≠ 0)
    | none => false
  .done s { park := if writes && waits then .wait (.quiet false) else .none }

/-- The body of a memory instruction: `size` bytes, the accesses it needs, its data, its use of the values. -/
def memBody (i : Instr) (kind : AccKind) (size : Nat) (r w : Bool) (base off sc : Nat) (data : Env → Nat → QWord)
    (cmp : Env → Nat → DWord) (aop : BitVec 4) (use : LoadUse) (dst : Name) (bcast : Bool) (v : Env) (s : State) : Res :=
  let ths := memThreads v i
  match ths with
  | [] => .done s {}
  | _ =>
    match planAccess v s (ths.map fun k => (k, vaOf v base off sc k)) size r w true with
    | .stop r => r.again
    | .go l =>
      let blocks := if use = .discard then 0 else blocksOf l
      let slots := if w then (l.map fun x => x.loc / 32).eraseDups.length else 0
      let late := tlbDelay s v.p (l.map (·.va))
      if v.stage = 0 && late ≠ 0 then .wait s (.cycle (v.t + late)) 1
      else if landingFree s v.p < blocks || slotsFree s v.p.core < slots then .wait s (.memRoom blocks slots) 0
      else
        let accs := l.map fun x => (⟨x.thread, x.va, x.loc, size, kind, aop, data v x.thread, cmp v x.thread, x.attr⟩ : Acc)
        makeAccesses v s accs use dst (if bcast then v.p.em else 0) bcast blocks w

def noData : Env → Nat → QWord := fun _ _ => 0
def noCmp : Env → Nat → DWord := fun _ _ => 0
def sizeOf2 (w : BitVec 2) : Nat := 2 ^ w.toNat
/-- Size of a narrow format (R179). -/
def narrowSize (w : BitVec 2) : Nat := if w = 1 ∨ w = 2 then 1 else 2

/-! ## LD, ST, LDQ, STQ (R178) -/

def execLd (d : Name) (b : SReg) (v : Name) (c w : BitVec 2) (sw : Bool) (s : State) : Out :=
  let i := Instr.ld d b v c w sw
  issue i (memBody i .load (sizeOf2 w) true false 0 1 c.toNat noData noCmp 0 (.plain (sizeOf2 w)) d false) s
def execSt (d : Name) (b : SReg) (v : Name) (c w : BitVec 2) (sw : Bool) (s : State) : Out :=
  let i := Instr.st d b v c w sw
  issue i (memBody i .store (sizeOf2 w) false true 1 2 c.toNat (fun e k => (e.op 0).at k) noCmp 0 .discard .zero false) s
def execLdq (d : Name) (b : SReg) (v : Name) (c : BitVec 2) (sw : Bool) (s : State) : Out :=
  let i := Instr.ldq d b v c sw
  issue i (memBody i .load 16 true false 0 1 c.toNat noData noCmp 0 (.plain 16) d false) s
def execStq (d : Name) (b : SReg) (v : Name) (c : BitVec 2) (sw : Bool) (s : State) : Out :=
  let i := Instr.stq d b v c sw
  issue i (memBody i .store 16 false true 1 2 c.toNat (fun e k => (e.op 0).at k) noCmp 0 .discard .zero false) s

/-! ## LDCV, STCV (R179) -/

def execLdcv (d : Name) (b : SReg) (v : Name) (c w : BitVec 2) (sw : Bool) (s : State) : Out :=
  let i := Instr.ldcv d b v c w sw
  issue i (memBody i .load (narrowSize w) true false 0 1 c.toNat noData noCmp 0 (.narrow w) d false) s

def stcvFmt (w : BitVec 2) : Fmt :=
  match w.toNat with
  | 0 => .f16
  | 1 => .e4m3
  | 2 => .e5m2
  | _ => .bf16

/-- The stored bits of a thread of STCV and the flags its conversion raises. -/
def stcvVal (i : Instr) (w : BitVec 2) (v : Env) (k : Nat) : Nat × FFlags :=
  let mode := frmMode v.p.frm
  let f := stcvFmt w
  let pre := fun j => fromF32Pre f (frmNsat v.p.frm) mode ((v.op 0).at32 j).toNat
  let r16 := if mode = .sr then v.r16 i (fun j => (pre j).discard f) k 0 else 0
  fromF32Round f (frmNsat v.p.frm) mode r16 (pre k)

/-- STCV (R179): the checks of a store, then FPX, then the store and its sticky flags. -/
def execStcv (d : Name) (b : SReg) (v : Name) (c w : BitVec 2) (sw : Bool) (s : State) : Out :=
  let i := Instr.stcv d b v c w sw
  issue i (fun e s =>
    let ths := memThreads e i
    match planAccess e s (ths.map fun k => (k, vaOf e 1 2 c.toNat k)) (narrowSize w) false true true with
    | .stop r => r.again
    | .go _ =>
      let fl := fun k => (stcvVal i w e k).2
      match fpxVal e.p.frm ths fl with
      | some x => .trap causeFPX x
      | none =>
        match memBody i .store (narrowSize w) false true 1 2 c.toNat (fun e k => BitVec.ofNat 128 (stcvVal i w e k).1) noCmp 0
            .discard .zero false e s with
        | .done s f => .done (addFlags s e.key ths fl) f
        | r => r) s

/-! ## ATOM and RED (R180 to R182) -/

/-- The operand of an atomic and, for CAS, the compare value (R180). -/
def atomNewOp (o : BitVec 4) (e : Env) (k : Nat) : QWord :=
  let x := (e.op 0).at k
  if o = 13 then (x.extractLsb' 32 32).setWidth 128
  else if o = 14 then (x.extractLsb' 64 64).setWidth 128
  else x
def atomCmp (o : BitVec 4) (e : Env) (k : Nat) : DWord :=
  let x := (e.op 0).at k
  if o = 13 then (x.extractLsb' 0 32).setWidth 64 else x.extractLsb' 0 64

def execAtom (d : Name) (b : SReg) (v : Name) (o : BitVec 4) (sw : Bool) (s : State) : Out :=
  let i := Instr.atom d b v o sw
  issue i (memBody i .atom (atomSize o.toNat) true true 1 2 0 (atomNewOp o) (atomCmp o) o (.old (atomSize o.toNat = 8)) d false) s

def execRed (d : Name) (b : SReg) (v : Name) (o : BitVec 4) (sw : Bool) (s : State) : Out :=
  let i := Instr.red d b v o sw
  issue i (memBody i .red (atomSize o.toNat) false true 1 2 0 (fun e k => (e.op 0).at k) noCmp o .discard .zero false) s

/-! ## PREF (R183) -/

/-- One thread's request (R183): dropped in the cases of the rule; a TLB miss starts a lookup; otherwise the data is read as RD would. L2
brings the block no nearer than the home slice, or the RDC slice of the core's die: it keeps no copy in the L1. -/
def prefOne (v : Env) (w : BitVec 2) (s : State) (va : DWord) : State :=
  let p := v.p
  let at' := s.attrAt p.core p.ctx p.lid va
  if !canonical va || at'.target ≠ 0 then s
  else match lookup s p.core (s.ctx p.ctx).pasid va true false false with
    | .ok loc =>
      if attrDenies s p.ctx at' loc || landingFree s p = 0 then s
      else
        let who : Party := .ply v.key
        let size := if w = 0 then 32 else 512
        let loc := if at'.repl && at'.repmask.testBit (coreDie p.core) then replicaLoc (coreDie p.core) loc else loc
        let l := loc / size * size
        let sect : BitVec 16 := if w = 0 then sectorsOf l 32 else 0xFFFF
        let near := decide (coreDie p.core = homeDie loc)
        let held := if w = 2 then !near && (match rdcHolds s p.core l sect at'.key with
            | some b => leaseGood s b.e
            | none => false)
          else l1Serves s p.core l sect at'.key at'.grain
        if held then s
        else
          let a : Acc := ⟨0, va, l, size, .pref, 0, 0, 0, at'⟩
          let (tag, s) := remember s who p.core a false false (decide (w ≠ 2)) 0
          sendRead s p.core (fun src => hdrOf s p.ctx tag src (.slice (s.homeOf l))) l sect at'.grain at'.key false who
    | .fill e => s.fillCore p.core (e.forLaunch s p.ctx p.lid)
    | .miss => sendAts s p.core p.ctx (pageOf va) false
    | _ => s

def execPref (b : SReg) (v : Name) (c w : BitVec 2) (sw : Bool) (s : State) : Out :=
  let i := Instr.pref b v c w sw
  issue i (fun e s =>
    let vas := (threadsOf e.p.width e.p.em).map (vaOf e 0 1 c.toNat)
    let late := if (tlbEntries s e.p vas).all (·.isSome) then tlbDelay s e.p vas else 0
    if e.stage = 0 && late ≠ 0 then .wait s (.cycle (e.t + late)) 1
    else .done (vas.foldl (fun s va => prefOne e w s va) s) {}) s

/-! ## MONA, WAITM, POLL (R184 to R187) -/

/-- MONA (R184): the value lands, and the ply's monitor becomes ARMED when the home performs the arming. -/
def execMona (d : Name) (b : SReg) (v : Name) (c w : BitVec 2) (sw : Bool) (s : State) : Out :=
  let i := Instr.mona d b v c w sw
  issue i (memBody i .mona (sizeOf2 w) true false 0 1 c.toNat noData noCmp 0 (.plain (sizeOf2 w)) d (!d.isS)) s

/-- Set one uniform predicate with a latency. -/
def setQ (n : Nat) (b : Bool) : Write := ⟨.q n, 1, [if b then 1 else 0]⟩

def execWaitm (a : Src) (sw : Bool) (s : State) : Out :=
  issue (.waitm a sw) (fun v s =>
    let clear (s : State) : State := s.modPly v.key fun p => { p with mon := ⟨.none, 0⟩ }
    let t := if recDet (s.launchRec v.p) then 0 else ((v.op 0).at32 0).toNat
    match v.p.mon.st with
    | .none => .done s { writes := [setQ 7 false] }
    | .woken => .done (clear s) { writes := [setQ 7 false] }
    | .armed =>
      if v.stage = 2 then .done { clear s with mons := s.mons.filter fun m => m.1 ≠ v.key } { writes := [setQ 7 true] }
      else .wait s (.monitor (if t = 0 then none else some (s.tick + t))) 1) s

/-- POLL (R187): one attempt after another; `stage` holds twice the interval, plus one while an attempt is outstanding. -/
def execPoll (d : Name) (b : SReg) (v : Name) (c w : BitVec 2) (sw : Bool) (s : State) : Out :=
  let i := Instr.poll d b v c w sw
  issue i (fun e s =>
    let size := sizeOf2 w
    let want := BitVec.ofNat 64 (((e.op 0).at64 0).toNat % 2 ^ (8 * size))
    let gap := if e.stage / 2 = 0 then 64 else e.stage / 2
    let judge (s : State) (host : Bool) (x : DWord) : Res :=
      let s := s.modPly e.key fun p => { p with work := none }
      if x ≠ want then
        let tag := s.uses
        .done s.use { land := some ⟨tag, true, 1, dstWrites d .pair 1 [x.setWidth 128]⟩ }
      else .wait s (.poll (e.t + gap) host) (2 * min (2 * gap) 65536)
    let seen (s : State) (p : Ply) (wk : Work) : Res :=
      match wk.got with
      | x :: _ => judge s (decide (wk.use = .poll true)) (x.2.extractLsb' 0 64)
      | [] => keptLost { e with p := p } s
    match (if e.stage % 2 = 1 then e.p.work else none) with
    | some wk => seen s e.p wk
    | none =>
      match planAccess e s [(0, vaOf e 1 2 c.toNat 0)] size true false true with
      | .stop r => r
      | .go l =>
        if landingFree s e.p = 0 then .wait s (.memRoom 1 0) e.stage
        else
          let accs := l.map fun x => (⟨0, x.va, x.loc, size, .load, 0, 0, 0, x.attr⟩ : Acc)
          let s := startKeep s e.key [] accs (.poll (accs.any fun x => decide (tierOf x.loc = 2)))
          match s.plies.get? e.key with
          | some p =>
            if p.workWaits then .wait s .workDone (2 * gap + 1)
            else match p.work with
              | some wk => seen s p wk
              | none => judge s false want
          | none => .gone s) s

end Sys2Proof.Machine
end

