-- ==== Sys2Proof/Machine/Tile.lean ====
section
/-! DEFINITION. Tile memory and the tile table (R213 to R233). -/

namespace Sys2Proof.Machine

def Spindle.zero : Spindle := ⟨none, none, 0, [], [], none, 0, [], 0⟩
def CoreHw.zero : CoreHw :=
  { tile := [], tiles := [], queues := [[], [], [], []], deficits := [0, 0, 0, 0], cls := 3, serving := none,
    spindles := List.replicate 4 Spindle.zero, energy := [], trees := [], steal := ⟨0, false, none⟩, portA := 0, units := [], clearTo := 0, startAt := 0 }
def State.hwOf (s : State) (c : Nat) : CoreHw := s.hw.getD c CoreHw.zero
def State.modHw (s : State) (c : Nat) (f : CoreHw → CoreHw) : State := { s with hw := s.hw.set c (f (s.hwOf c)) }

/-! ## References (R216, R217) -/

def refHandle (r : DWord) : Nat := fieldOf r 32 5
def refOffset (r : DWord) : Nat := fieldOf r 0 32

/-- Resolve a reference for a skein slot: the tile, or the reason of R224. -/
def resolveRef (h : CoreHw) (slot : Nat) (r : DWord) : TileEnt ⊕ Nat :=
  if fieldOf r 52 12 ≠ 0 ∨ fieldOf r 37 3 ≠ 0 then .inr 1
  else if fieldOf r 48 4 ≠ slot then .inr 2
  else match h.tiles.find? fun e => decide (e.slot = slot ∧ e.handle = refHandle r) with
    | none => .inr 3
    | some e => if e.gen = fieldOf r 40 8 then .inl e else .inr 4

/-- The tile that a reference was resolved to when the skein stood in some slot, if it is still bound: a copy keeps its tile when its skein
is restored into another slot (R208, R217). -/
def boundTile (h : CoreHw) (slot : Nat) (r : DWord) : Option TileEnt :=
  h.tiles.find? fun e => decide (e.slot = slot ∧ e.handle = refHandle r ∧ e.gen = fieldOf r 40 8)

/-- XVAL of TILESTATE (R224). -/
def tileVal (o : Nat) (handle reason : Nat) : DWord := fieldAt 32 (o % 2 ^ 32) ||| fieldAt 8 handle ||| fieldAt 0 reason

def TileSt.bit : TileSt → Nat
  | .empty => 1
  | .filling => 2
  | .ready => 4
  | .draining => 8

def TileEnt.inStates (e : TileEnt) (mask : Nat) : Bool := decide (e.st.bit &&& mask ≠ 0)
def TileEnt.calm (e : TileEnt) : Bool := decide (e.ncpy = 0) && !e.spn

/-- Physical address of byte `o` of a tile (R217). -/
def tilePhys (wbase : Nat) (e : TileEnt) (o : Nat) : Nat := (wbase + 512 * e.base + o) % 2 ^ 21

def modTile (s : State) (core slot handle : Nat) (f : TileEnt → TileEnt) : State :=
  s.modHw core fun h => { h with tiles := h.tiles.map fun e => if e.slot = slot ∧ e.handle = handle then f e else e }

/-- Enter EMPTY: PART becomes 0 (R218). -/
def TileEnt.toState (e : TileEnt) (st : TileSt) : TileEnt := { e with st := st, part := if st = .empty then false else e.part }

def tileRead (h : CoreHw) (a n : Nat) : Nat := valueOf ((List.range n).map fun i => h.tile.read ((a + i) % 2 ^ 21))
/-- Write bytes of tile memory, addresses modulo 2 MiB (R213, R217). -/
def tileWrite (s : State) (core a : Nat) (bytes : List Byte) : State :=
  s.modHw core fun h => { h with tile :=
    (h.tile.writeBytes a (bytes.take (2 ^ 21 - a))).writeBytes 0 (bytes.drop (2 ^ 21 - a)) }

/-! ## Lane instructions (R221 to R224) -/

/-- The tile offset of a thread (R224). -/
def tileOff (v : Env) (b o sc k : Nat) : DWord :=
  ((v.op b).at64 0 &&& 0xFFFFFFFF) + (((v.op o).at32 k).signExtend 64 <<< sc)

/-- Number of port-B slots of a set of unit addresses (R221). -/
def slotCount (units : List Nat) : Nat :=
  let u := units.eraseDups
  (List.range 128).foldl (fun m b => max m (u.filter fun x => x % 128 = b).length) 0

/-- The first slot of an instruction that issues in cycle `t` on a partition (R221). -/
def firstSlot (t part : Nat) : Nat := t + 1 + (4 + part - (t + 1) % 4) % 4

/-- The last of its `n` slots (R221). -/
def lastSlot (t part n : Nat) : Nat := firstSlot t part + 4 * (n - 1)

/-- The accesses that one slot serves, and those it leaves: the lowest-indexed threads first, at most one bank row per bank (R221). -/
def fillSlot : List Nat → List TileLane → List TileLane × List TileLane
  | _, [] => ([], [])
  | units, l :: t =>
    let u := l.addr / 16
    if units.contains u || !(units.any fun x => decide (x % 128 = u % 128)) then
      let r := fillSlot (u :: units) t
      (l :: r.1, r.2)
    else
      let r := fillSlot units t
      (r.1, l :: r.2)

/-- The slots of an instruction from cycle `t` on (R221). -/
def planSlots : Nat → Nat → List TileLane → List (Nat × List TileLane)
  | 0, _, _ => []
  | _, _, [] => []
  | n + 1, t, l => let r := fillSlot [] l
    (t, r.1) :: planSlots n (t + 4) r.2

/-- The slots of the partition's earlier tile instructions (R221). -/
def partTileAt (s : State) (p : Ply) : Nat := s.plies.foldl (fun m x => if x.2.partKey = p.partKey then max m x.2.tileAt else m) 0

/-- The wait for a state of a tile (R219). -/
def TileEnt.await (e : TileEnt) (mask : Nat) (calm : Bool) : Cond := .tile e.handle e.gen mask calm

/-- The access of one thread in its slot: what it read, and the machine with what it wrote (R222, R231). -/
def laneAccess (s : State) (core : Nat) (act : TileAct) (size : Nat) (l : TileLane) : QWord × State :=
  let old := tileRead (s.hwOf core) l.addr size
  match act with
  | .read => (BitVec.ofNat 128 old, s)
  | .write => (0, tileWrite s core l.addr (bytesOf size l.data.toNat))
  | .atom op =>
    let new := atomNew op.toNat (BitVec.ofNat 64 old) (l.data.setWidth 64) l.cmp
    (BitVec.ofNat 128 old, tileWrite s core l.addr (bytesOf size new.toNat))

/-- A result of a tile read as writes: the threads read, in the width of the access. -/
def tileWrites (d : Name) (w : Width) (width : Nat) (mask : DWord) (vals : List (Nat × QWord)) : List Write :=
  let n := if d.isS then 1 else width
  let at' (k : Nat) : QWord := match vals.find? fun x => x.1 = k with
    | some x => x.2
    | none => 0
  dstWrites d w (if d.isS then 1 else mask) ((List.range n).map at')

/-- Thread `k`'s column of a block whose rows were read as `vals` (R230). -/
def columnOf (e : Nat) (vals : List (Nat × QWord)) (k : Nat) : QWord :=
  let row (j : Nat) : Nat := match vals.find? fun x => x.1 = j with
    | some x => x.2.toNat
    | none => 0
  BitVec.ofNat 128 ((List.range 8).foldl (fun a j =>
    a + (row (k / 8 * 8 + j) / 2 ^ (8 * e * (k % 8)) % 2 ^ (8 * e)) * 2 ^ (8 * e * j)) 0)

/-- The register writes of the values a lane tile instruction read (R229 to R231). -/
def TileUse.writes (u : TileUse) (size width : Nat) (mask : DWord) (vals : List (Nat × QWord)) : List Write :=
  match u with
  | .none => []
  | .own d => tileWrites d (if size = 16 then .quad else if size = 8 then .pair else .one) width mask vals
  | .columns d e => dstWrites d (if e = 2 then .quad else .pair) mask ((List.range width).map (columnOf e vals))

/-- The result of a lane tile instruction is known: it takes the place that was kept for it (R221). -/
def Ply.tileDone (p : Ply) (due : Nat) (ws : List Write) : Ply :=
  { p with pend := p.pend.map fun x => if x.due = due ∧ x.write.vals = [] then
      (match ws.find? fun w => w.slot = x.write.slot with
        | some w => { x with write := w }
        | none => x)
    else x }

/-- One slot of a ply's lane tile instruction, its threads in ascending index (R221, R222). -/
def serveSlot (s : State) (core : Nat) (j : TileJob) (lanes : List TileLane) : State × TileJob :=
  lanes.foldl (fun (a : State × TileJob) l =>
    let r := laneAccess a.1 core j.act j.size l
    (r.2, { a.2 with got := a.2.got ++ [(l.thread, r.1)] })) (s, j)

/-- The slots of one instruction that fall at or before a cycle. -/
def runJob (now core : Nat) : List (Nat × List TileLane) → State × TileJob → State × TileJob
  | [], r => r
  | x :: t, r => if x.1 ≤ now then
      let q := serveSlot r.1 core r.2 x.2
      runJob now core t (q.1, { q.2 with slots := t })
    else r

/-- The port-B slots of the plies up to the present cycle (R214, R221): an instruction whose last slot has passed leaves its result to
be written. -/
def tileSlots (s : State) : State :=
  s.plies.keys.foldl (fun s key => match s.plies.get? key with
    | none => s
    | some p => p.tiles.foldl (fun s j =>
      let r := runJob s.cycle p.core j.slots (s, j)
      if r.2.slots.isEmpty then
        r.1.modPly key fun p => { p.tileDone j.due (j.use.writes j.size p.width j.mask r.2.got) with tiles := p.tiles.erase j }
      else r.1.modPly key fun p => { p with tiles := p.tiles.map fun x => if x = j then r.2 else x }) s) s

/-- The cycles of the slots still to come. -/
def Ply.slotTimes (p : Ply) : List Nat := p.tiles.flatMap fun j => j.slots.map (·.1)

/-- What a lane tile instruction does once it may issue: its slots are laid out, and its result's place is kept (R221). -/
def tileIssue (v : Env) (s : State) (act : TileAct) (size : Nat) (use : TileUse) (mask : DWord) (lanes : List TileLane) : Res :=
  let part := v.p.plyid % 4
  let tn := lastSlot v.t part (slotCount (lanes.map fun x => x.addr / 16))
  let j : TileJob := ⟨act, size, use, mask, planSlots lanes.length (firstSlot v.t part) lanes, [], tn + 8⟩
  .done (s.modPly v.key fun p => { p with tileAt := tn, tiles := p.tiles ++ [j] })
    { writes := (use.writes size v.p.width mask []).map fun w => { w with vals := [] }, lat := some (tn + 8 - v.t) }

/-- The checks of R224 and the waits of R219 and R221, then the accesses: `off` is a thread's offset, `data` its data. -/
def tileBody (i : Instr) (b : Nat) (off : Env → Nat → DWord) (size states : Nat) (act : TileAct) (use : TileUse)
    (data : Env → Nat → QWord × DWord) (v : Env) (s : State) : Res :=
  let ths := memThreads v i
  match s.skein? v.p with
  | none => .trap causeILLEGAL v.enc
  | some k =>
    match ths with
    | [] => .done s {}
    | k0 :: _ =>
      let r := (v.op b).at64 0
      let offs := ths.map fun k => (k, off v k)
      match resolveRef (s.hwOf v.p.core) v.p.slot r with
      | .inr reason => .trap causeTILESTATE (tileVal (off v k0).toNat (refHandle r) reason)
      | .inl e =>
        match offs.find? fun x => x.2.toNat % size ≠ 0 with
        | some x => .trap causeALIGN x.2
        | none =>
          match offs.find? fun x => decide (x.2.toInt < 0) || decide (512 * e.size < x.2.toNat + size) with
          | some x => .trap causeTILESTATE (tileVal x.2.toNat e.handle 5)
          | none =>
            if !e.inStates states then .wait s (e.await states false) 0
            else
              let busy := partTileAt s v.p
              if v.t < busy then .wait s (.cycle busy) 0
              else tileIssue v s act size use v.p.em (offs.map fun x =>
                ⟨x.1, tilePhys k.wbase e x.2.toNat, (data v x.1).1, (data v x.1).2⟩)

def tldSize (w : BitVec 2) : Nat := 2 ^ (w.toNat + 1)
def noLane : Env → Nat → QWord × DWord := fun _ _ => (0, 0)

/-- TLD (R229). -/
def execTld (d : Name) (b : SReg) (o : Name) (c w : BitVec 2) (sw : Bool) (s : State) : Out :=
  let i := Instr.tld d b o c w sw
  issue i (tileBody i 0 (fun v k => tileOff v 0 1 c.toNat k) (tldSize w) 0b1110 .read (.own d) noLane) s

/-- TST (R229). -/
def execTst (d : Name) (b : SReg) (o : Name) (c w : BitVec 2) (sw : Bool) (s : State) : Out :=
  let i := Instr.tst d b o c w sw
  issue i (tileBody i 1 (fun v k => tileOff v 1 2 c.toNat k) (tldSize w) 0b0110 .write .none fun v k => ((v.op 0).at k, 0)) s

/-- TLDT (R230). -/
def execTldt (d : Name) (b : SReg) (o : Name) (c : BitVec 2) (w sw : Bool) (s : State) : Out :=
  let i := Instr.tldt d b o c w sw
  let e := if w then 2 else 1
  issue i (tileBody i 0 (fun v k => tileOff v 0 1 c.toNat k) (8 * e) 0b1110 .read (.columns d e) noLane) s

/-- TATOM (R231). -/
def execTatom (d : Name) (b : SReg) (o : Name) (op : BitVec 4) (sw : Bool) (s : State) : Out :=
  let i := Instr.tatom d b o op sw
  let n := atomSize op.toNat
  issue i (tileBody i 1 (fun v k => tileOff v 1 2 0 k) n 0b0110 (.atom op) (.own d) fun v k => (atomNewOp op v k, atomCmp op v k)) s

/-! ## TBIND, TSET, TWAIT, TFREE (R225 to R228) -/

def execTbind (d : Name) (a : Src) (hn : BitVec 5) (sw : Bool) (s : State) : Out :=
  issue (.tbind d a hn sw) (fun v s =>
    match s.skein? v.p with
    | none => .trap causeILLEGAL v.enc
    | some k =>
      let x := (v.op 0).at64 0
      let n := hn.toNat
      let size := fieldOf x 32 21
      let base := fieldOf x 0 21
      let h := s.hwOf v.p.core
      let mine := h.tiles.filter fun e => e.slot = v.p.slot
      if mine.any fun e => e.handle = n then .trap causeTILESTATE (tileVal 0 n 6)
      else if fieldOf x 53 11 ≠ 0 ∨ fieldOf x 21 11 ≠ 0 ∨ size = 0 ∨ size % 512 ≠ 0 ∨ base % 512 ≠ 0 ∨ k.wsize < base + size then
        .trap causeTILESTATE (tileVal 0 n 7)
      else if mine.any fun e => decide (512 * e.base < base + size) && decide (base < 512 * e.base + 512 * e.size) then
        .trap causeTILESTATE (tileVal 0 n 8)
      else if 64 ≤ h.tiles.length then .wait s .tileEntry 0
      else
        let g := (k.gens.getD n 0 + 1) % 256
        let s := s.modSkein v.p.skeinKey fun k => { k with gens := k.gens.set n g }
        let s := s.modHw v.p.core fun h => { h with
          tiles := h.tiles ++ [⟨v.p.slot, n, g, .empty, false, false, 0, base / 512, size / 512⟩] }
        let ref : DWord := fieldAt 48 v.p.slot ||| fieldAt 40 g ||| fieldAt 32 n
        .done s { writes := dstWrites d .pair 1 [ref.setWidth 128] }) s

/-- The states from which TSET reaches a target (R218). -/
def tsetFrom : TileSt → Nat
  | .empty => 0b1100
  | .filling => 0b0001
  | .ready => 0b0010
  | .draining => 0b0100

/-- TSET (R226): after every earlier tile instruction's last slot. -/
def tsetBody (st : TileSt) (v : Env) (s : State) : Res :=
  let r := (v.op 0).at64 0
  match resolveRef (s.hwOf v.p.core) v.p.slot r with
  | .inr reason => .trap causeTILESTATE (tileVal 0 (refHandle r) reason)
  | .inl e =>
    if !(e.inStates (tsetFrom st) && e.calm) then .wait s (e.await (tsetFrom st) true) 0
    else if v.t ≤ v.p.tileAt ∧ v.p.tileAt ≠ 0 then .wait s (.cycle (v.p.tileAt + 1)) 0
    else .done (modTile s v.p.core v.p.slot e.handle fun e => e.toState st) {}

def execTsetEmpty (a : Src) (sw : Bool) (s : State) : Out := issue (.tsetEmpty a sw) (tsetBody .empty) s
def execTsetFilling (a : Src) (sw : Bool) (s : State) : Out := issue (.tsetFilling a sw) (tsetBody .filling) s
def execTsetReady (a : Src) (sw : Bool) (s : State) : Out := issue (.tsetReady a sw) (tsetBody .ready) s
def execTsetDraining (a : Src) (sw : Bool) (s : State) : Out := issue (.tsetDraining a sw) (tsetBody .draining) s

def execTwait (a : Src) (k : BitVec 5) (sw : Bool) (s : State) : Out :=
  issue (.twait a k sw) (fun v s =>
    let r := (v.op 0).at64 0
    match resolveRef (s.hwOf v.p.core) v.p.slot r with
    | .inr reason => .trap causeTILESTATE (tileVal 0 (refHandle r) reason)
    | .inl e =>
      if e.inStates k.toNat then .done s { writes := [setQ 7 e.part] }
      else .wait s (e.await k.toNat false) 0) s

def execTfree (a : Src) (sw : Bool) (s : State) : Out :=
  issue (.tfree a sw) (fun v s =>
    let r := (v.op 0).at64 0
    match resolveRef (s.hwOf v.p.core) v.p.slot r with
    | .inr reason => .trap causeTILESTATE (tileVal 0 (refHandle r) reason)
    | .inl e =>
      if !e.calm then .wait s (e.await 15 true) 0
      else .done (s.modHw v.p.core fun h => { h with tiles := h.tiles.erase e }) {}) s

end Sys2Proof.Machine
end

