-- ==== Sys2Proof/Machine/Primitives.lean ====
section
/-! DEFINITION. Hashes, partition and histogram (R305 to R310), and the string instructions (R311 to R316). -/

namespace Sys2Proof.Machine

/-! ## HASH, HASH64, CRC (R307, R308) -/

def hash32 (a b : Word) : Word := lo32 (mix64 (b ++ a))
def hash64 (a : DWord) (b : Word) : DWord := mix64 (a ^^^ (b.setWidth 64 * 0x9E3779B97F4A7C15#64))

/-- One bit of the CRC32C update. -/
def crcBit (c : Word) : Word := if c.getLsbD 0 then (c >>> 1) ^^^ 0x82F63B78#32 else c >>> 1

/-- The update by one data byte. -/
def crcByte (c : Word) (x : Byte) : Word := (List.range 8).foldl (fun c _ => crcBit c) (c ^^^ x.setWidth 32)

/-- CRC over the low `n` bytes of `b`. -/
def crcUpdate (c : Word) (n : Nat) (b : Word) : Word :=
  (List.range n).foldl (fun c i => crcByte c (b.extractLsb' (8 * i) 8)) c

/-- CRC of a state pair: count in bits 33:32, 0 for four (R308). -/
def crc32c (a : DWord) (b : Word) : Word :=
  let n := fieldOf a 32 2
  crcUpdate (lo32 a) (if n = 0 then 4 else n) b

def execHash (d : Name) (a b : Src) (sw : Bool) (s : State) : Out := lane2 (.hash d a b sw) d hash32 s
def execHash64 (d : Name) (a b : Src) (sw : Bool) (s : State) : Out :=
  lanePure (.hash64 d a b sw) d .pair (fun v k => wide64 (hash64 ((v.op 0).at64 k) ((v.op 1).at32 k))) s
def execCrc (d : Name) (a b : Src) (sw : Bool) (s : State) : Out :=
  lanePure (.crc d a b sw) d .one (fun v k => wide (crc32c ((v.op 0).at64 k) ((v.op 1).at32 k))) s

/-! ## PART, HIST (R309, R310) -/

def partBucket (a b : Word) : Nat := a.toNat * b.toNat / 2 ^ 32

def execPart (d : Name) (a b : Src) (sw : Bool) (s : State) : Out :=
  lanePure (.part d a b sw) d .pair (fun v k =>
    let bucket := fun j => partBucket ((v.op 0).at32 j) ((v.op 1).at32 j)
    let rank := ((threadsOf v.p.width v.p.em).filter fun j => decide (j < k) && decide (bucket j = bucket k)).length
    BitVec.ofNat 128 (bucket k + rank * 2 ^ 32)) s

/-- The tile offset of a counter (R310). -/
def histOff (v : Env) (k : Nat) : DWord := ((v.op 1).at64 0 &&& 0xFFFFFFFF) + (((v.op 0).at32 k).setWidth 64 <<< 2)

def execHist (d : Name) (a b : Src) (sw : Bool) (s : State) : Out :=
  let i := Instr.hist d a b sw
  issue i (tileBody i 1 histOff 4 0b0110 (.atom 0) (.own d) fun _ _ => (1, 0)) s

/-! ## Strings (R311 to R313) -/

/-- LEN of a descriptor, and the address of the first byte. -/
def strLen (x : DWord) : Nat := fieldOf x 40 24
def strAddr (base x : DWord) : DWord := base + BitVec.ofNat 64 (fieldOf x 0 40)

/-- Unit `j` of a string: an aligned 16-byte block (R312). -/
def unitAt (a : DWord) (j : Nat) : DWord := (a &&& ~~~0xF#64) + BitVec.ofNat 64 (16 * j)

/-- How many units a string of `n` bytes at `a` has. -/
def unitCount (a : DWord) (n : Nat) : Nat := if n = 0 then 0 else (a.toNat % 16 + n - 1) / 16 + 1

def unitsOf (a : DWord) (n : Nat) : List DWord := (List.range (unitCount a n)).map (unitAt a)

/-- The bytes of a string from its units. -/
def strBytes (a : DWord) (n : Nat) (units : List QWord) : List Byte :=
  ((units.flatMap fun u => bytesOf 16 u.toNat).drop (a.toNat % 16)).take n

/-- Split the units read among strings, in order. -/
def splitUnits : List (DWord × Nat) → List QWord → List (List Byte)
  | [], _ => []
  | (a, n) :: t, us => strBytes a n us :: splitUnits t (us.drop (unitCount a n))

/-- Read units one after another (R313): `next` names the one after those already read. Each is checked and translated on its
own; the ply stays in the instruction until the last has been performed. -/
def readUnits (next : List QWord → Option DWord) (fin : List QWord → State → Res) (v : Env) : Nat → State → Res
  | 0, s => .gone s
  | n + 1, s =>
    let got := match (s.plies.get? v.key).bind (·.work) with
      | some w => w.got
      | none => []
    match next (got.map (·.2)) with
    | none =>
      if landingFree s v.p = 0 then .wait s (.memRoom 1 0) 1
      else fin (got.map (·.2)) (s.modPly v.key fun p => { p with work := none })
    | some a =>
      match planAccess { v with stage := 1 } s [(0, a)] 16 true false true with
      | .stop r => r
      | .go l =>
        let accs := l.map fun x => (⟨0, x.va, x.loc, 16, .load, 0, 0, 0, x.attr⟩ : Acc)
        let s := startKeep s v.key got accs .keep
        match s.plies.get? v.key with
        | some p => if p.workWaits then .wait s .workDone 1 else readUnits next fin v n s
        | none => .gone s

/-- Begin a string instruction: the length check of R313, then the reads. `strs` are the strings whose LEN counts. -/
def stringBody (strs : List (DWord × Nat)) (next : List QWord → Option DWord) (fin : List QWord → State → Res) (v : Env)
    (s : State) : Res :=
  if v.stage = 1 then
    if (v.p.work.map (·.use)) = some .lost then keptLost v s else readUnits next fin v 33000 s
  else match strs.find? fun x => decide (4096 < x.2) with
    | some x => .trap causePROT x.1
    | none => readUnits next fin v 33000 (startKeep s v.key [] [] .keep)

/-- The result of a string instruction lands (R306). -/
def strLand (i : Instr) (v : Env) (d : Name) (w : Width) (vals : List (Nat × QWord)) (more : List Write) (s : State) : Res :=
  let at' (k : Nat) : QWord := match vals.find? fun x => x.1 = k with
    | some x => x.2
    | none => 0
  let n := if i.shape.uniform then 1 else v.p.width
  let ws := dstWrites d w (if i.shape.uniform then 1 else v.p.em) ((List.range n).map at')
  .done s.use { land := some ⟨s.uses, true, 1, ws ++ more⟩ }

/-- A string instruction over the strings of each thread, `per` of them; `f` gives the result from a thread's strings. -/
def stringOp (i : Instr) (d : Name) (w : Width) (per : Nat) (f : Env → Nat → List (List Byte) → QWord) (v : Env) (s : State) : Res :=
  let base := (v.op (if i.shape.srcs.length = 3 then 2 else 1)).at64 0
  let ths := memThreads v i
  let str (n k : Nat) : DWord × Nat := (strAddr base ((v.op n).at64 k), strLen ((v.op n).at64 k))
  let strs := ths.flatMap fun k => (List.range per).map fun n => str n k
  match ths with
  | [] => .done s {}
  | _ =>
    stringBody strs (fun got => (strs.flatMap fun x => unitsOf x.1 x.2)[got.length]?) (fun got s =>
      let all := splitUnits strs got
      let vals := ths.zipIdx.map fun x => (x.1, f v x.1 ((all.drop (per * x.2)).take per))
      strLand i v d w vals [] s) v s

/-- SCMP's order (R314). -/
def strCompare : List Byte → List Byte → Word
  | [], [] => 0
  | [], _ => 0xFFFFFFFF
  | _, [] => 1
  | a :: x, b :: y => if a = b then strCompare x y else if a < b then 0xFFFFFFFF else 1

def execScmp (d : Name) (a b : Src) (sw : Bool) (s : State) : Out :=
  let i := Instr.scmp d a b sw
  issue i (stringOp i d .one 2 fun _ _ l => wide (strCompare (l.getD 0 []) (l.getD 1 []))) s

/-- The lowest index of a byte (R315). -/
def strFind (l : List Byte) (b : Byte) : Word :=
  match l.findIdx? (· = b) with
  | some n => BitVec.ofNat 32 n
  | none => 0xFFFFFFFF

def execSfind (d : Name) (a b : Src) (sw : Bool) (s : State) : Out :=
  let i := Instr.sfind d a b sw
  issue i (stringOp i d .one 1 fun v k l => wide (strFind (l.getD 0 []) (((v.op 1).at32 k).setWidth 8))) s

/-- SHASH (R316). -/
def strHash (l : List Byte) : Word :=
  let n := l.length
  let h := (List.range ((n + 7) / 8)).foldl (fun h j => mix64 (h ^^^ BitVec.ofNat 64 (valueOf ((l.drop (8 * j)).take 8)))) (BitVec.ofNat 64 n)
  let h := mix64 h
  h.extractLsb' 32 32 ^^^ lo32 h

def execShash (d : Name) (a : Src) (sw : Bool) (s : State) : Out :=
  let i := Instr.shash d a sw
  issue i (stringOp i d .one 1 fun _ _ l => wide (strHash (l.getD 0 []))) s

/-- SPFX (R316): the first eight bytes, zero-padded, big-endian. -/
def strPrefix (l : List Byte) : DWord :=
  (List.range 8).foldl (fun x j => (x <<< 8) ||| (l.getD j 0).setWidth 64) 0

def execSpfx (d : Name) (a : Src) (sw : Bool) (s : State) : Out :=
  let i := Instr.spfx d a sw
  issue i (stringOp i d .pair 1 fun _ _ l => wide64 (strPrefix (l.getD 0 []))) s

/-- SLEN of one string from the units read (R316): the address of the next unit to read, or the length, whether a zero byte was
found, and the units left over. -/
def slenOne (a : DWord) : Nat → Nat → List QWord → DWord ⊕ (Nat × Bool × List QWord)
  | 0, _, us => .inr (4096, false, us)
  | _ + 1, j, [] => .inl (unitAt a j)
  | n + 1, j, u :: us =>
    let skip := a.toNat % 16
    let hit := (List.range 16).find? fun b => decide (skip ≤ 16 * j + b) && decide (16 * j + b - skip < 4096) &&
      decide (u.extractLsb' (8 * b) 8 = 0)
    match hit with
    | some b => .inr (16 * j + b - skip, true, us)
    | none => if 4096 ≤ 16 * (j + 1) - skip then .inr (4096, false, us) else slenOne a n (j + 1) us

/-- SLEN of the threads' strings in order. -/
def slenAll : List DWord → List QWord → DWord ⊕ List (Nat × Bool)
  | [], _ => .inr []
  | a :: t, us => match slenOne a 257 0 us with
    | .inl x => .inl x
    | .inr (n, found, us) => match slenAll t us with
      | .inl x => .inl x
      | .inr l => .inr ((n, found) :: l)

def execSlen (d : Name) (a : Src) (sw : Bool) (s : State) : Out :=
  let i := Instr.slen d a sw
  issue i (fun v s =>
    let ths := memThreads v i
    let base := (v.op 1).at64 0
    let addrs := ths.map fun k => strAddr base ((v.op 0).at64 k)
    match ths with
    | [] => .done s {}
    | _ =>
      stringBody [] (fun got => match slenAll addrs got with
        | .inl x => some x
        | .inr _ => none) (fun got s =>
        let l := match slenAll addrs got with
          | .inr l => l
          | .inl _ => []
        let vals := ths.zipIdx.map fun x =>
          (x.1, wide64 (fieldAt 40 (l.getD x.2 (0, true)).1 ||| fieldAt 0 (fieldOf ((v.op 0).at64 x.1) 0 40)))
        strLand i v d .pair vals [setQ 7 (l.any fun x => !x.2)] s) v s) s

end Sys2Proof.Machine
end

