-- ==== Sys2Proof/Machine/Shake.lean ====
section
/-! DEFINITION. SHAKE256 (FIPS 202), which R467, R470, R471 and R472 name. PRESUMED: the function itself is not in the
manual (log 5). -/

namespace Sys2Proof.Machine

/-- The 24 round constants. -/
def keccakRc : List DWord :=
  [0x0000000000000001, 0x0000000000008082, 0x800000000000808A, 0x8000000080008000, 0x000000000000808B, 0x0000000080000001,
   0x8000000080008081, 0x8000000000008009, 0x000000000000008A, 0x0000000000000088, 0x0000000080008009, 0x000000008000000A] ++
  [0x000000008000808B, 0x800000000000008B, 0x8000000000008089, 0x8000000000008003, 0x8000000000008002, 0x8000000000000080,
   0x000000000000800A, 0x800000008000000A, 0x8000000080008081, 0x8000000000008080, 0x0000000080000001, 0x8000000080008008]

/-- Rotation of lane x + 5y. -/
def keccakRot : List Nat :=
  [0, 1, 62, 28, 27, 36, 44, 6, 55, 20, 3, 10, 43, 25, 39, 41, 45, 15, 21, 8, 18, 2, 61, 56, 14]

def laneOf (a : List DWord) (x y : Nat) : DWord := a.getD (x % 5 + 5 * (y % 5)) 0

/-- One round. -/
def keccakRound (a : List DWord) (rc : DWord) : List DWord :=
  let col (x : Nat) : DWord := (List.range 5).foldl (fun c y => c ^^^ laneOf a x y) 0
  let cs := (List.range 5).map col
  let d := (List.range 5).map fun x => cs.getD ((x + 4) % 5) 0 ^^^ (cs.getD ((x + 1) % 5) 0).rotateLeft 1
  let a := (List.range 25).map fun i => a.getD i 0 ^^^ d.getD (i % 5) 0
  let b := (List.range 25).map fun i =>
    let x := i % 5
    let y := i / 5
    let sx := (x + 3 * y) % 5
    (laneOf a sx x).rotateLeft (keccakRot.getD (sx + 5 * x) 0)
  (List.range 25).map fun i =>
    let x := i % 5
    let y := i / 5
    let v := laneOf b x y ^^^ (~~~(laneOf b (x + 1) y) &&& laneOf b (x + 2) y)
    if i = 0 then v ^^^ rc else v

def keccakF (a : List DWord) : List DWord := keccakRc.foldl keccakRound a

/-- The 136-byte blocks of a padded message. -/
def shakePad (m : List Byte) : List Byte :=
  let n := 136 - m.length % 136
  m ++ (if n = 1 then [0x9F] else 0x1F :: List.replicate (n - 2) 0 ++ [0x80])

def absorbBlock (a : List DWord) (blk : List Byte) : List DWord :=
  keccakF ((List.range 25).map fun i => a.getD i 0 ^^^
    if i < 17 then BitVec.ofNat 64 (valueOf ((blk.drop (8 * i)).take 8)) else 0)

def absorbAll : Nat → List DWord → List Byte → List DWord
  | 0, a, _ => a
  | n + 1, a, m => absorbAll n (absorbBlock a (m.take 136)) (m.drop 136)

/-- The first `n` bytes of SHAKE256 of a message, `n` at most 136. -/
def shake256 (n : Nat) (m : List Byte) : List Byte :=
  let p := shakePad m
  let a := absorbAll (p.length / 136) (List.replicate 25 0) p
  ((a.take 17).flatMap fun x => bytesOf 8 x.toNat).take n

end Sys2Proof.Machine
end

