-- ==== Sys2Proof/Machine/Regs.lean ====
section
/-! DEFINITION. The REG instructions (R251 to R257): the extended block, VKILL, RDLIVE and the reach into the level below. -/

namespace Sys2Proof.Machine

/-- Units of the extended pool that a ply's block takes (R251). -/
def extUnitsOf (width : Nat) : Nat := if width = 64 then 2 else 1

/-- Give the extended block to a ply (R253): its registers are vacant. -/
def grantExt (s : State) (key : Nat) (p : Ply) : State :=
  (s.modPly key fun p => { p with ext := true }).modPart p.partKey fun pt =>
    { pt with extUnits := pt.extUnits + extUnitsOf p.width, vacq := pt.vacq.erase key }

/-- Take the extended block back (R254): v48 to v79 become vacant and the units return to the pool. -/
def releaseExt (s : State) (key : Nat) (p : Ply) : State :=
  if p.ext then
    (s.modPly key fun p => { p with ext := false, v := p.v.filter fun n _ => decide (n < 48) }).modPart p.partKey fun pt =>
      { pt with extUnits := pt.extUnits - extUnitsOf p.width }
  else s

/-- Whether the head of the VACQ queue finds room (R253). -/
def vacqFits (s : State) (pt : Part) (key : Nat) : Bool :=
  match s.plies.get? key with
  | some p => decide (pt.extUnits + extUnitsOf p.width ≤ 32)
  | none => false

def execVacq (sw : Bool) (s : State) : Out :=
  issue (.vacq sw) (fun v s =>
    if v.p.ext then .done s {}
    else if !v.p.extDecl then .trap causeREGPOOL 0x30
    else
      let pt := s.part v.p.partKey
      if (pt.vacq = [] ∨ pt.vacq.head? = some v.key) && vacqFits s pt v.key then .done (grantExt s v.key v.p) {}
      else .wait (s.modPart v.p.partKey fun pt =>
        if pt.vacq.contains v.key then pt else { pt with vacq := pt.vacq ++ [v.key] }) .vacq 0) s

/-- What a switch point with nothing left to land takes first: the trap that an access of the ply reported (R89, R155). -/
def reportedTrap (s : State) (key : Nat) (p : Ply) : Option State :=
  let s := s.modPly key fun q => { q with memlost := none, mixsize := none }
  match p.memlost, p.mixsize with
  | some x, _ => some (takeTrap (s.modSkein p.skeinKey fun k => { k with failed := true }) key causeMEMLOST x p.pc)
  | none, some x => some (takeTrap s key causeMIXSIZE x p.pc)
  | none, none => none

/-- VREL (R254): releasing the block is a switch point, whether or not anything is outstanding. -/
def execVrel (sw : Bool) (s : State) : Out :=
  issue (.vrel sw) (fun v s =>
    if !v.p.ext then .done s {}
    else if v.stage = 1 then .done (releaseExt s v.key v.p) {}
    else if v.p.out ≠ [] then .wait s .landRoom 1
    else if v.p.tiles ≠ [] then .wait s (.cycle (v.p.tileAt + 1)) 0
    else match reportedTrap s v.key v.p with
    | some s' => .gone s'
    | none =>
      let last := v.p.pend.foldl (fun m x => max m x.due) v.t
      .done (releaseExt (s.modPly v.key fun p => p.landAll.dropLatches) v.key v.p) { after := last - v.t + 2 }) s

def execVkill (a : Src) (sw : Bool) (s : State) : Out :=
  issue (.vkill a sw) (fun v s =>
    match v.p.regpoolOf a.name .one with
    | some n => .trap causeREGPOOL (BitVec.ofNat 64 n)
    | none => .done (s.modPly v.key fun p => (slotsOf a.name .one).foldl Ply.vacate p) {}) s

/-- Whether a write to a place is outstanding (R256). -/
def Ply.awaits (p : Ply) (sl : Slot) : Bool :=
  (p.pend.any fun x => decide (x.write.slot = sl)) || p.out.any fun l => l.writes.any fun w => decide (w.slot = sl)

/-- Liveness (R256). -/
def Ply.liveReg (p : Ply) (sl : Slot) : Bool :=
  p.awaits sl || match sl with
    | .v n => (p.v.has n)
    | .s n => (p.s.has n)
    | .o n => match p.oNow[n]? with
      | some e => e.valid && e.live
      | none => false
    | _ => false

/-- Bits 0 to n - 1 of a mask. -/
def bitsOf (n : Nat) (f : Nat → Bool) : Nat := (List.range n).foldl (fun a k => if f k then a + 2 ^ k else a) 0

def liveSet (p : Ply) (sel : Nat) : DWord :=
  let liveV (n : Nat) : Bool := (decide (n < 48) || p.ext) && p.liveReg (.v n)
  match sel with
  | 0 => BitVec.ofNat 64 (bitsOf 64 liveV)
  | 1 => BitVec.ofNat 64 (bitsOf 16 (fun k => liveV (64 + k)) + 2 ^ 16 * bitsOf 8 (fun k => p.liveReg (.o k)) +
      2 ^ 24 * p.lx.valid.toNat + 2 ^ 25 * (p.ly.valid || p.lyNew.isSome).toNat + 2 ^ 32 * bitsOf 32 (fun k => p.liveReg (.s k)))
  | 2 =>
    if p.tl = 0 then 0
    else
      let st := (if p.tl = 2 then p.tr2 else p.tr1).xstat
      BitVec.ofNat 64 (bitsOf 8 (fun k => match p.oBelow[k]? with
        | some e => e.valid && e.live
        | none => false) + 2 ^ 8 * (st.getLsbD 5).toNat + 2 ^ 9 * (st.getLsbD 6).toNat)
  | _ => 0

def execRdlive (d : Name) (a : Src) (sw : Bool) (s : State) : Out :=
  issue (.rdlive d a sw) (fun v s =>
    .done s { writes := dstWrites d .pair 1 [wide64 (liveSet v.p ((v.op 0).at32 0).toNat)] }) s

/-- The entry of the level below that UPRD names: its values and whether it is valid and live (R257). -/
def lowerEntry (p : Ply) (a : Name) : Lanes × Bool :=
  let tr := if p.tl = 2 then p.tr2 else p.tr1
  match a with
  | .o n => match p.oBelow[n.val]? with
    | some e => if e.valid && e.live then (e.vals, true) else ([], false)
    | none => ([], false)
  | .lx => if tr.xstat.getLsbD 5 then (tr.xlx, true) else ([], false)
  | .ly => if tr.xstat.getLsbD 6 then (tr.xly, true) else ([], false)
  | _ => ([], false)

def execUprd (d : Name) (a : Src) (sw : Bool) (s : State) : Out :=
  issue (.uprd d a sw) (fun v s =>
    let (l, ok) := lowerEntry v.p a.name
    .done s { writes := dstWrites d .one v.p.em ((List.range v.p.width).map fun k => wide (l.at k)) ++
      [⟨.q 7, 1, [if ok then 0 else 1]⟩] }) s

def execUpwr (d : Name) (a : Src) (sw : Bool) (s : State) : Out :=
  issue (.upwr d a sw) (fun v s =>
    match d with
    | .o n =>
      let vals := (List.range v.p.width).map fun k => ((v.op 0).at32 k).setWidth 64
      .done (s.modPly v.key fun p => p.setOBelow (p.oBelow.modify n.val fun e => e.write p.width v.p.em vals)) {}
    | _ => .done s {}) s

end Sys2Proof.Machine
end

