-- ==== Sys2Proof/Machine/Sync.lean ====
section
/-! DEFINITION. Barriers (R397 to R400) and ticket chains (R402, R403). -/

namespace Sys2Proof.Machine

def Barrier.zero : Barrier := ⟨0, 0, 0, 0, 0, 0⟩
def Skein.bar (k : Skein) (b : Nat) : Barrier := k.bars.getD b Barrier.zero
def Skein.setBar (k : Skein) (b : Nat) (x : Barrier) : Skein := { k with bars := k.bars.set b x }

/-- Identity of a payload operation (R399). -/
def barIdent (op : Nat) : Word :=
  match op with
  | 1 => 0xFFFFFFFF
  | 5 => 0x7FFFFFFF
  | 6 => 0x80000000
  | _ => 0

/-- Combination of contributions (R399). -/
def barComb (op : Nat) (x y : Word) : Word :=
  match op with
  | 1 => x &&& y
  | 2 => x ||| y
  | 3 => x + y
  | 4 => x + y
  | 5 => minS x y
  | 6 => maxS x y
  | _ => x

/-- The value an arrival contributes (R399). -/
def barContrib (op : Nat) (v : Env) : Word :=
  let one (x : Word) : Word := if op = 4 then (if x = 0 then 0 else 1) else x
  let a := v.op 0
  if a.uni then one (a.at32 0)
  else (threadsOf v.p.width v.p.em).foldl (fun acc k => barComb op acc (one (a.at32 k))) (barIdent op)

/-- Whether the party set counts each ply once (R397). -/
def barIsSet (code : Nat) : Bool := decide (33 ≤ code)

/-- The plies of a role or of all (R397). -/
def barParty (r : List DWord) (code p : Nat) : Bool :=
  code = 33 || (code = 34 && decide (recRole r p = .producer)) || (code = 35 && decide (recRole r p = .consumer))

/-- Whether the open phase of barrier `b` is complete (R397); a deferred arrival counts once it is made (R209). -/
def barComplete (k : Skein) (b : Nat) : Bool :=
  let x := k.bar b
  let code := recBar k.lrec b
  let n := recNply k.lrec
  let arrived (p : Nat) : Bool := x.arrm.getLsbD p && !x.defm.getLsbD p
  let gone (p : Nat) : Bool := k.retired.getLsbD p && !x.defm.getLsbD p
  if code = 0 then false
  else if barIsSet code then
    (List.range n).all fun p => !barParty k.lrec code p || arrived p || gone p
  else decide (code ≤ x.narr + ((List.range n).filter fun p => gone p && !x.arrm.getLsbD p).length)

/-- Record an arrival with a payload: the first one with an operation sets OP (R399). -/
def Barrier.arrive (x : Barrier) (p op : Nat) (c : Word) : Barrier :=
  let opNow := if x.op = 0 then op else x.op
  let acc := if op = 0 then x.acc else barComb op (if x.op = 0 then barIdent op else x.acc) c
  { x with op := opNow, acc := acc, narr := (x.narr + 1) % 64, arrm := x.arrm ||| (1#32 <<< p) }

/-- The arrival of BAR and BARA (R400): the waits that show earlier accesses, the wait of a second arrival in one phase, the
check of OP, then the arrival. -/
def arriveAt (b m : Nat) (v : Env) (s : State) (go : State → Res) : Res :=
  match quietWait v true with
  | some c => .wait s c 0
  | none =>
    match s.skein? v.p with
    | none => .trap causeILLEGAL v.enc
    | some k =>
      let x := k.bar b
      if barIsSet (recBar k.lrec b) && x.arrm.getLsbD v.p.plyid then .wait s (.phase b x.phase) 0
      else if m ≠ 0 && decide (x.op ≠ 0) && decide (x.op ≠ m) then .trap causeILLEGAL v.enc
      else
        let s := s.modSkein v.p.skeinKey fun k => k.setBar b (x.arrive v.p.plyid m (barContrib m v))
        go (s.modPly v.key fun p => { p with owe := p.owe ||| (1#16 <<< b) })

/-- The return of BARW (R400): OWE is cleared and the result written. -/
def barReturn (d : Name) (b : Nat) (v : Env) (s : State) : Res :=
  let r := match s.plies.get? v.key with
    | some p => p.bres.getD b 0
    | none => 0
  let n := if d.isS then 1 else v.p.width
  .done (s.modPly v.key fun p => { p with owe := p.owe &&& ~~~(1#16 <<< b) })
    { writes := dstWrites d .one (if d.isS then 1 else v.p.em) (List.replicate n (wide r)) }

/-- Park until the phase that BAR (stage 1) or BARW (stage 2) waits for completes (R400). -/
def barWait (d : Name) (b : Nat) (stage : Nat) (v : Env) (s : State) : Res :=
  match s.skein? v.p, s.plies.get? v.key with
  | some k, some p =>
    let x := k.bar b
    if p.owe.getLsbD b && !x.arrm.getLsbD p.plyid then barReturn d b v s
    else .wait s (.phase b x.phase) stage
  | _, _ => .trap causeILLEGAL v.enc

/-- Complete the open phase of a barrier (R399, R400): its result goes to every ply whose OWE is set for the phase, and to
the plies that wait for it in BARW. -/
def completePhase (s : State) (sk b : Nat) : State :=
  match s.skeins.get? sk with
  | none => s
  | some k =>
    let x := k.bar b
    let r : Word := if x.op = 0 then 0 else x.acc
    let gets (p : Ply) : Bool := decide (p.skeinKey = sk) &&
      ((p.owe.getLsbD b && x.arrm.getLsbD p.plyid) || decide (p.park = .wait (.phase b x.phase) ∧ p.stage = 2))
    { s with
      skeins := s.skeins.set sk (k.setBar b { Barrier.zero with phase := (x.phase + 1) % 2 ^ 16 })
      plies := List.map (fun e => (e.1, if gets e.2 then { e.2 with bres := e.2.bres.set b r } else e.2)) s.plies }

def execBar (d : Name) (a : Src) (b : BitVec 4) (m : BitVec 3) (sw : Bool) (s : State) : Out :=
  issue (.bar d a b m sw) (fun v s =>
    if v.stage = 1 then barReturn d b.toNat v s
    else arriveAt b.toNat m.toNat v s fun s => barWait d b.toNat 1 v s) s

def execBara (a : Src) (b : BitVec 4) (m : BitVec 3) (sw : Bool) (s : State) : Out :=
  issue (.bara a b m sw) (fun v s => arriveAt b.toNat m.toNat v s fun s => .done s {}) s

def execBarw (d : Name) (b : BitVec 4) (sw : Bool) (s : State) : Out :=
  issue (.barw d b sw) (fun v s => if v.stage = 2 then barReturn d b.toNat v s else barWait d b.toNat 2 v s) s

/-! ## Ticket chains (R402, R403) -/

def Chain.zero : Chain := ⟨0, 0, 0, [], [(0, (0, 0))]⟩
def Launch.chain (l : Launch) (c : Nat) : Chain := l.chains.getD c Chain.zero

/-- Advance a chain while its head ticket is resolved; the fuel is the number of resolved tickets (R402). -/
def Chain.advance : Nat → Chain → Chain
  | 0, x => x
  | n + 1, x =>
    match x.done.get? x.h with
    | none => x
    | some r =>
      let (v, k) := match r with
        | some w => (w, 0)
        | none => (x.v, if x.k = BitVec.allOnes 64 then x.k else x.k + 1)
      Chain.advance n { h := x.h + 1, v := v, k := k, done := x.done.erase x.h, seen := x.seen.set (x.h + 1) (v, k) }

/-- Resolve ticket `i`: a PUT with a value, or a SKIP (R402). -/
def Chain.resolve (x : Chain) (i : Nat) (r : Option DWord) : Chain :=
  let x := { x with done := x.done.set i r }
  x.advance x.done.length

/-- The chain of a ply's launch. -/
def State.chainOf (s : State) (p : Ply) (c : Nat) : Chain :=
  match s.launches.get? (p.ctx * 64 + p.lid) with
  | some l => l.chain c
  | none => Chain.zero

/-- Resolve a skein's ticket on a chain, once (R402). -/
def resolveTicket (s : State) (p : Ply) (c : Nat) (r : Option DWord) : State :=
  let s := { s with launches := s.launches.modify (p.ctx * 64 + p.lid) fun l =>
    { l with chains := l.chains.modify c fun x => x.resolve p.skix r } }
  s.modSkein p.skeinKey fun k => { k with resolved := k.resolved ||| (1#8 <<< c) }

def ticketDone (s : State) (p : Ply) (c : Nat) : Bool :=
  match s.skein? p with
  | some k => k.resolved.getLsbD c
  | none => true

/-- V into s[d7], K into s[d7+1], and q7 (R403). -/
def ticketWrites (d : Name) (x k : DWord) : List Write :=
  dstWrites d .quad 1 [x.setWidth 128 ||| (k.setWidth 128 <<< 64)] ++ [⟨.q 7, 1, [if k = 0 then 0 else 1]⟩]

def execTktTake (d : Name) (a : Src) (c : BitVec 3) (sw : Bool) (s : State) : Out :=
  issue (.tktTake d a c sw) (fun v s =>
    if ticketDone s v.p c.toNat then .trap causeILLEGAL v.enc
    else match quietWait v true with
      | some w => .wait s w 0
      | none =>
        let x := s.chainOf v.p c.toNat
        if x.h ≠ v.p.skix then .wait s (.ticket c.toNat true) 0
        else .done (resolveTicket s v.p c.toNat (some (x.v + (v.op 0).at64 0))) { writes := ticketWrites d x.v x.k }) s

def execTktWaitp (d : Name) (c : BitVec 3) (sw : Bool) (s : State) : Out :=
  issue (.tktWaitp d c sw) (fun v s =>
    let x := s.chainOf v.p c.toNat
    if x.h < v.p.skix then .wait s (.ticket c.toNat false) 0
    else
      let (val, k) := x.seen.getD v.p.skix (0, 0)
      .done s { writes := ticketWrites d val k }) s

def execTktPut (a : Src) (c : BitVec 3) (sw : Bool) (s : State) : Out :=
  issue (.tktPut a c sw) (fun v s =>
    if ticketDone s v.p c.toNat then .trap causeILLEGAL v.enc
    else match quietWait v true with
      | some w => .wait s w 0
      | none => .done (resolveTicket s v.p c.toNat (some ((v.op 0).at64 0))) {}) s

def execTktSkip (c : BitVec 3) (sw : Bool) (s : State) : Out :=
  issue (.tktSkip c sw) (fun v s =>
    if ticketDone s v.p c.toNat then .trap causeILLEGAL v.enc
    else match quietWait v true with
      | some w => .wait s w 0
      | none => .done (resolveTicket s v.p c.toNat none) {}) s

end Sys2Proof.Machine
end

