-- ==== Sys2Proof/Machine/Copy.lean ====
section
/-! DEFINITION. The copy engines (R189 to R212): issue, the engine's program, scheduling, completion, DEFARR and CPYQ. -/

namespace Sys2Proof.Machine

def Engine.zero : Engine := ⟨0, 0, [], [], [], [], [], false⟩

/-! ## The layout record (R194) and the coordinate block (R193) -/

def layRows (l : List DWord) : Nat := fieldOf (recWord l 0) 32 32 + 1
def layCols (l : List DWord) : Nat := fieldOf (recWord l 0) 16 16 + 1
def layIdxw (l : List DWord) : Nat := if fieldOf (recWord l 0) 10 2 = 0 then 4 else 8
def laySwz (l : List DWord) : Nat := fieldOf (recWord l 0) 8 2
def layKind (l : List DWord) : Nat := fieldOf (recWord l 0) 4 4
def layEsz (l : List DWord) : Nat := 2 ^ fieldOf (recWord l 0) 0 4
def layPitch (l : List DWord) : Nat := fieldOf (recWord l 2) 0 32
def layBrows (l : List DWord) : Nat := fieldOf (recWord l 3) 32 32
def layBcols (l : List DWord) : Nat := fieldOf (recWord l 3) 0 32

/-- KIND an instruction needs (R191). -/
def kindOf : Instr → Nat
  | .gather .. => 1
  | .scatter .. => 2
  | .pscat .. => 3
  | _ => 0

def isGG : Instr → Bool
  | .cpygg .. => true
  | _ => false

/-- Whether the copy fills its tile from memory, rather than draining it (R198). -/
def isFill : Instr → Bool
  | .cpyin .. | .gather .. => true
  | _ => false

def chained : Instr → Bool
  | .cpyin _ _ _ _ h _ | .cpyout _ _ _ _ h _ | .cpygg _ _ _ _ h _ | .gather _ _ _ _ h _ | .scatter _ _ _ _ h _ | .pscat _ _ _ _ h _ => h
  | _ => false

/-- The first failed check of R195, if any; `tile` is the size of the tile. BSTRIDE must be a multiple of the element size (DESIGN CHOICE, log 94:
the rule says only that it is misaligned). -/
def layoutFault (i : Instr) (l : List DWord) (ctl : DWord) (tile : Nat) : Option Nat :=
  let w (n : Nat) := recWord l n
  let kind := layKind l
  let e := layEsz l
  let rows := layRows l
  let cols := layCols l
  let gg := isGG i
  if 4 < fieldOf (w 0) 0 4 ∨ 3 < kind ∨ 1 < fieldOf (w 0) 10 2 ∨ kind ≠ kindOf i then some 1
  else if 2 ^ 30 < rows * cols * e then some 2
  else if (w 1).toNat % e ≠ 0 then some 3
  else if (if gg then layPitch l % e ≠ 0 else (layPitch l % 16 ≠ 0 ∨ layPitch l < cols * e)) then some 4
  else if !gg && decide (tile < (rows - 1) * layPitch l + cols * e) then some 5
  else if (if gg then laySwz l ≠ 0 else (laySwz l ≠ 0 ∧ layPitch l % (16 * 2 ^ laySwz l) ≠ 0)) then some 6
  else if fieldOf (w 0) 12 4 ≠ 0 ∨ fieldOf (w 2) 32 32 ≠ 0 ∨ fieldOf (w 5) 16 16 ≠ 0 ∨
      (kind = 0 ∧ (fieldOf (w 0) 10 2 ≠ 0 ∨ w 4 ≠ 0 ∨ w 5 ≠ 0 ∨ w 6 ≠ 0 ∨ w 7 ≠ 0)) ∨
      ((kind = 1 ∨ kind = 2) ∧ (w 5 ≠ 0 ∨ w 6 ≠ 0 ∨ w 7 ≠ 0)) then some 7
  else if (kind ≠ 0 ∧ (w 4).toNat % layIdxw l ≠ 0) ∨
      (kind = 3 ∧ ((w 6).toNat % 8 ≠ 0 ∨ (w 7).toNat % e ≠ 0 ∨ fieldOf (w 5) 0 16 = 0)) then some 8
  else if fieldOf ctl 7 57 ≠ 0 then some 9
  else if gg && ctl.getLsbD 6 then some 11
  else none

/-! ## Issue (R192, R195, R199) -/

def State.modEngine (s : State) (sk : Nat) (f : Engine → Engine) : State := s.modSkein sk fun k => { k with eng := f k.eng }

def copyFault (code : Nat) : DWord := BitVec.ofNat 64 (code * 256 + 8)

/-- Open a copy: its number, its tile's event, the engine's queue (R190, R198, R199). -/
def openCopy (i : Instr) (v : Env) (k : Skein) (lay coord : List DWord) (t : DWord) (tile : Option TileEnt) (d : Name) (s : State) : Res :=
  let n := k.eng.issued + 1
  let ctl := recWord coord 3
  let c : Copy := {
    n := n, instr := i, issuer := v.p.plyid, tl := v.p.tl, layout := lay, coord := coord, tref := t, okRead := 0, okWrite := 0,
    cls := min (fieldOf ctl 4 2) (s.launchClass v.p.ctx v.p.lid), slack := fieldOf ctl 0 4, since := 0, st := .queued, row := 0, col := 0,
    phase := if layKind lay = 0 then .read else .index, idx := 0, slot := 0, val := 0, waiting := false, left := 0, dropped := 0,
    stop := none, miss := none, verdict := .retry }
  let s := s.modEngine v.p.skeinKey fun e => { e with
    issued := n, copies := e.copies ++ [c], stats := e.stats.filter fun x => decide (n < x.n + 64) }
  let s := match tile with
    | some x => modTile s v.p.core v.p.slot x.handle fun x => { x with ncpy := x.ncpy + 1, st := if isFill i then .filling else .draining }
    | none => s
  .done (s.modPly v.key fun p => { p with work := none }) { writes := dstWrites d .pair 1 [BitVec.ofNat 128 n] }

/-- A copy instruction, the layout record read (stage 1), or still to be read (stage 0); after a wait for its tile or for room it begins
again with its checks, the reading of the record among them (R199, R219; DEDUCED, log 91). -/
def copyBody (i : Instr) (d : Name) (v : Env) (s : State) : Res :=
  match s.skein? v.p with
  | none => .trap causeILLEGAL v.enc
  | some k =>
    let t := (v.op 0).at64 0
    let coord := (List.range 4).map fun j => (v.op (1 + j)).at64 0
    let lay := (v.op 5).at64 0
    let stamp := recWord coord 2
    let tile : Option (TileEnt ⊕ Nat) := if isGG i then none else some (resolveRef (s.hwOf v.p.core) v.p.slot t)
    match tile with
    | some (.inr reason) => .trap causeTILESTATE (tileVal 0 (refHandle t) reason)
    | _ =>
      if lay.toNat % 64 ≠ 0 then .trap causeALIGN lay
      else if stamp.toNat % 8 ≠ 0 then .trap causeALIGN stamp
      else
        let ent : Option TileEnt := match tile with
          | some (.inl e) => some e
          | _ => none
        let again (s : State) (c : Cond) : Res := .wait (s.modPly v.key fun p => { p with work := none }) c 0
        let go (w : Work) (s : State) : Res :=
          if w.use = .lost then keptLost v s
          else
            let l := (List.range 4).flatMap fun j => match w.got.find? fun x => x.1 = j with
              | some x => [x.2.extractLsb' 0 64, x.2.extractLsb' 64 64]
              | none => [0, 0]
            match layoutFault i l (recWord coord 3) (match ent with
              | some e => 512 * e.size
              | none => 0) with
            | some code => .trap causeCOPYFAULT (copyFault code)
            | none =>
              if 32 ≤ k.eng.copies.length then again s .copyRoom
              else match ent with
                | some e =>
                  let mask := if isFill i then 0b0011 else 0b1100
                  if e.inStates mask then openCopy i v k l coord t ent d s else again s (e.await mask false)
                | none => openCopy i v k l coord t none d s
        match (if v.stage = 1 then v.p.work else none) with
        | some w => go w s
        | none =>
          match planAccess v s ((List.range 4).map fun j => (j, lay + BitVec.ofNat 64 (16 * j))) 16 true false true with
          | .stop r => r
          | .go l =>
            let s := startKeep s v.key [] (l.map fun x => ⟨x.thread, x.va, x.loc, 16, .load, 0, 0, 0, x.attr⟩) .keep
            match s.plies.get? v.key with
            | some p => if p.workWaits then .wait s .workDone 1 else match p.work with
              | some w => go w s
              | none => .gone s
            | none => .gone s

def execCpyin (d : Name) (t k l : SReg) (h sw : Bool) (s : State) : Out := let i := Instr.cpyin d t k l h sw; issue i (copyBody i d) s
def execCpyout (d : Name) (t k l : SReg) (h sw : Bool) (s : State) : Out := let i := Instr.cpyout d t k l h sw; issue i (copyBody i d) s
def execCpygg (d : Name) (t k l : SReg) (h sw : Bool) (s : State) : Out := let i := Instr.cpygg d t k l h sw; issue i (copyBody i d) s
def execGather (d : Name) (t k l : SReg) (h sw : Bool) (s : State) : Out := let i := Instr.gather d t k l h sw; issue i (copyBody i d) s
def execScatter (d : Name) (t k l : SReg) (h sw : Bool) (s : State) : Out := let i := Instr.scatter d t k l h sw; issue i (copyBody i d) s
def execPscat (d : Name) (t k l : SReg) (h sw : Bool) (s : State) : Out := let i := Instr.pscat d t k l h sw; issue i (copyBody i d) s

/-! ## The engine's program (R196, R197, R200 to R202) -/

/-- Elements copied before the current one. -/
def Copy.doneElems (c : Copy) : Nat := c.row * layCols c.layout + c.col
def Copy.total (c : Copy) : Nat := layRows c.layout * layCols c.layout * layEsz c.layout
def Copy.doneBytes (c : Copy) : Nat := c.doneElems * layEsz c.layout

def swizzle (m r o : Nat) : Nat := o ^^^ (r % 2 ^ m * 16)

/-- The memory-side row index and the memory address of the current element (R196). -/
def Copy.memRow (c : Copy) : Nat := if layKind c.layout = 0 then fieldOf (recWord c.coord 1) 0 32 + c.row else c.idx
def Copy.memCol (c : Copy) : Nat := fieldOf (recWord c.coord 1) 32 32 + c.col
def Copy.memAddr (c : Copy) : DWord :=
  let l := c.layout
  let col := BitVec.ofNat 64 (c.memCol * layEsz l)
  if layKind l = 3 then
    recWord c.coord 0 + BitVec.ofNat 64 c.idx * recWord l 7 + BitVec.ofNat 64 c.slot * recWord l 1 + col
  else recWord c.coord 0 + BitVec.ofNat 64 c.memRow * recWord l 1 + col

/-- Out of bounds on the memory side (R196). -/
def Copy.outside (c : Copy) : Bool :=
  (decide (layBrows c.layout ≠ 0) && decide (layBrows c.layout ≤ c.memRow)) ||
    (decide (layBcols c.layout ≠ 0) && decide (layBcols c.layout ≤ c.memCol))

/-- The tile of a copy, as bound at its issue. -/
def Copy.tile (c : Copy) (s : State) (sk : Nat) : Option TileEnt := boundTile (s.hwOf (sk / 16)) (sk % 16) c.tref

/-- The tile-side physical address of the current element. -/
def Copy.tileAddr (c : Copy) (s : State) (sk : Nat) : Nat :=
  match s.skeins.get? sk, c.tile s sk with
  | some k, some e => tilePhys k.wbase e (swizzle (laySwz c.layout) c.row (c.row * layPitch c.layout + c.col * layEsz c.layout))
  | _, _ => 0

def Copy.ggAddr (c : Copy) : DWord := c.tref + BitVec.ofNat 64 (c.row * layPitch c.layout + c.col * layEsz c.layout)

/-- Bits 6 FIN of the control word. -/
def Copy.fin (c : Copy) : Bool := (recWord c.coord 3).getLsbD 6

/-- The stamp's value (R202). -/
def Copy.stampValue (c : Copy) : DWord :=
  match c.stop with
  | none => BitVec.ofNat 64 c.n
  | some _ => fieldAt 63 1 ||| fieldAt 32 (c.doneBytes % 2 ^ 31) ||| fieldAt 0 (c.n % 2 ^ 32)

/-- The element of an index in layout order. -/
def Copy.elem (c : Copy) (n : Nat) : Copy := { c with row := n / layCols c.layout, col := n % layCols c.layout }

/-- The memory sides of a copy (R200), and the accesses that are pieces of their own. -/
inductive Side where
  | read | write | alone
deriving DecidableEq, Repr

/-- The access of an element on a side: its address, or none for an element that is out of bounds there (R196). -/
def Copy.sideAddr (c : Copy) (side : Side) : Option DWord :=
  if side = .write && isGG c.instr then some c.ggAddr else if c.outside then none else some c.memAddr

/-- One past the last element that may lie in the piece of the current one: an index-list read ends the run (R200). -/
def Copy.runLimit (c : Copy) : Nat := (if layKind c.layout = 0 then layRows c.layout else c.row + 1) * layCols c.layout

/-- The piece that begins with element `n` of a side (R200): the elements whose accesses lie in the page, and the first reason to stop
that one of them gives (R201). -/
def pieceScan (c : Copy) (side : Side) (inPage : DWord → Bool) (bad : DWord → Option Nat) : Nat → Nat → Nat ⊕ Nat
  | 0, n => .inl n
  | f + 1, n =>
    if c.runLimit ≤ n then .inl n
    else match (c.elem n).sideAddr side with
      | none => pieceScan c side inPage bad f (n + 1)
      | some va => if !inPage va then .inl n else match bad va with
        | some r => .inr r
        | none => pieceScan c side inPage bad f (n + 1)

/-- Begin a piece at the current access, unless it lies in one that has begun: the copy with the piece noted, or a reason to stop. -/
def enterPiece (c : Copy) (side : Side) (va : DWord) (inPage : DWord → Bool) (bad : DWord → Option Nat) : Copy ⊕ Nat :=
  let n := c.doneElems
  let scan (f : Nat → Copy) : Copy ⊕ Nat := match pieceScan c side inPage bad (c.runLimit - n) n with
    | .inl m => .inl (f m)
    | .inr r => .inr r
  match side, bad va with
  | _, some r => .inr r
  | .alone, none => .inl c
  | .read, none => if n < c.okRead then .inl c else scan fun m => { c with okRead := m }
  | .write, none => if n < c.okWrite then .inl c else scan fun m => { c with okWrite := m }

/-- How a memory access of a piece ends: the value now, an answer to wait for, a page to wait for, or a stop (R200, R201). -/
inductive PieceRes where
  | now (x : QWord) (s : State) (c : Copy)
  | later (s : State) (c : Copy)
  | page (s : State) (r w host : Bool)
  | stop (reason : Nat)
deriving DecidableEq, Repr

/-- Bytes of an address range from the start of its peer window (R61). -/
def peerOff (a : Attr) (va : DWord) : Nat := va.toNat - a.vbase * 4096 + a.pwoff * 4096

/-- Whether a peer takes an access: its link is up and the window holds the bytes (R201, R457). -/
def peerTakes (s : State) (a : Attr) (va : DWord) (size : Nat) : Bool :=
  match s.links.get? a.link with
  | none => false
  | some l => l.up && !s.fenced.contains (.peerLink a.link) && match l.windows.find? fun w => w.1 = a.pwin with
    | some w => decide (peerOff a va + size ≤ w.2)
    | none => false

/-- Send a peer-window access (R61, R457, R458). -/
def peerPiece (s : State) (sk : Nat) (k : Skein) (c : Copy) (a : Attr) (va : DWord) (size : Nat) (kind : AccKind) (data : QWord) : PieceRes :=
  match s.links.get? a.link with
  | none => .stop 5
  | some l =>
    let s := { s with links := s.links.set a.link { l with nextTag := l.nextTag + 1, pending := l.pending ++ [(l.nextTag, sk, c.n)] } }
    match kind with
    | .load => .later (s.tellHost (.peerRead a.link l.nextTag a.pwin (peerOff a va) size)) c
    | _ => .later ((noteStore s (sk / 16) k.ctx a va).tellHost (.peerWrite a.link l.nextTag a.pwin (peerOff a va) (bytesOf size data.toNat))) c

/-- One memory access of a copy (R200, R201). A cursor atomic in a peer window stops with PROT (DESIGN CHOICE, log 58: the spec gives it no
reason); an element that crosses a page is taken by the page of its first byte (DESIGN CHOICE, log 83). -/
def pieceAccess (s : State) (sk : Nat) (k : Skein) (c : Copy) (side : Side) (va : DWord) (size : Nat) (kind : AccKind) (data : QWord) :
    PieceRes :=
  let core := sk / 16
  let r := decide (kind ≠ .store)
  let w := decide (kind ≠ .load)
  let pasid := (s.ctx k.ctx).pasid
  let attr (s : State) (va : DWord) : Attr := s.attrAt core k.ctx k.lid va
  if c.verdict = .prot || !canonical va || attrBad (attr s va) then .stop 1
  else if (attr s va).target = 1 then
    if kind = .atom then .stop 1
    else match enterPiece c side va (fun x => decide (pageOf x = pageOf va)) (fun x => if peerTakes s (attr s x) x size then none else some 5) with
      | .inr reason => .stop reason
      | .inl c => peerPiece s sk k c (attr s va) va size kind data
  else if c.verdict = .xlate then .stop 4
  else
    let go (s : State) : PieceRes :=
      match tlbFind (s.core core).tlb pasid (pageOf va) with
      | none => .page (sendAts s core k.ctx (pageOf va) false) r w false
      | some e =>
        if !e.allows r w false then
          if 1 ≤ c.tl then .stop 4 else .page (faultPage s core k.ctx (pageOf va) r w false) r w true
        else
          let locAt (x : DWord) : Nat := e.loc + (x.toNat - e.vpage * 4096)
          let bad (x : DWord) : Option Nat :=
            let a := attr s x
            if attrBad a || replBad a (locAt x) || decide (a.target ≠ 0) then some 1
            else if decide (tierOf (locAt x) ≤ 1) && decide (a.key / 8 ≠ (s.ctx k.ctx).tenant) then some 2
            else if s.withdrawn.contains (granuleOf (locAt x)) then some 3
            else none
          match enterPiece c side va (fun x => e.holds pasid (pageOf x)) bad with
          | .inr reason => .stop reason
          | .inl c =>
            let a : Acc := ⟨0, va, locAt va, size, kind, 1, data, 0, attr s va⟩
            match access (noteReplicas s a.loc a.replicas) (.engine sk) core a 0 with
            | .now x s => .now x s c
            | .sent s | .overlapped s => .later s c
            | .blocked => .later s c
    match lookup s core pasid va r w false with
    | .fill e => go (s.fillCore core (e.forLaunch s k.ctx k.lid))
    | _ => go s

/-- What one move of a copy gives: the copy further on, or held up. -/
inductive CopyMove where
  | step (s : State) (c : Copy)
  | hold (s : State) (c : Copy)
deriving DecidableEq, Repr

/-- The current element is done. -/
def Copy.advance (c : Copy) : Copy :=
  let e := layEsz c.layout
  let c := { c with left := c.left - e, col := c.col + 1, phase := .read }
  if c.col < layCols c.layout then c
  else
    let c := { c with col := 0, row := c.row + 1, phase := if layKind c.layout = 0 then .read else .index }
    if c.row < layRows c.layout then c else { c with phase := .stamp }

/-- A row that is dropped counts as copied (R202). -/
def Copy.dropRow (c : Copy) : Copy :=
  let c := { c with dropped := c.dropped + 1, left := c.left - (layCols c.layout - c.col) * layEsz c.layout, col := 0, row := c.row + 1,
                    phase := .index }
  if c.row < layRows c.layout then c else { c with phase := .stamp }

/-- The value of the current access has come. -/
def Copy.take (c : Copy) (x : QWord) : Copy :=
  let c := { c with waiting := false, verdict := .retry }
  match c.phase with
  | .index =>
    let c := { c with idx := x.toNat % 2 ^ (8 * layIdxw c.layout) }
    if layKind c.layout = 3 then (if fieldOf (recWord c.layout 5) 0 16 ≤ c.idx then c.dropRow else { c with phase := .cursor })
    else { c with phase := .read }
  | .cursor =>
    let n := x.toNat % 2 ^ 64
    if fieldOf (recWord c.layout 5) 32 32 ≤ n then c.dropRow else { c with slot := n, phase := .read }
  | .read => { c with val := x, phase := .write }
  | .write => c.advance
  | .stamp | .done => { c with phase := .done }

/-- The copy stops at its current piece (R201). -/
def Copy.stopAt (c : Copy) (reason : Nat) (va : DWord) : Copy :=
  let c := { c with waiting := false, verdict := .retry, miss := none }
  if c.phase = .stamp then { c with phase := .done, stop := match c.stop with
    | some x => some x
    | none => some (6, va) }
  else { c with stop := some (reason, va), phase := .stamp, st := .stamping }

/-- The unit of tile memory that the copy's next move reads or writes, as `CoreHw.units` has it (R213, R214). -/
def Copy.tileUse (c : Copy) (s : State) (sk : Nat) : Option Nat :=
  let fill := isFill c.instr
  match c.phase with
  | .read => if fill || isGG c.instr then none else some (2 * (c.tileAddr s sk / 16))
  | .write => if fill then some (2 * (c.tileAddr s sk / 16) + 1) else none
  | _ => none

/-- Whether port A takes a use in the present cycle (R214): an odd one that clears no window, and one unit a bank. -/
def portTakes (s : State) (core u : Nat) : Bool :=
  let h := s.hwOf core
  decide (s.cycle % 2 = 1 ∧ h.clearTo < s.cycle) &&
    (decide (h.portA ≠ s.cycle) || h.units.all fun x => decide (x = u ∨ x / 2 % 128 ≠ u / 2 % 128))

/-- Note a use of port A in the present cycle. -/
def usePort (s : State) (core u : Nat) : State :=
  s.modHw core fun h => { h with portA := s.cycle, units := if h.portA = s.cycle then u :: h.units else [u] }

/-- Whether the copy's next move has to wait for the port. -/
def Copy.portWaits (c : Copy) (s : State) (sk : Nat) : Bool := match c.tileUse s sk with
  | some u => !portTakes s (sk / 16) u
  | none => false

/-- One move of a copy's program. -/
def copyMove (s : State) (sk : Nat) (k : Skein) (c : Copy) : CopyMove :=
  let l := c.layout
  let e := layEsz l
  let s := match c.tileUse s sk with
    | some u => usePort s (sk / 16) u
    | none => s
  let mem (side : Side) (va : DWord) (size : Nat) (kind : AccKind) (data : QWord) : CopyMove :=
    match pieceAccess s sk k c side va size kind data with
    | .now x s c => .step s (c.take x)
    | .later s c => .hold s { c with waiting := true }
    | .page s r w host => .hold s { c with st := .waitPage, miss := some (pageOf va, r, w, host) }
    | .stop reason =>
      let s := if reason = 3 then s.modSkein sk fun k => { k with failed := true } else s
      .step s (c.stopAt reason va)
  match c.phase with
  | .index =>
    let w := layIdxw l
    mem .alone (recWord l 4 + BitVec.ofNat 64 ((fieldOf (recWord c.coord 1) 0 32 + c.row) * w)) w .load 0
  | .cursor => mem .alone (recWord l 6 + BitVec.ofNat 64 (8 * c.idx)) 8 .atom 1
  | .read =>
    if isFill c.instr || isGG c.instr then match c.sideAddr .read with
      | some va => mem .read va e .load 0
      | none => .step s (c.take 0)
    else .step s (c.take (BitVec.ofNat 128 (tileRead (s.hwOf (sk / 16)) (c.tileAddr s sk) e)))
  | .write =>
    if isFill c.instr then .step (tileWrite s (sk / 16) (c.tileAddr s sk) (bytesOf e c.val.toNat)) (c.take 0)
    else match c.sideAddr .write with
      | some va => mem .write va e .store c.val
      | none => .step s (c.take 0)
  | .stamp =>
    let a := recWord c.coord 2
    if a = 0 then .step s { c with phase := .done } else mem .alone a 8 .store (c.stampValue.setWidth 128)
  | .done => .hold s c

/-- Run a copy until its chunk is served, it is held up, or it is done. -/
def copyRun (sk : Nat) (k : Skein) : Nat → State → Copy → State × Copy
  | 0, s, c => (s, c)
  | n + 1, s, c =>
    if c.phase = .done || c.portWaits s sk then (s, c)
    else if c.left = 0 ∧ c.phase ≠ .stamp ∧ c.phase ≠ .write then (s, c)
    else match copyMove s sk k c with
      | .step s c => copyRun sk k n s c
      | .hold s c => (s, c)

def putCopy (s : State) (sk : Nat) (c : Copy) : State :=
  s.modEngine sk fun e => { e with copies := e.copies.map fun x => if x.n = c.n then c else x }

def findCopy (s : State) (sk n : Nat) : Option (Skein × Copy) :=
  match s.skeins.get? sk with
  | some k => (k.eng.copies.find? fun c => c.n = n).map fun c => (k, c)
  | none => none

/-- Serve the rest of a chunk, which is progress (R410); the copy is queued again when the chunk ends. -/
def serveChunk (s : State) (core sk : Nat) (k : Skein) (c : Copy) : State :=
  let (s, c) := copyRun sk k 16384 (madeProgress s k.ctx) { c with st := if c.st = .queued then .active else c.st }
  let busy := c.waiting || (decide (c.phase ≠ .done ∧ c.st ≠ .waitPage) && c.portWaits s sk &&
    (decide (c.left ≠ 0) || decide (c.phase = .write)))
  let c := if busy || c.phase = .done || c.st = .waitPage then c
    else if c.stop.isSome then { c with st := .stamping } else { c with st := .queued }
  let c := if c.st = .waitPage then { c with left := 0 } else c
  (putCopy s sk c).modHw core fun h => { h with serving := if busy then some (sk, c.n) else none }

/-! ## Scheduling (R204, R205) -/

/-- Whether a number has completed in an engine context. -/
def Engine.complete (e : Engine) (n : Nat) : Bool := decide (n ≤ e.timeline) || e.ahead.contains n

/-- Eligible copies of a core: their skein, and themselves (R205). -/
def eligible (s : State) (core : Nat) : List (Nat × Copy) :=
  s.skeins.flatMap fun x =>
    if x.1 / 16 = core ∧ x.2.eng.halted = false then
      (x.2.eng.copies.filter fun c => decide (c.st = .queued ∨ c.st = .stamping) && decide (c.phase ≠ .done) && !c.waiting && c.miss.isNone &&
        (!chained c.instr || x.2.eng.complete (c.n - 1))).map fun c => (x.1, c)
    else []

def effSlack (c : Copy) : Nat := c.slack - c.since / 16

/-- The copy served next within a class: least effective slack, then lowest number, then lowest skein slot (R205). -/
def pickCopy (l : List (Nat × Copy)) (cls : Nat) : Option (Nat × Copy) :=
  (l.filter fun x => x.2.cls = cls).foldl (fun (a : Option (Nat × Copy)) x => match a with
    | none => some x
    | some y => if effSlack x.2 < effSlack y.2 ∨ (effSlack x.2 = effSlack y.2 ∧ x.2.n < y.2.n) then some x else some y) none

def chunkSize (c : Copy) : Nat := min 2048 (c.total - c.doneBytes)

/-- Deficit round-robin (R204): the class visited, whether its quantum has been added (`cls` ≥ 4), and the deficits; the fuel
covers two rounds of visits. -/
def drr (l : List (Nat × Copy)) : Nat → Nat → List Nat → Option (Nat × List Nat × (Nat × Copy))
  | 0, _, _ => none
  | n + 1, st, defs =>
    let k := st % 4
    let next := (k + 3) % 4
    match pickCopy l k with
    | none => drr l n next (defs.set k 0)
    | some x =>
      let defs := if st < 4 then defs.set k (defs.getD k 0 + 2048 * 2 ^ k) else defs
      let size := chunkSize x.2
      if size ≤ defs.getD k 0 then some (k + 4, defs.set k (defs.getD k 0 - size), x) else drr l n next defs

/-- COPY_CHUNK_SERVE (R204): go on with the chunk under way, or start the next one. -/
def execCopyChunkServe (core : Nat) (s : State) : Out :=
  let h := s.hwOf core
  match h.serving with
  | some (sk, n) => match findCopy s sk n with
    | some (k, c) => if c.waiting || c.portWaits s sk then .next s else .next (serveChunk s core sk k c)
    | none => .next (s.modHw core fun h => { h with serving := none })
  | none =>
    let l := eligible s core
    match drr l 16 h.cls h.deficits with
    | none => .next (s.modHw core fun h => { h with deficits := [0, 0, 0, 0] })
    | some (st, defs, (sk, c)) =>
      let s := s.modHw core fun h => { h with cls := st, deficits := defs }
      let s := l.foldl (fun s x => if x.2.cls = c.cls ∧ (x.1, x.2.n) ≠ (sk, c.n) then putCopy s x.1 { x.2 with since := x.2.since + 1 } else s) s
      match findCopy s sk c.n with
      | some (k, c) => .next (serveChunk s core sk k { c with left := chunkSize c })
      | none => .next s

/-- An engine's strict access, or a peer's answer, has come (R150, R201, R458). -/
def copyReply (s : State) (sk n : Nat) (va : DWord) (x : QWord ⊕ Nat) : State :=
  match findCopy s sk n with
  | none => s
  | some (k, c) =>
    let s := madeProgress s k.ctx
    match x with
    | .inl v => putCopy s sk (c.take v)
    | .inr reason =>
      let s := if reason = 3 then s.modSkein sk fun k => { k with failed := true } else s
      putCopy s sk (c.stopAt reason va)

/-! ## Completion (R198, R203, R207, R209) -/

/-- A pending deferred arrival is made (R209): it counts in the phase in which DEFARR issued, and in none when that one is over. -/
def makeArrival (s : State) (sk plyid b ph : Nat) : State :=
  s.modSkein sk fun k =>
    let x := k.bar b
    if x.phase = ph then k.setBar b { x with defm := x.defm &&& ~~~(1#32 <<< plyid), narr := (x.narr + 1) % 64 } else k

/-- The counter has reached `n`: FIN and the deferred arrivals that wait on it take effect (R198, R207). -/
def reachTimeline (s : State) (sk n : Nat) : State :=
  match s.skeins.get? sk with
  | none => s
  | some k =>
    let s := (k.eng.fins.filter fun f => f.1 = n).foldl (fun s f =>
      match boundTile (s.hwOf (sk / 16)) (sk % 16) f.2.2 with
      | some e => modTile s (sk / 16) (sk % 16) e.handle fun e =>
          if f.2.1 then (if e.st = .filling then e.toState .ready else e)
          else (if e.st = .draining then e.toState .empty else e)
      | none => s) s
    let s := s.modEngine sk fun e => { e with fins := e.fins.filter fun f => f.1 ≠ n }
    let s := (k.late.filter fun d => d.2.1 ≤ n).foldl (fun s d => makeArrival s sk d.1 d.2.2.1 d.2.2.2)
      (s.modSkein sk fun k => { k with late := k.late.filter fun d => n < d.2.1 })
    s.plies.foldl (fun s x =>
      if x.2.skeinKey = sk then
        (x.2.defer.filter fun d => d.1 ≤ n).foldl (fun s d => makeArrival s sk x.2.plyid d.2.1 d.2.2)
          (s.modPly x.1 fun p => { p with defer := p.defer.filter fun d => n < d.1 })
      else s) s

/-- Advance the timeline over every complete number (R158, R207). -/
def advanceTimeline (sk : Nat) : Nat → State → State
  | 0, s => s
  | f + 1, s => match s.skeins.get? sk with
    | none => s
    | some k =>
      let n := k.eng.timeline + 1
      if k.eng.ahead.contains n then
        advanceTimeline sk f (reachTimeline (s.modEngine sk fun e => { e with timeline := n, ahead := e.ahead.erase n }) sk n)
      else s

/-! ## The end of a skein (R232, R363, R376) -/

/-- Whether every ply of a skein has retired and its copies and batches are complete. -/
def skeinOver (s : State) (sk : Nat) (k : Skein) : Bool :=
  (List.range (recNply k.lrec)).all (fun p => k.retired.getLsbD p) && k.eng.copies.isEmpty &&
    ((s.hwOf (sk / 16)).spindles.all fun x =>
      (match x.opened with
        | some b => decide (b.owner / 32 ≠ sk)
        | none => true) &&
      match x.drain with
        | some b => decide (b.owner / 32 ≠ sk)
        | none => true)

/-- Account a skein's end to its launch. -/
def Launch.count (l : Launch) (index : Nat) (failed : Bool) : Launch :=
  { l with
    ended := l.ended + 1
    nfail := if failed then l.nfail + 1 else l.nfail
    ffirst := if failed then (match l.ffirst with
      | some n => some (min n index)
      | none => some index) else l.ffirst }

/-- Give back a skein's slot, window, tile entries and save area. -/
def freeSkein (s : State) (sk : Nat) : State :=
  let s := s.modHw (sk / 16) fun h => { h with tiles := h.tiles.filter fun e => decide (e.slot ≠ sk % 16) }
  { s with skeins := s.skeins.erase sk }

/-- Remove a skein that is over. -/
def reapSkein (s : State) (sk : Nat) : State :=
  match s.skeins.get? sk with
  | none => s
  | some k =>
    if skeinOver s sk k then
      let s := (freeSkein s sk).modCtx k.ctx fun c => { c with saves := c.saves.filter fun a => decide (a ≠ k.save.toNat) }
      { s with launches := s.launches.modify (k.ctx * 64 + k.lid) fun l => l.count k.index k.failed }
    else s

/-- COPY_DONE (R207): a copy whose stamp is written becomes complete. -/
def execCopyDone (sk n : Nat) (s : State) : Out :=
  match findCopy s sk n with
  | none => .next s
  | some (_, c) =>
    if c.phase ≠ .done then .next s
    else
      let core := sk / 16
      let reason := match c.stop with
        | some x => x.1
        | none => 0
      let s := s.modEngine sk fun e => { e with
        copies := e.copies.filter fun x => x.n ≠ n
        stats := if e.issued < n + 64 then e.stats ++ [(⟨n, c.stop.isSome, reason, c.doneBytes, c.dropped⟩ : CopyStat)] else e.stats
        marks := match c.stop with
          | some x => e.marks ++ [(⟨c.issuer, n, x.2 &&& ~~~0xFFF, x.1⟩ : CopyMark)]
          | none => e.marks
        ahead := e.ahead ++ [n]
        fins := if c.fin && c.stop.isNone then e.fins ++ [(n, isFill c.instr, c.tref)] else e.fins }
      let s := if isGG c.instr then s else match c.tile s sk with
        | some e => modTile s core (sk % 16) e.handle fun e => { e with ncpy := e.ncpy - 1 }
        | none => s
      let s := s.modHw core fun h => { h with serving := if h.serving = some (sk, n) then none else h.serving }
      .next (reapSkein (advanceTimeline sk 64 s) sk)

/-! ## DEFARR and CPYQ (R209, R210) -/

def execDefarr (a : Src) (f : BitVec 5) (sw : Bool) (s : State) : Out :=
  issue (.defarr a f sw) (fun v s =>
    match s.skein? v.p with
    | none => .trap causeILLEGAL v.enc
    | some k =>
      let n := ((v.op 0).at64 0).toNat
      let b := f.toNat
      let code := recBar k.lrec b
      if code = 0 then .trap causeILLEGAL v.enc
      else if k.eng.issued < n then .trap causeCOPYFAULT (copyFault 10)
      else
        let x := k.bar b
        if barIsSet code && x.arrm.getLsbD v.p.plyid then .wait s (.phase b x.phase) 0
        else if k.eng.timeline < n ∧ 4 ≤ v.p.defer.length then .wait s .deferRoom 0
        else
          let bit : BitVec 32 := 1#32 <<< v.p.plyid
          let s := s.modPly v.key fun p => { p with owe := p.owe ||| (1#16 <<< b) }
          if n ≤ k.eng.timeline then
            .done (s.modSkein v.p.skeinKey fun k => k.setBar b { x with arrm := x.arrm ||| bit, narr := (x.narr + 1) % 64 }) {}
          else
            .done ((s.modSkein v.p.skeinKey fun k => k.setBar b { x with arrm := x.arrm ||| bit, defm := x.defm ||| bit }).modPly v.key
              fun p => { p with defer := p.defer ++ [(n, b, x.phase)] }) {}) s

/-- The lowest-numbered pending mark of a ply at or below `n` (R203). -/
def markFor (k : Skein) (plyid n : Nat) : Option CopyMark :=
  (k.eng.marks.filter fun m => decide (m.issuer = plyid ∧ m.n ≤ n)).foldl (fun (a : Option CopyMark) m => match a with
    | none => some m
    | some y => if m.n < y.n then some m else some y) none

/-- Report a mark: COPYFAULT, and the mark is cleared (R203). -/
def reportMark (v : Env) (s : State) (m : CopyMark) : Res :=
  let x : DWord := (m.page &&& ~~~0xFFF) ||| fieldAt 4 (m.n % 256) ||| fieldAt 0 m.reason
  .gone (takeTrap (s.modEngine v.p.skeinKey fun e => { e with marks := e.marks.erase m }) v.key causeCOPYFAULT x v.p.pc)

/-- A landing with its value already there. -/
def landNow (s : State) (ws : List Write) : State × Landing := (s.use, ⟨s.uses, true, 0, ws⟩)

def landDone (s : State) (d : Name) (x : DWord) (more : List Write) : Res :=
  let r := landNow s (dstWrites d .pair 1 [x.setWidth 128] ++ more)
  .done r.1 { land := some r.2 }

/-- STATUS of a number (R210). -/
def copyStatus (k : Skein) (n : Nat) : DWord :=
  if n = 0 ∨ k.eng.issued < n then 0
  else if n + 64 ≤ k.eng.issued then fieldAt 63 1 ||| fieldAt 61 1
  else match k.eng.copies.find? fun c => c.n = n with
    | some c => BitVec.ofNat 64 (c.doneBytes % 2 ^ 31)
    | none => match k.eng.stats.find? fun x => x.n = n with
      | some x => fieldAt 63 1 ||| fieldAt 62 x.part.toNat ||| fieldAt 57 x.reason ||| fieldAt 0 (x.bytes % 2 ^ 31)
      | none => fieldAt 63 1 ||| fieldAt 61 1

def execCpyqStatus (d : Name) (a : Src) (sw : Bool) (s : State) : Out :=
  issue (.cpyqStatus d a sw) (fun v s =>
    match s.skein? v.p with
    | none => .trap causeILLEGAL v.enc
    | some k =>
      let n := ((v.op 0).at64 0).toNat
      match markFor k v.p.plyid n with
      | some m => reportMark v s m
      | none => landDone s d (copyStatus k n) []) s

def execCpyqTl (d : Name) (sw : Bool) (s : State) : Out :=
  issue (.cpyqTl d sw) (fun v s =>
    match s.skein? v.p with
    | none => .trap causeILLEGAL v.enc
    | some k => landDone s d (BitVec.ofNat 64 k.eng.timeline) []) s

def execCpyqDrop (d : Name) (a : Src) (sw : Bool) (s : State) : Out :=
  issue (.cpyqDrop d a sw) (fun v s =>
    match s.skein? v.p with
    | none => .trap causeILLEGAL v.enc
    | some k =>
      let n := ((v.op 0).at64 0).toNat
      let x := match k.eng.copies.find? fun c => c.n = n with
        | some c => c.dropped
        | none => match k.eng.stats.find? fun x => x.n = n with
          | some x => x.dropped
          | none => 0
      landDone s d (BitVec.ofNat 64 x) []) s

end Sys2Proof.Machine
end

