-- ==== Sys2Proof/Machine/Spindle.lean ====
section
/-! DEFINITION. The spindles and the graver (R319 to R347): formats, generators, MMA, MEPI, batches, energy. -/

namespace Sys2Proof.Machine

/-! ## Bulk access to tile memory -/

/-- `n` bytes from an address. -/
def Memory.bytesFrom : Memory → Nat → Nat → List Byte
  | _, _, 0 => []
  | m, a, n + 1 =>
    match m.dropWhile fun c => decide (c.1 < a) with
    | [] => 0 :: Memory.bytesFrom [] (a + 1) n
    | (b, x) :: t => if b = a then x :: Memory.bytesFrom t (a + 1) n else 0 :: Memory.bytesFrom ((b, x) :: t) (a + 1) n

/-- The cells of bytes that are not 0. -/
def cellsOf : Nat → List Byte → Memory
  | _, [] => []
  | a, v :: vs => if v = 0 then cellsOf (a + 1) vs else (a, v) :: cellsOf (a + 1) vs

/-- Replace the bytes from an address on. -/
def Memory.splice (m : Memory) (a : Nat) (bytes : List Byte) : Memory :=
  m.takeWhile (fun c => decide (c.1 < a)) ++ cellsOf a bytes ++ m.dropWhile fun c => decide (c.1 < a + bytes.length)

/-- Cut a list into pieces of `k`. -/
def chunks (k : Nat) : Nat → List α → List (List α)
  | 0, _ => []
  | n + 1, l => l.take k :: chunks k n (l.drop k)

/-- The columns of a list of `n`-element rows. -/
def columns (n : Nat) : List (List α) → List (List α)
  | [] => List.replicate n []
  | r :: rs => List.zipWith List.cons r (columns n rs)

/-- FP32 words from an address. -/
def Memory.wordsFrom (m : Memory) (a n : Nat) : List Nat := (chunks 4 n (m.bytesFrom a (4 * n))).map valueOf

/-! ## Formats (R263, R319, R323) -/

/-- A Q16N code (R263). -/
def q16n (c : Nat) : FVal :=
  let m := [0x3D2C6CDB, 0x3E026634, 0x3E5D22CA, 0x3E9F2F98, 0x3ED56990, 0x3F0ACE89, 0x3F3522FB, 0x3F800000].getD (c % 8) 0
  let v := Fmt.f32.unpack m
  if c / 8 % 2 = 1 then v.neg else v

/-- An element of a format code. -/
def elemOf (fmt c : Nat) : FVal :=
  match fmt with
  | 0 => Fmt.e4m3.unpack c
  | 1 => Fmt.e5m2.unpack c
  | 2 => Fmt.bf16.unpack c
  | _ => q16n c

/-- Bits of an element. -/
def elemBits (fmt : Nat) : Nat := if fmt = 2 then 16 else if fmt = 3 then 4 else 8

/-- K and the base window of a pair of formats (R319). -/
def pairShape (a b : Nat) : Option (Nat × Nat) :=
  if a ≤ 1 ∧ b ≤ 1 then some (32, 32)
  else if a = 3 ∧ b = 3 then some (64, 32)
  else if a = 2 ∧ b = 2 then some (16, 32)
  else if a = 2 ∧ b = 3 then some (64, 128)
  else none

/-- The elements of `n` bytes in storage order (R264, R324). -/
def elemsOf (fmt : Nat) (l : List Byte) : List Nat :=
  match elemBits fmt with
  | 4 => l.flatMap fun b => [b.toNat % 16, b.toNat / 16]
  | 16 => (chunks 2 (l.length / 2) l).map valueOf
  | _ => l.map (·.toNat)

/-- The exact product of two values; an invalid one is NaN. -/
def mulVal (x y : FVal) : FVal :=
  match x.mulTerm y with
  | .nan | .invalid => .nan
  | .inf s => .inf s
  | .fin s m e => .fin s m e

/-! ## Descriptors (R323, R336) -/

def dscFmt (d : DWord) : Nat := fieldOf d 0 4
def dscBlk (d : DWord) : Bool := d.getLsbD 4
def dscT (d : DWord) : Bool := d.getLsbD 5
def dscGen (d : DWord) : Bool := d.getLsbD 6
def dscScl (d : DWord) : Nat := fieldOf d 32 21
def dscBad (d : DWord) : Bool := decide (3 < dscFmt d ∨ fieldOf d 53 11 ≠ 0 ∨ fieldOf d 7 25 ≠ 0)

def MmaOp.bytes (o : MmaOp) (k : Nat) : Nat := o.rows * k * elemBits (dscFmt o.desc) / 8

/-- The scale group records that a panel needs: offset of the first and their number (R322). -/
def MmaOp.scales (o : MmaOp) (k : Nat) : List Nat :=
  if !dscBlk o.desc then []
  else
    let j0 := refOffset o.reg / 32
    let j1 := (refOffset o.reg + o.bytes k - 1) / 32
    (List.range (j1 / 256 - j0 / 256 + 1)).map fun i => dscScl o.desc + 272 * (j0 / 256 + i)

/-! ## Generators (R334 to R337) -/

def Words4.zero : Words4 := ⟨0, 0, 0, 0⟩
/-- The generator registers at a cycle: the writes that have been made by then (R343). -/
def Skein.gensAt (k : Skein) (t : Nat) : List Words4 := k.gnew.foldl (fun l x => if x.1 ≤ t then l.set x.2.1 x.2.2 else l) k.gregs
def Skein.gen (k : Skein) (t g : Nat) : Words4 := (k.gensAt t).getD g Words4.zero
def genKind (g : Words4) : Nat := fieldOf g.w2 0 3
def genMode (g : Words4) : Nat := fieldOf g.w2 6 2

/-- Whether a generator may not be used by an operand (R337, R345 reason 3). -/
def genBad (g : Words4) (o : MmaOp) : Bool :=
  decide (3 < genKind g ∨ genMode g = 3 ∨ fieldOf g.w2 13 3 ≠ 0 ∨ fieldOf o.reg 3 5 ≠ 0 ∨ (g.w3 ≠ 0 ∧ genKind g ≠ 2) ∨
    dscFmt o.desc ≠ (if genKind g = 1 ∨ genKind g = 2 then 2 else 0)) || g.w2.getLsbD 3 || dscBlk o.desc

/-- The effective seed (R335). -/
def effSeed (csalt lsalt : DWord) (skeinid : Nat) (g : Words4) : DWord :=
  let e0 := g.w0 ^^^ mix64 csalt
  let e1 := e0 ^^^ mix64 lsalt
  let e2 := e1 ^^^ mix64 (BitVec.ofNat 64 (2 ^ 32 + skeinid))
  match fieldOf g.w2 4 2 with
  | 0 => e0
  | 1 => e1
  | 2 => e2
  | _ => e2 ^^^ mix64 (BitVec.ofNat 64 (2 ^ 40 + fieldOf g.w2 8 5))

/-- GAUSS (R337). -/
def gauss (h : DWord) : FVal :=
  let sum : Int := (fieldOf h 0 12 + fieldOf h 12 12 + fieldOf h 24 12 + fieldOf h 36 12 : Nat) - 8190
  let x : FVal := .fin (decide (sum < 0)) sum.natAbs 0
  Fmt.bf16.unpack ((sumTerms .bf16 .rne [x.mulTerm (Fmt.f32.unpack 0x39DDB3D8)]).rne .bf16).1

/-- L of R337, as FP32 bits. -/
def rotL (c : List Nat) (x : Nat) : Nat :=
  if x = 2 ^ 30 then 0
  else
    let i := x / 2 ^ 20
    let c0 := Fmt.f32.unpack (c.getD i 0)
    let c1 := Fmt.f32.unpack (if i = 1023 then 0 else c.getD (i + 1) 0)
    let fr : FVal := .fin false (x % 2 ^ 20) (-20)
    ((sumTerms .f32 .rne [c0.term, c1.mulTerm fr, c0.neg.mulTerm fr]).rne .f32).1

/-- The angle in turns, fixed point (R337). -/
def rotAngle (i : Nat) (f : Bool × Nat × Int) : Nat :=
  let g := intGrid (i * f.2.1) (f.2.2 + 32)
  let k := if (g.up .rne f.1 false 0).1 then g.k + 1 else g.k
  (if f.1 then 2 ^ 32 - k % 2 ^ 32 else k) % 2 ^ 32

/-- ROTARY (R337): `f` the frequencies, `c` the cosines, FP32. -/
def rotary (f c : List Nat) (i j : Nat) : FVal :=
  match Fmt.f32.unpack (f.getD (j / 2 % 64) 0) with
  | .fin s m e =>
    let a := rotAngle i (s, m, e)
    let a := if j % 2 = 1 then (a + 2 ^ 32 - 2 ^ 30) % 2 ^ 32 else a
    let x := a % 2 ^ 30
    let neg (v : Nat) : Nat := if isNan32 v then v else (v + 2 ^ 31) % 2 ^ 32
    let v := match a / 2 ^ 30 with
      | 0 => rotL c x
      | 1 => neg (rotL c (2 ^ 30 - x))
      | 2 => neg (rotL c x)
      | _ => rotL c (2 ^ 30 - x)
    Fmt.bf16.unpack ((sumTerms .bf16 .rne [(Fmt.f32.unpack v).term]).rne .bf16).1
  | _ => .nan

/-- The logical value of a generator at (i, j) (R337). -/
def genValue (g : Words4) (e : DWord) (f c : List Nat) (i j : Nat) : FVal :=
  let h := mix64 (e ^^^ BitVec.ofNat 64 (i * 2 ^ 32 + j))
  let bit (b : Bool) : FVal := Fmt.e4m3.unpack (if b then 0x38 else 0)
  match genKind g with
  | 0 => Fmt.e4m3.unpack (if h.getLsbD 63 then 0xB8 else 0x38)
  | 1 => gauss h
  | 2 => rotary f c i j
  | _ =>
    let diff : Int := (j : Int) - i
    let p0 : Int := ((g.w2 >>> 16).setWidth 32 : BitVec 32).toInt
    let p1 := fieldOf g.w2 48 16
    match genMode g with
    | 0 => bit (decide (diff ≤ p0))
    | 1 => bit (decide (-(p1 : Int) ≤ diff) && decide (diff ≤ p0))
    | _ => bit (decide (fieldOf h 48 16 < p1))

/-- The panel that a generator operand gives: for each of the operand's rows its K values (R336). -/
def genPanel (o : MmaOp) (k : Nat) (g : Words4) (e : DWord) (f c : List Nat) : List (List FVal) :=
  let i0 := fieldOf g.w1 0 32 + fieldOf o.reg 8 28
  let j0 := fieldOf g.w1 32 32 + fieldOf o.reg 36 28
  (List.range o.rows).map fun r => (List.range k).map fun q =>
    let (r, q) := if dscT o.desc then (q, r) else (r, q)
    genValue g e f c ((i0 + r) % 2 ^ 32) ((j0 + q) % 2 ^ 32)

/-- The panel of a tile operand, scaled (R322, R324). `tile` holds the bytes of the tile from offset 0. -/
def tilePanel (o : MmaOp) (k : Nat) (tile : List Byte) : List (List FVal) :=
  let off := refOffset o.reg
  let fmt := dscFmt o.desc
  let raw := (elemsOf fmt ((tile.drop off).take (o.bytes k))).map (elemOf fmt)
  let per := 256 / elemBits fmt
  let vals := if dscBlk o.desc then
      ((chunks per (raw.length / per) raw).zipIdx).flatMap fun x =>
        let j := off / 32 + x.2
        let record := dscScl o.desc + 272 * (j / 256)
        let sj : FVal := .fin false ((tile.getD (record + j % 256) 0).toNat + 1) (-8)
        let sup := Fmt.f32.unpack (valueOf ((tile.drop (record + 256)).take 4))
        x.1.map fun v => mulVal (mulVal v sup) sj
    else raw
  if dscT o.desc then columns o.rows (chunks o.rows k vals) else chunks k o.rows vals

/-! ## Summation (R320, R321) -/

/-- The rounded sum of one group of products. -/
def groupSum (a b : List FVal) : Nat :=
  match sumTerms .f32 .rne (List.zipWith FVal.mulTerm a b) with
  | .val s m e st => if m = 0 then 0 else ((Pre.val s m e st).rne .f32).1
  | .bits x _ => x

/-- One accumulator after an MMA: the groups in ascending order. -/
def mmaAcc : List (List FVal) → List (List FVal) → Nat → Nat
  | a :: as, b :: bs, acc => mmaAcc as bs (fAddRne .f32 acc (groupSum a b))
  | _, _, acc => acc

/-- All accumulators, row by row. -/
def mmaAll (k : Nat) (a b : List (List FVal)) (acc : List Word) : List Word :=
  let ga := a.map (chunks 8 (k / 8))
  let gb := b.map (chunks 8 (k / 8))
  (List.zipWith (fun (ra : List (List FVal)) (row : List Word) =>
    List.zipWith (fun rb (x : Word) => BitVec.ofNat 32 (mmaAcc ra rb x.toNat)) gb row) ga (chunks 128 96 acc)).flatten

/-! ## The epilogue (R342) -/

/-- Size and format of the output code. -/
def mepiFmt (o : Nat) : Fmt × Nat :=
  match o with
  | 0 => (.f32, 4)
  | 1 => (.bf16, 2)
  | 2 => (.f16, 2)
  | 3 => (.e4m3, 1)
  | _ => (.e5m2, 1)

/-- The activated values before conversion, row by row. -/
def mepiVals (alpha : Nat) (bias : List Nat) (relu : Bool) (dvals : List Nat) : List Nat :=
  let one (x b : Nat) : Nat :=
    let v := ((fFmaPre .f32 .rne (Fmt.f32.unpack alpha) (Fmt.f32.unpack x) (Fmt.f32.unpack b)).rne .f32).1
    if relu && decide (2 ^ 31 < v) && !isNan32 v then 0 else v
  (chunks 128 96 dvals).flatMap fun row => List.zipWith one row bias

/-- The output elements (R342): under SR element (m, n) takes the place of thread 128m + n, with the neighbours of its row. -/
def mepiOut (o : Nat) (mode : Rm) (nsat : Bool) (vals : List Nat) : List Nat :=
  if o = 0 then vals
  else
    let f := (mepiFmt o).1
    ((chunks 128 96 vals).zipIdx).flatMap fun r =>
      let pres := r.1.map (fromF32Pre f nsat mode)
      let disc := pres.map fun p => p.discard f
      (pres.zipIdx).map fun p =>
        let n := p.2
        let r16 := if mode = .sr then srHash (disc.getD ((n + 127) % 128) 0) (disc.getD ((n + 1) % 128) 0) (128 * r.2 + n) else 0
        (fromF32Round f nsat mode r16 p.1).1

/-- The output bytes of an epilogue from the tile bytes read (R342). -/
def mepiBytes (m : Memory) (word : DWord) (mode : Nat) (nsat : Bool) (d b : Nat) : List Byte :=
  let bias := if word.getLsbD 38 then m.wordsFrom b 128 else List.replicate 128 0
  let vals := mepiVals (fieldOf word 0 32) bias (decide (fieldOf word 36 2 = 1)) (m.wordsFrom d 12288)
  let o := fieldOf word 32 4
  (mepiOut o (frmMode (BitVec.ofNat 64 mode)) nsat vals).flatMap (bytesOf (mepiFmt o).2)

/-! ## Energy (R332, R333) -/

/-- EBUD, EFILL and ECAP of a context on a core; those of R332 where none have been loaded yet. -/
def energyOf (s : State) (core ctx : Nat) : DWord × DWord × DWord :=
  match (s.hwOf core).energy.get? ctx with
  | some x => x
  | none =>
    let w := (s.ctx ctx).word 17
    let cap := if fieldOf w 32 32 = 0 then 4096 else fieldOf w 32 32
    let fill := if fieldOf w 0 16 = 0 then 1350 else fieldOf w 0 16
    (BitVec.ofNat 64 cap, BitVec.ofNat 64 fill, BitVec.ofNat 64 cap)

def setEnergy (s : State) (core ctx : Nat) (x : DWord × DWord × DWord) : State :=
  s.modHw core fun h => { h with energy := h.energy.set ctx x }

/-- Debit the cost of an instruction. -/
def debit (s : State) (core ctx cost : Nat) : State :=
  let (b, f, c) := energyOf s core ctx
  { setEnergy s core ctx (b - BitVec.ofNat 64 cost, f, c) with drawn := s.drawn + cost }

/-- BUDGET_REFILL (R333): at a tick whose count is a multiple of 100 every core refills its budgets. -/
def execBudgetRefill (s : State) : Out :=
  if s.tick % 100 ≠ 0 then .next s
  else
    let fill (e : DWord × DWord × DWord) : DWord × DWord × DWord :=
      (BitVec.ofNat 64 (min (e.1.toNat + e.2.1.toNat) e.2.2.toNat), e.2.1, e.2.2)
    let more := s.hw.foldl (fun n h => h.2.energy.foldl (fun n x => n + x.2.2.1.toNat) n) 0
    .next { s with
      refilled := s.refilled + more
      hw := List.map (fun h => (h.1, { h.2 with energy := List.map (fun x => (x.1, fill x.2)) h.2.energy })) s.hw }

/-! ## Slots (R328, R329) -/

/-- The first slot of a partition's spindle after a cycle. -/
def spinSlot (t part : Nat) : Nat := t + 1 + (8 + 2 * part - (t + 1) % 8) % 8

/-- Units in each bank. -/
def bankLoads (units : List Nat) : List Nat := (List.range 128).map fun b => (units.filter fun u => u % 128 = b).length

/-- The units that hold bytes `a` to `a + n - 1`. -/
def unitSpan (a n : Nat) : List Nat := if n = 0 then [] else (List.range ((a + n - 1) / 16 - a / 16 + 1)).map fun i => a / 16 + i

/-- The units of bytes from an address on, each with its bytes. -/
def unitBytes (a : Nat) (bytes : List Byte) : List (Nat × List Byte) :=
  ((chunks 16 (bytes.length / 16) bytes).zipIdx).map fun x => (a / 16 + x.2, x.1)

/-- Of pending units in ascending order, the first in each bank that is not in `used`, and the rest (R328, R329). -/
def pickBanks (unit : α → Nat) : List Nat → List α → List α × List α
  | _, [] => ([], [])
  | used, x :: t =>
    if used.contains (unit x % 128) then
      let r := pickBanks unit used t
      (r.1, x :: r.2)
    else
      let r := pickBanks unit (unit x % 128 :: used) t
      (x :: r.1, r.2)

/-- Keep a list of units in ascending order; a unit that two operands need stays twice (R328, R347). -/
def addUnit (u : Nat) : List Nat → List Nat
  | [] => [u]
  | x :: t => if u ≤ x then u :: x :: t else x :: addUnit u t

/-- The panel of an operand, from the tile bytes read: rows of K values (R324, R336). -/
def SpinOp.panel (x : SpinOp) (k : Nat) (m : Memory) : List (List FVal) :=
  match x.gen with
  | some g =>
    if genKind g = 2 then genPanel x.op k g x.seed (m.wordsFrom x.table 64) (m.wordsFrom (x.table + 256) 1024)
    else genPanel x.op k g x.seed [] []
  | none => tilePanel x.op k (m.bytesFrom x.base x.size)

/-- Every unit of a window has been read: what they are for is done (R320, R341, R342). -/
def Spindle.finish (x : Spindle) : Spindle :=
  let y := { x with work := none, image := [] }
  match x.work with
  | some (.mma k a b) => { y with opened := x.opened.map fun t => { t with acc := mmaAll k (a.panel k x.image) (b.panel k x.image) t.acc } }
  | some (.resume d) => { y with opened := x.opened.map fun t => { t with acc := (x.image.wordsFrom d 12288).map (BitVec.ofNat 32) } }
  | some (.mepi w mode nsat d b o) => { y with writes := x.writes ++ unitBytes o (mepiBytes x.image w mode nsat d b) }
  | none => y

/-- Start a window of `w` cycles at cycle `t` for a ply: its units are read in the slots after `t` (R328). -/
def Spindle.start (x : Spindle) (t w owner : Nat) (units : List Nat) (work : SpinWork) : Spindle :=
  let y := { x with
    window := t + w, reads := units.foldr addUnit [], image := [], work := some work, owner := owner, served := max x.served t }
  if units.isEmpty then y.finish else y

/-- Begin the D writes of a batch closed in cycle `t` (R329). -/
def Spindle.close (x : Spindle) (t : Nat) (b : Batch) : Spindle :=
  { x with
    opened := none
    drain := some b
    writes := x.writes ++ unitBytes b.dphys (b.acc.flatMap fun a => bytesOf 4 a.toNat)
    served := max x.served t }

/-- The next slot in which a spindle has a unit to serve (R328). -/
def Spindle.nextSlot (x : Spindle) (part : Nat) : Option Nat :=
  if x.reads.isEmpty && x.writes.isEmpty then none else some (spinSlot x.served part)

/-- Whether the last unit of the draining batch has been written (R326). -/
def Spindle.drained (x : Spindle) : Bool := x.drain.isSome && x.writes.isEmpty

def State.spindle (s : State) (core part : Nat) : Spindle := (s.hwOf core).spindles.getD part Spindle.zero
def State.modSpindle (s : State) (core part : Nat) (f : Spindle → Spindle) : State :=
  s.modHw core fun h => { h with spindles := h.spindles.modify part f }

def Ply.part (p : Ply) : Nat := p.plyid % 4

/-! ## Checks (R345) -/

def spindleTrap (reason code : Nat) : Res := .trap causeSPINDLEFAULT (fieldAt 8 code ||| fieldAt 0 reason)

/-- Resolve a list of references in order: the tiles, or the first failure's XVAL. -/
def resolveAll (h : CoreHw) (slot : Nat) : List DWord → DWord ⊕ List TileEnt
  | [] => .inr []
  | r :: rs => match resolveRef h slot r with
    | .inr reason => .inl (tileVal 0 (refHandle r) reason)
    | .inl e => match resolveAll h slot rs with
      | .inl x => .inl x
      | .inr l => .inr (e :: l)

/-- The first range that leaves its tile: tile, offset, bytes. -/
def rangeFault (l : List (TileEnt × Nat × Nat)) : Option DWord :=
  (l.find? fun x => decide (512 * x.1.size < x.2.1 + x.2.2)).map fun x => tileVal x.2.1 x.1.handle 5

/-- The first wait of a spindle instruction on tiles: each tile with the states it needs (R219). -/
def tileWait (l : List (TileEnt × Nat)) : Option Cond :=
  (l.find? fun x => !x.1.inStates x.2).map fun x => x.1.await x.2 false

/-- Open a batch (R326, R327): D becomes FILLING with SPN set. -/
def openBatch (s : State) (v : Env) (e : TileEnt) (dref : DWord) (wbase : Nat) (acc : List Word) : State × Nat :=
  let sk := v.p.skeinKey
  let n := match s.skeins.get? sk with
    | some k => k.spOpened + 1
    | none => 1
  let s := s.modSkein sk fun k => { k with spOpened := n }
  let s := modTile s v.p.core v.p.slot e.handle fun x => { x.toState .filling with spn := true }
  let s := s.modSpindle v.p.core v.p.part fun x => { x with
    opened := some ⟨v.key, n, dref, tilePhys wbase e (refOffset dref), acc, 0, false⟩ }
  (s.modPly v.key fun p => { p with batch := some n }, n)

/-- One slot of a spindle (R329): in each bank the lowest pending operand unit is read, or else the lowest pending unit is written. -/
def serveSpindle (s : State) (core part slot : Nat) : State :=
  let drains := match (s.spindle core part).drain with
    | some b => if (s.spindle core part).writes.isEmpty then none else s.skeins.get? (b.owner / 32)
    | none => none
  let s := match drains with
    | some k => madeProgress s k.ctx
    | none => s
  s.modHw core fun h =>
    let x := h.spindles.getD part Spindle.zero
    let r := pickBanks id [] x.reads
    let w := pickBanks (·.1) (r.1.map (· % 128)) x.writes
    let image := r.1.foldl (fun (m : Memory) u => m.splice (16 * u) (h.tile.bytesFrom (16 * u) 16)) x.image
    let y : Spindle := { x with reads := r.2, writes := w.2, served := slot, image := image }
    { h with
      tile := w.1.foldl (fun (m : Memory) (u : Nat × List Byte) => m.splice (16 * u.1) u.2) h.tile
      spindles := h.spindles.set part (if !x.reads.isEmpty && r.2.isEmpty then y.finish else y) }

/-- Start a window for a ply (R328, R330): its later drain-class instructions issue no earlier than the window's last slot. -/
def noteWindow (s : State) (v : Env) (w : Nat) (units : List Nat) (work : SpinWork) : State :=
  let last := spinSlot v.t v.p.part + 8 * ((v.t + w - spinSlot v.t v.p.part) / 8)
  (s.modSpindle v.p.core v.p.part fun x => x.start v.t w v.key units work).modPly v.key fun p => { p with
    spinAt := max p.spinAt last
    drainAt := max p.drainAt last }

/-- Whether the spindle is free for a ply at the cycle of its issue: its window has ended and no other ply's batch is open. -/
def spindleFree (x : Spindle) (key t : Nat) : Bool :=
  decide (x.window ≤ t) && match x.opened with
    | some b => decide (b.owner = key)
    | none => true

/-! ## MMA (R340) -/

/-- The generator images of an MMA's operands. -/
def genOf (k : Skein) (t : Nat) (o : MmaOp) : Option Words4 := if dscGen o.desc then some (k.gen t (fieldOf o.reg 0 3)) else none

/-- What an MMA that has passed its checks works on: its operands, K and the base window, the D reference and tile, the tile
operands with their tiles, and the ROTARY tables with theirs. -/
structure MmaPlan where
  ops : List MmaOp
  k : Nat
  tb : Nat
  dref : DWord
  dent : TileEnt
  tiles : List (MmaOp × TileEnt)
  tabs : List (DWord × TileEnt)
deriving DecidableEq, Repr

def TileEnt.blank : TileEnt := ⟨0, 0, 0, .empty, false, false, 0, 0, 0⟩

/-- Panels of the tile operands, and the ROTARY tables: tile, offset, bytes. -/
def MmaPlan.panels (x : MmaPlan) : List (TileEnt × Nat × Nat) := x.tiles.map fun (y : MmaOp × TileEnt) => (y.2, refOffset y.1.reg, y.1.bytes x.k)
def MmaPlan.tables (x : MmaPlan) : List (TileEnt × Nat × Nat) := x.tabs.map fun (y : DWord × TileEnt) => (y.2, refOffset y.1, 4352)

/-- Every range that an MMA touches, in the order of R345 step 5. -/
def MmaPlan.ranges (x : MmaPlan) : List (TileEnt × Nat × Nat) :=
  x.panels ++ [(x.dent, refOffset x.dref, 49152)] ++
    (x.tiles.flatMap fun (y : MmaOp × TileEnt) => (y.1.scales x.k).map fun r => (y.2, r, 272)) ++ x.tables

/-- Offsets with the alignment they need (R345 step 3). -/
def mmaAligns (tiles : List MmaOp) (dref : DWord) : List (Nat × Nat) :=
  tiles.map (fun o => (refOffset o.reg, 32)) ++ [(refOffset dref, 512)] ++
    (tiles.filter fun o => dscBlk o.desc).map fun o => (dscScl o.desc, 16)

/-- The checks of R345 steps 2 to 5. -/
def mmaChecks (h : CoreHw) (slot : Nat) (k : Skein) (t : Nat) (oa ob : MmaOp) (ddesc dref : DWord) : Res ⊕ MmaPlan :=
  let ops := [oa, ob]
  let tiles := ops.filter fun o => !dscGen o.desc
  let gens : List (MmaOp × Words4) := ops.filterMap fun o => (genOf k t o).map fun g => (o, g)
  let tabs : List DWord := gens.filterMap fun x => if genKind x.2 = 2 then some x.2.w3 else none
  match resolveAll h slot (tiles.map (·.reg) ++ [dref] ++ tabs) with
  | .inl x => .inl (.trap causeTILESTATE x)
  | .inr ents =>
    match (mmaAligns tiles dref).find? fun x => decide (x.1 % x.2 ≠ 0) with
    | some x => .inl (.trap causeALIGN (BitVec.ofNat 64 x.1))
    | none =>
      match ops.find? fun o => dscBad o.desc with
      | some o => .inl (spindleTrap 1 o.code)
      | none =>
        if ddesc ≠ 0 then .inl (spindleTrap 1 2)
        else match pairShape (dscFmt oa.desc) (dscFmt ob.desc) with
          | none => .inl (spindleTrap 2 1)
          | some (kk, tb) =>
            match gens.find? fun x => genBad x.2 x.1 with
            | some x => .inl (spindleTrap 3 x.1.code)
            | none =>
              match tiles.find? fun o => decide (dscFmt o.desc = 3) && (dscT o.desc || !dscBlk o.desc) with
              | some o => .inl (spindleTrap 4 o.code)
              | none =>
                let plan : MmaPlan := ⟨ops, kk, tb, dref, ents.getD tiles.length TileEnt.blank, tiles.zip (ents.take tiles.length),
                  tabs.zip (ents.drop (tiles.length + 1))⟩
                match rangeFault plan.ranges with
                | some x => .inl (.trap causeTILESTATE x)
                | none => .inr plan

/-- The units of scale bytes and super-scales that a panel needs (R328). -/
def scaleUnits (wbase k : Nat) (o : MmaOp) (e : TileEnt) : List Nat :=
  if dscBlk o.desc then
    let j0 := refOffset o.reg / 32
    ((List.range (o.bytes k / 32)).flatMap fun i =>
      let base := dscScl o.desc + 272 * ((j0 + i) / 256)
      [tilePhys wbase e (base + (j0 + i) % 256) / 16, tilePhys wbase e (base + 256) / 16]).eraseDups
  else []

/-- Units of an MMA (R328). -/
def MmaPlan.units (x : MmaPlan) (wbase : Nat) : List Nat :=
  ((x.panels ++ x.tables).flatMap fun y => unitSpan (tilePhys wbase y.1 y.2.1) y.2.2) ++
    x.tiles.flatMap fun (y : MmaOp × TileEnt) => scaleUnits wbase x.k y.1 y.2

/-- The largest number of units in one bank (R328). -/
def bankMax (units : List Nat) : Nat := (bankLoads units).foldl max 0

/-- An operand as the MMA copies it at its issue (R340). -/
def spinOp (s : State) (v : Env) (k : Skein) (o : MmaOp) : SpinOp :=
  let h := s.hwOf v.p.core
  match genOf k v.t o with
  | some g =>
    let e := effSeed (s.launchWord v.p.ctx v.p.lid 3) (recWord k.lrec 7) (k.index % 2 ^ 32) g
    match (if genKind g = 2 then resolveRef h v.p.slot g.w3 else .inr 0) with
    | .inl t => ⟨o, 0, 0, some g, e, tilePhys k.wbase t (refOffset g.w3)⟩
    | .inr _ => ⟨o, 0, 0, some g, e, 0⟩
  | none => match resolveRef h v.p.slot o.reg with
    | .inl t => ⟨o, tilePhys k.wbase t 0, 512 * t.size, none, 0, 0⟩
    | .inr _ => ⟨o, 0, 0, none, 0, 0⟩

/-- The batch checks, waits and effect of an MMA that has passed the checks of its operands. -/
def mmaRun (v : Env) (k : Skein) (x : MmaPlan) (cost : Nat) (s : State) : Res :=
  let sp := s.spindle v.p.core v.p.part
  let (bud, _, cap) := energyOf s v.p.core v.p.ctx
  let mine := match sp.opened with
    | some b => decide (b.owner = v.key)
    | none => false
  let other := match sp.opened with
    | some b => mine && decide (b.dref ≠ x.dref)
    | none => false
  if other then spindleTrap 5 2
  else if cap.toNat < cost then spindleTrap 6 3
  else
    match tileWait ((x.tiles.map fun (y : MmaOp × TileEnt) => (y.2, 4)) ++ (x.tabs.map fun (y : DWord × TileEnt) => (y.2, 4)) ++
        (if mine then [] else [(x.dent, 1)])) with
    | some c => .wait s c 0
    | none =>
      if !spindleFree sp v.key v.t then .wait s .spindle 0
      else if bud.toNat < cost then .wait s .energy cost
      else
        let s := debit s v.p.core v.p.ctx cost
        let s := if mine then s else (openBatch s v x.dent x.dref k.wbase (List.replicate 12288 0)).1
        let units := x.units k.wbase
        let op (n : Nat) : SpinOp := spinOp s v k (x.ops.getD n ⟨0, 0, 0, 0⟩)
        let s := s.modSpindle v.p.core v.p.part fun y => { y with opened := y.opened.map fun b => { b with count := b.count + 1 } }
        .done (noteWindow s v (max x.tb (8 * bankMax units)) units (.mma x.k (op 0) (op 1))) {}

def execMma (d : Name) (a b : SReg) (f : BitVec 4) (e : BitVec 2) (sw : Bool) (s : State) : Out :=
  issue (.mma d a b f e sw) (fun v s =>
    match s.skein? v.p with
    | none => .trap causeILLEGAL v.enc
    | some k =>
      match mmaChecks (s.hwOf v.p.core) v.p.slot k v.t ⟨0, (v.op 0).at64 0, (v.op 4).at64 0, 96⟩ ⟨1, (v.op 1).at64 0, (v.op 5).at64 0, 128⟩
          ((v.op 2).at64 0) ((v.op 6).at64 0) with
      | .inl r => r
      | .inr x => mmaRun v k x (e.toNat + 1) s) s

/-! ## MCLOSE, MWAIT, MABORT (R341) -/

/-- Close the ply's open batch, if it has one; `none` when the spindle is still draining another. -/
def closeBatch (s : State) (key : Nat) (p : Ply) (t : Nat) (part : Bool) : Option (State × Option Batch) :=
  let sp := s.spindle p.core p.part
  match sp.opened with
  | some b =>
    if b.owner ≠ key then some (s, none)
    else if sp.drain.isSome then none
    else some (s.modSpindle p.core p.part fun x => x.close t { b with part := part }, some b)
  | none => some (s, none)

def execMclose (d : Name) (sw : Bool) (s : State) : Out :=
  issue (.mclose d sw) (fun v s =>
    match closeBatch s v.key v.p v.t false with
    | none => .wait s (.batch 0) 0
    | some (s, b) =>
      let n := match b with
        | some b => b.n
        | none => 0
      .done s { writes := dstWrites d .pair 1 [BitVec.ofNat 128 n] }) s

/-- The ply's closed batches are complete: none of them is draining on its spindle. -/
def batchesDone (s : State) (key : Nat) (p : Ply) : Bool :=
  match (s.spindle p.core p.part).drain with
  | some b => decide (b.owner ≠ key)
  | none => true

def execMwait (d : Name) (sw : Bool) (s : State) : Out :=
  issue (.mwait d sw) (fun v s =>
    match closeBatch s v.key v.p v.t false with
    | none => .wait s (.batch 0) 0
    | some (s, _) =>
      if batchesDone s v.key v.p then
        let n := match v.p.batch with
          | some n => n
          | none => 0
        landDone s d (BitVec.ofNat 64 n) []
      else .wait s (.batch 1) 0) s

def execMabort (d : Name) (sw : Bool) (s : State) : Out :=
  issue (.mabort d sw) (fun v s =>
    match closeBatch s v.key v.p v.t true with
    | none => .wait s (.batch 0) 0
    | some (s, b) =>
      let n := match b with
        | some b => b.count
        | none => 0
      landDone s d (BitVec.ofNat 64 n) []) s

/-- MCLOSE.RESUME (R329, R341). -/
def execMcloseResume (d : Name) (a : Src) (sw : Bool) (s : State) : Out :=
  issue (.mcloseResume d a sw) (fun v s =>
    match s.skein? v.p with
    | none => .trap causeILLEGAL v.enc
    | some k =>
      let dref := (v.op 0).at64 0
      match resolveRef (s.hwOf v.p.core) v.p.slot dref with
      | .inr reason => .trap causeTILESTATE (tileVal 0 (refHandle dref) reason)
      | .inl e =>
        let off := refOffset dref
        let sp := s.spindle v.p.core v.p.part
        let mine := match sp.opened with
          | some b => decide (b.owner = v.key)
          | none => false
        if off % 512 ≠ 0 then .trap causeALIGN (BitVec.ofNat 64 off)
        else if 512 * e.size < off + 49152 then .trap causeTILESTATE (tileVal off e.handle 5)
        else if mine then spindleTrap 5 2
        else if !e.inStates 1 then .wait s (e.await 1 false) 0
        else if !spindleFree sp v.key v.t then .wait s .spindle 0
        else
          let dphys := tilePhys k.wbase e off
          let (s, n) := openBatch s v e dref k.wbase []
          .done (noteWindow s v (spinSlot v.t v.p.part + 8 * 23 + 1 - v.t) (unitSpan dphys 49152) (.resume dphys))
            { writes := dstWrites d .pair 1 [BitVec.ofNat 128 n] }) s

/-! ## MEPI (R342) -/

def execMepi (d : Name) (a b : SReg) (f : BitVec 4) (e : BitVec 2) (sw : Bool) (s : State) : Out :=
  issue (.mepi d a b f e sw) (fun v s =>
    match s.skein? v.p with
    | none => .trap causeILLEGAL v.enc
    | some k =>
      let ew := (v.op 3).at64 0
      let dref := (v.op 4).at64 0
      let bref := (v.op 5).at64 0
      let oref := (v.op 6).at64 0
      let hasBias := ew.getLsbD 38
      let ofmt := fieldOf ew 32 4
      match resolveAll (s.hwOf v.p.core) v.p.slot ([dref] ++ (if hasBias then [bref] else []) ++ [oref]) with
      | .inl x => .trap causeTILESTATE x
      | .inr ents =>
        let dent := ents.getD 0 TileEnt.blank
        let bent := if hasBias then ents.getD 1 TileEnt.blank else TileEnt.blank
        let oent := ents.getD (if hasBias then 2 else 1) TileEnt.blank
        let aligns := [(refOffset dref, 512)] ++ (if hasBias then [(refOffset bref, 16)] else []) ++ [(refOffset oref, 16)]
        match aligns.find? fun x => decide (x.1 % x.2 ≠ 0) with
        | some x => .trap causeALIGN (BitVec.ofNat 64 x.1)
        | none =>
          if 5 < fieldOf ew 39 3 ∨ 1 < fieldOf ew 36 2 ∨ 4 < ofmt ∨ fieldOf ew 42 22 ≠ 0 then spindleTrap 7 3
          else
            let size := (mepiFmt ofmt).2
            let ranges := [(dent, refOffset dref, 49152)] ++ (if hasBias then [(bent, refOffset bref, 512)] else []) ++
              [(oent, refOffset oref, 12288 * size)]
            match rangeFault ranges with
            | some x => .trap causeTILESTATE x
            | none =>
              let cost := e.toNat + 1
              let (bud, _, cap) := energyOf s v.p.core v.p.ctx
              let sp := s.spindle v.p.core v.p.part
              if cap.toNat < cost then spindleTrap 6 3
              else match tileWait ([(dent, 4)] ++ (if hasBias then [(bent, 4)] else []) ++ [(oent, 6)]) with
                | some c => .wait s c 0
                | none =>
                  if sp.opened.isSome || sp.drain.isSome || decide (v.t < sp.window) then .wait s .spindle 1
                  else if bud.toNat < cost then .wait s .energy cost
                  else
                    let s := debit s v.p.core v.p.ctx cost
                    let span (x : TileEnt × Nat × Nat) : List Nat := unitSpan (tilePhys k.wbase x.1 x.2.1) x.2.2
                    let mode := if fieldOf ew 39 3 = 5 then fieldOf v.p.frm 0 3 else fieldOf ew 39 3
                    .done (noteWindow s v (8 * bankMax (ranges.flatMap span)) (ranges.dropLast.flatMap span)
                      (.mepi ew mode (frmNsat v.p.frm) (tilePhys k.wbase dent (refOffset dref))
                        (if hasBias then tilePhys k.wbase bent (refOffset bref) else 0) (tilePhys k.wbase oent (refOffset oref)))) {}) s

/-! ## GSET, GGET (R343, R344) -/

def execGset (a : Src) (g : BitVec 3) (sw : Bool) (s : State) : Out :=
  issue (.gset a g sw) (fun v s =>
    let w (n : Nat) : DWord := (v.op n).at64 0
    let w2 := (w 2 &&& ~~~(0x1F00 : DWord)) ||| fieldAt 8 v.p.plyid
    let s := s.modSkein v.p.skeinKey fun k => { k with
      gregs := k.gensAt v.t, gnew := k.gnew.filter (fun x => decide (v.t < x.1)) ++ [(v.t + 2, g.toNat, ⟨w 0, w 1, w2, w 3⟩)] }
    .done (s.modPly v.key fun p => { p with drainAt := max p.drainAt (v.t + 2) }) {}) s

/-- GGET; the reserved bits of G2 read as zero (R6), though an MMA checks what GSET stored in them (R343, R345). -/
def execGget (d : Name) (i : BitVec 8) (sw : Bool) (s : State) : Out :=
  issue (.gget d i sw) (fun v s =>
    match s.skein? v.p with
    | none => .trap causeILLEGAL v.enc
    | some k =>
      let n := i.toNat
      let x : DWord :=
        if 32 ≤ n then effSeed (s.launchWord v.p.ctx v.p.lid 3) (recWord k.lrec 7) (k.index % 2 ^ 32) (k.gen v.t (n - 32))
        else
          let g := k.gen v.t (n / 4)
          match n % 4 with
          | 0 => g.w0
          | 1 => g.w1
          | 2 => g.w2 &&& ~~~(0xE008 : DWord)
          | _ => g.w3
      .done s { writes := dstWrites d .pair 1 [wide64 x] }) s

/-! ## BATCH_COMPLETE (R326, R327) -/

/-- Advance the batch timeline over every complete number. -/
def advanceBatches : Nat → Skein → Skein
  | 0, k => k
  | f + 1, k =>
    let n := k.spTimeline + 1
    if k.spAhead.contains n then advanceBatches f { k with spTimeline := n, spAhead := k.spAhead.erase n } else k

/-- The last D unit is written: the tile is READY and the batch complete. -/
def execBatchComplete (core part : Nat) (s : State) : Out :=
  let sp := s.spindle core part
  match sp.drain with
  | none => .next s
  | some b =>
    if !sp.drained then .next s
    else
      let slot := b.owner / 32 % 16
      let s := modTile s core slot (refHandle b.dref) fun e =>
        { e.toState .ready with spn := false, part := if b.part then true else e.part }
      let s := s.modSkein (core * 16 + slot) fun k => advanceBatches 64 { k with spAhead := k.spAhead ++ [b.n] }
      .next (reapSkein (s.modSpindle core part fun x => { x with drain := none }) (b.owner / 32))

end Sys2Proof.Machine
end

