-- ==== Sys2Proof/Machine/Timeline.lean ====
section
/-! DEFINITION. What the service die does with memory by virtual address, launch-queue headers (R370, R371), TLWAIT and TLRD
(R405, R406), SPAWN (R393, R394). -/

namespace Sys2Proof.Machine

/-! ## Memory accesses of the service die -/

/-- The pages of `n` bytes from an address. -/
def pagesOf (va : DWord) (n : Nat) : List DWord :=
  if n = 0 then []
  else (List.range ((va.toNat % 4096 + n - 1) / 4096 + 1)).map fun i => (va &&& ~~~0xFFF) + BitVec.ofNat 64 (4096 * i)

/-- Ask for the translation of a page that the ATS cache does not hold (R71). -/
def svcAsk (s : State) (ctx : Nat) (va : DWord) : State :=
  let pasid := (s.ctx ctx).pasid
  if (tlbFind s.ats pasid (pageOf va)).isSome || s.misses.any fun m => decide (m.pasid = pasid ∧ m.vpage = pageOf va) && !m.full then s
  else requestPage s (AtsMiss.fresh pasid (pageOf va) ctx false [])

/-- The location of an address for the service die, from the ATS cache, if the page allows the access (R75). -/
def svcLoc (s : State) (ctx : Nat) (va : DWord) (w : Bool) : Option Nat :=
  match tlbFind s.ats (s.ctx ctx).pasid (pageOf va) with
  | some e => if e.allows true w false then some (e.loc + (va.toNat - e.vpage * 4096)) else none
  | none => none

/-- The attributes of an address: those of the launch for which the access is made, or of the context's table when no launch has the
slot yet, or for none (slot 64) (R58). -/
def svcAttr (s : State) (ctx lid : Nat) (va : DWord) : Attr :=
  if lid < 64 ∧ s.launches.has (ctx * 64 + lid) = true then s.attr ctx lid va else attrOf (s.ctx ctx).rat (s.ctx ctx).tenant va

/-- Whether the attributes of an address refuse an access of a service core (R63, R67). -/
def svcRefused (s : State) (ctx lid : Nat) (va : DWord) (w : Bool) : Bool :=
  let a := svcAttr s ctx lid va
  match svcLoc s ctx va w with
  | some loc => attrBad a || decide (a.target ≠ 0) || replBad a loc || (decide (tierOf loc ≤ 1) && decide (a.key / 8 ≠ (s.ctx ctx).tenant))
  | none => false

/-- What a service core asks of a home before it reads or writes a sector (R147, R162). -/
def svcTxn (s : State) (loc : Nat) (a : Attr) (w : Bool) : Txn :=
  { Txn.blank s (if w then .svcWr else .svcRd) loc a.grain with size := 32, key := a.key }

/-- Whether a home lets a service core read or write a sector at once: no party owns the granule, no core holds what it needs, the host
owes no line, no request of the grain is under way, and a write meets no lease (R122 to R136, R147). -/
def svcOpen (s : State) (loc : Nat) (a : Attr) (w : Bool) : Bool :=
  let t := svcTxn s loc a w
  let e := s.entryFor t
  let cls := (s.classes.getD t.gran ClassEntry.zero).cls
  decide (cls ≠ .priv ∧ cls ≠ .readonly) && (probesFor e t).1.isEmpty && (hostNeed s e t).isEmpty &&
    (!w || (horizonPassed s.tick e && s.sliceFree loc)) && !s.txns.any fun o => decide (o.grain = t.grain)

/-- The sectors of `n` bytes from an address, each with its attributes. -/
def svcSectors (s : State) (ctx lid : Nat) (va : DWord) (n : Nat) (w : Bool) : List (Nat × Attr) :=
  (List.range ((va.toNat % 32 + n + 31) / 32)).filterMap fun i =>
    let x := (va &&& ~~~31) + BitVec.ofNat 64 (32 * i)
    (svcLoc s ctx x w).map fun l => (l, svcAttr s ctx lid x)

/-- What `n` bytes of a context's memory still need before a service core may access them: the state in which the first thing missing has
been asked for, a page or a turn at a home; none when nothing is missing. An access that its page or attributes refuse goes on
waiting (DESIGN CHOICE, log 84). -/
def svcHold (s : State) (ctx lid : Nat) (va : DWord) (n : Nat) (w : Bool) : Option State :=
  match (pagesOf va n).find? fun a => (svcLoc s ctx a w).isNone || svcRefused s ctx lid a w with
  | some a => some (svcAsk s ctx a)
  | none =>
    match (svcSectors s ctx lid va n w).find? fun x => !svcOpen s x.1 x.2 w with
    | some x =>
      let t := svcTxn s x.1 x.2 w
      if s.txns.any fun o => decide (o.grain = t.grain) then some s else some (addTxn s t).pumpAll
    | none => none

/-- The first of several ranges that is not at hand. -/
def svcNeed (s : State) (ctx lid : Nat) (w : Bool) (l : List (DWord × Nat)) : Option State := l.findSome? fun x => svcHold s ctx lid x.1 x.2 w

/-- Whether a range is at hand for the service die. -/
def svcReady (s : State) (ctx lid : Nat) (va : DWord) (n : Nat) (w : Bool) : Bool := (svcHold s ctx lid va n w).isNone

/-- A byte of a context's memory, its page at hand. -/
def svcByte (s : State) (ctx lid : Nat) (va : DWord) : Byte :=
  match svcLoc s ctx va false with
  | some loc => s.readByte (svcAttr s ctx lid va).key loc
  | none => 0

def svcBytes (s : State) (ctx lid : Nat) (va : DWord) (n : Nat) : List Byte :=
  (List.range n).map fun i => svcByte s ctx lid (va + BitVec.ofNat 64 i)

/-- 64-bit words from an address. -/
def svcWords (s : State) (ctx lid : Nat) (va : DWord) (n : Nat) : List DWord :=
  (List.range n).map fun i => BitVec.ofNat 64 (valueOf (svcBytes s ctx lid (va + BitVec.ofNat 64 (8 * i)) 8))

/-- Read `n` bytes of a context's memory; none while something is missing. -/
def svcRead (s : State) (ctx lid : Nat) (va : DWord) (n : Nat) : Option Nat × State :=
  match svcHold s ctx lid va n false with
  | some s => (none, s)
  | none => (some (valueOf (svcBytes s ctx lid va n)), s)

/-- Perform the writes of a range that is at hand, sector by sector; a block that its home caches takes them (R119). -/
def svcPut (s : State) (ctx lid : Nat) (va : DWord) (bytes : List Byte) : State :=
  let skip := va.toNat % 32
  (List.range ((skip + bytes.length + 31) / 32)).foldl (fun s i =>
    let lo := 32 * i - skip
    let x := va + BitVec.ofNat 64 lo
    match svcLoc s ctx x true with
    | some loc =>
      let a := svcAttr s ctx lid x
      let part := (bytes.take (32 * (i + 1) - skip)).drop lo
      let sect := sectorsOf loc part.length
      { s.perform a.key loc part (if a.repl then a.repmask else 0) a.grain with
        tags := s.tags.modify (blockOf loc) fun e => { e with sv := e.sv ||| sect, sd := e.sd ||| sect } }
    | none => s) s

/-- Write bytes of a context's memory; none while something is missing. -/
def svcWrite (s : State) (ctx lid : Nat) (va : DWord) (bytes : List Byte) : Option State × State :=
  match svcHold s ctx lid va bytes.length true with
  | some s => (none, s)
  | none => let s := svcPut s ctx lid va bytes
    (some s, s)

/-! ## Launch queues (R370) -/

/-- The header of queue `q`, 0 when it is not configured. -/
def queueBase (s : State) (ctx q : Nat) : DWord := (s.ctx ctx).word (4 + q) &&& ~~~0x3F

/-- TAIL, ring address, LOG2N, completion ring and DEVW of a queue. -/
structure QueueHdr where
  tail : Nat
  ring : DWord
  log2n : Nat
  cring : DWord
  devw : Bool
deriving DecidableEq, Repr

/-- Read a queue's header. -/
def readQueue (s : State) (ctx lid q : Nat) : Option QueueHdr × State :=
  match svcRead s ctx lid (queueBase s ctx q) 64 with
  | (some x, s) =>
    let w (n : Nat) : DWord := BitVec.ofNat 64 (x / 2 ^ (64 * n))
    (some ⟨(w 0).toNat, w 3 &&& ~~~0x7F, fieldOf (w 3) 0 5, w 4 &&& ~~~0x1F, (w 5).getLsbD 0⟩, s)
  | (none, s) => (none, s)

/-- ACCEPTED and COMPLETE of a queue. -/
def State.lq (s : State) (ctx q : Nat) : Nat × Nat := s.lqs.getD (ctx * 8 + q) (0, 0)

/-! ## TLWAIT, TLRD (R406) -/

/-- The counter that fn5 selects (R405). -/
def counterOf (s : State) (k : Skein) (f : Nat) : DWord :=
  if f = 0 then BitVec.ofNat 64 k.eng.timeline
  else if f = 1 then BitVec.ofNat 64 k.spTimeline
  else BitVec.ofNat 64 (s.lq k.ctx (f - 8)).2

def execTlwait (d : Name) (a : Src) (f : BitVec 5) (sw : Bool) (s : State) : Out :=
  issue (.tlwait d a f sw) (fun v s =>
    match s.skein? v.p with
    | none => .trap causeILLEGAL v.enc
    | some k =>
      let n := (v.op 0).at64 0
      if 8 ≤ f.toNat ∧ queueBase s k.ctx (f.toNat - 8) = 0 then .trap causePROT (fieldAt 0 f.toNat)
      else
        let c := counterOf s k f.toNat
        if c < n then .wait s (.timeline f.toNat n) 0
        else match (if f = 0 then markFor k v.p.plyid n.toNat else none) with
          | some m => reportMark v s m
          | none => .done s { writes := dstWrites d .pair 1 [wide64 c] }) s

def execTlrd (d : Name) (f : Bool) (sw : Bool) (s : State) : Out :=
  issue (.tlrd d f sw) (fun v s =>
    match s.skein? v.p with
    | none => .trap causeILLEGAL v.enc
    | some k => .done s { writes := dstWrites d .pair 1 [wide64 (counterOf s k (if f then 1 else 0))] }) s

/-! ## SPAWN (R394) -/

/-- The append that the distributor makes on a ply's behalf, the image read: both writes are stores of the device to their ranges
(R61). A queue whose pages refuse the access gives PROT (DESIGN CHOICE, log 84). -/
def appendRecord (d : Name) (q : Nat) (v : Env) (image : List QWord) (s : State) : Res :=
  let p := v.p
  let base := queueBase s p.ctx q
  let retry (s : State) : Res := .wait s (.cycle (v.t + 100)) 1
  if svcRefused s p.ctx p.lid base true then .trap causePROT base
  else match readQueue s p.ctx p.lid q with
    | (none, s) => retry s
    | (some h, s) =>
      let acc := (s.lq p.ctx q).1
      let n := 2 ^ h.log2n
      let finish (s : State) (res : Nat) (full : Bool) : Res :=
        landDone (s.modPly v.key fun p => { p with work := none }) d (BitVec.ofNat 64 res) [setQ 7 full]
      let slot := h.ring + BitVec.ofNat 64 (128 * (h.tail % n))
      if n ≤ h.tail - acc then finish s 0 true
      else if svcRefused s p.ctx p.lid slot true then .trap causePROT slot
      else match svcNeed s p.ctx p.lid true [(slot, 128), (base, 8)] with
        | some s => retry s
        | none =>
          let note (s : State) (va : DWord) : State := noteStore s p.core p.ctx (svcAttr s p.ctx p.lid va) va
          let s := note (svcPut s p.ctx p.lid slot (image.flatMap fun x => bytesOf 16 x.toNat)) slot
          finish (note (svcPut s p.ctx p.lid base (bytesOf 8 (h.tail + 1))) base) (h.tail + 1) false

def execSpawn (d : Name) (a : Src) (q : BitVec 3) (sw : Bool) (s : State) : Out :=
  issue (.spawn d a q sw) (fun v s =>
    let va := (v.op 0).at64 0
    let base := queueBase s v.p.ctx q.toNat
    let go (w : Work) (s : State) : Res :=
      if w.use = .lost then keptLost v s else appendRecord d q.toNat v (w.got.map (·.2)) s
    match (if v.stage = 1 then v.p.work else none) with
    | some w => go w s
    | none =>
      if va.toNat % 64 ≠ 0 then .trap causeALIGN va
      else if base = 0 then .trap causePROT (fieldAt 0 q.toNat)
      else if svcRefused s v.p.ctx v.p.lid base false then .trap causePROT base
      else match readQueue s v.p.ctx v.p.lid q.toNat with
        | (none, s) => .wait s (.cycle (v.t + 100)) 0
        | (some h, s) =>
          if !h.devw then .trap causePROT (fieldAt 0 q.toNat)
          else if v.p.strict ≠ 0 then .wait s (.quiet false) 0
          else match planAccess v s ((List.range 8).map fun j => (j, va + BitVec.ofNat 64 (16 * j))) 16 true false true with
            | .stop r => r
            | .go l =>
              let s := startKeep s v.key [] (l.map fun x => ⟨x.thread, x.va, x.loc, 16, .load, 0, 0, 0, x.attr⟩) .keep
              match s.plies.get? v.key with
              | some p => if p.workWaits then .wait s .workDone 1 else match p.work with
                | some w => go w s
                | none => .gone s
              | none => .gone s) s

end Sys2Proof.Machine
end

