-- ==== Sys2Proof/Machine/UserInt.lean ====
section
/-! DEFINITION. User-level interrupts (R412 to R431): the user-interrupt unit, the instructions, delivery and diversion. -/

namespace Sys2Proof.Machine

/-! ## Vectors and permission (R412 to R415) -/

def Ctx.vec (c : Ctx) (v : Nat) : VecSt := c.vecs.getD v VecSt.zero
def Ctx.vector (c : Ctx) (v : Nat) : DWord := c.vectors.getD v 0
def Ctx.setVec (c : Ctx) (v : Nat) (x : VecSt) : Ctx := { c with vecs := c.vecs.set v x }

/-- MODE of a vector: 0 LATEST, 1 OR, 2 ADD, 3 QUEUE8. -/
def Ctx.mode (c : Ctx) (v : Nat) : Nat := fieldOf (c.vector v) 18 2

/-- A sender (R412): class, link, sending context, PASID; a field its class does not use is zero. -/
structure Sender where
  cls : Nat
  link : Nat
  sctx : Nat
  pasid : Nat
deriving DecidableEq, Repr

/-- The lowest-indexed valid entry for a sender (R413). -/
def permIndex (c : Ctx) (w : Sender) : Option Nat :=
  c.perms.findIdx? fun e => e.1.getLsbD 63 && decide (fieldOf e.1 61 2 = w.cls ∧ w.cls ≠ 3 ∧ fieldOf e.1 56 5 = w.link ∧
    fieldOf e.1 48 8 = w.sctx ∧ fieldOf e.1 0 20 = w.pasid)

/-- A message that passes the tables acts on the pending state (R415): the vector after it, or none when it is full. -/
def VecSt.accept (x : VecSt) (mode : Nat) (payload : DWord) : VecSt × Bool :=
  match mode with
  | 3 =>
    if x.fifo.length < 8 then ({ x with pend := true, fifo := x.fifo ++ [payload] }, true)
    else ({ x with ovf := min (x.ovf + 1) (2 ^ 32 - 1) }, false)
  | m =>
    if !x.pend then ({ x with pend := true, slot := payload }, true)
    else ({ x with slot := if m = 1 then x.slot ||| payload else if m = 2 then x.slot + payload else payload }, true)

/-- Whether every skein of a context that has started is SAVED (R421). -/
def descheduled (s : State) (ctx : Nat) : Bool :=
  !(s.skeins.any fun k => k.2.ctx = ctx) &&
    s.hw.any fun h => h.2.queues.any fun q => q.any fun t => decide (t.ctx = ctx) && t.saved.isSome

/-- One message at the user-interrupt unit (R413 to R415, R417, R421): its status and the state after it. -/
def uiDeliver (s : State) (w : Sender) (ctx vec : Nat) (payload : DWord) : Nat × State :=
  match s.ctxs.get? ctx with
  | none => (3, { s with uidrop := s.uidrop + 1 })
  | some c =>
    if c.killed then (3, { s with uidrop := s.uidrop + 1 })
    else match permIndex c w with
      | none => (1, s)
      | some i =>
        let e := c.perms.getD i (0, 0)
        let rate := fieldOf e.1 32 16
        if !e.2.getLsbD vec then (1, s)
        else if rate ≠ 0 ∧ c.rates.getD i 0 = 0 then (4, s)
        else
          let c := { c with rates := if rate = 0 then c.rates else c.rates.modify i (· - 1) }
          let put (c : Ctx) : State := { s with ctxs := s.ctxs.set ctx c }
          if !(c.vector vec).getLsbD 16 then (1, put c)
          else
            let (x, ok) := (c.vec vec).accept (c.mode vec) payload
            if ok then
              (0, put { c.setVec vec x with
                nacc := c.nacc + 1
                boost := c.boost || ((c.vector vec).getLsbD 17 && descheduled s ctx) })
            else (2, put (c.setVec vec x))

/-- RATE_COUNTER_RELOAD (R413): at a tick whose count is a multiple of 100. -/
def execRateCounterReload (s : State) : Out :=
  if s.tick % 100 ≠ 0 then .next s
  else .next { s with ctxs := List.map (fun (c : Nat × Ctx) =>
    (c.1, { c.2 with rates := c.2.perms.map fun e => fieldOf e.1 32 16 })) s.ctxs }

/-! ## The mailbox (R416, R417) -/

/-- MAILBOX_MSG_WRITE: a 16-byte write to MSG. -/
def execMailboxMsgWrite (ctx : Nat) (control payload : DWord) (s : State) : Out :=
  let tag := fieldOf control 32 32
  let note (s : State) (status : Nat) : State :=
    s.modCtx ctx fun c => { c with mailStat := fieldAt 32 tag ||| fieldAt 0 status }
  if fieldOf control 6 26 ≠ 0 then .next (note s 5)
  else
    let (st, s) := uiDeliver s ⟨0, 0, 0, (s.ctx ctx).mailPasid⟩ ctx (fieldOf control 0 6) payload
    .next (note s st)

/-- MAILBOX_OTHER_WRITE: any other write to the page is dropped. -/
def execMailboxOtherWrite (ctx : Nat) (s : State) : Out := .next (s.modCtx ctx fun c => { c with mailStat := 5 })

/-- What a read of the mailbox page returns (R416): STAT, NACC, zero elsewhere. -/
def mailboxRead (s : State) (ctx off : Nat) : DWord :=
  let c := s.ctx ctx
  if off = 0x10 then c.mailStat else if off = 0x18 then BitVec.ofNat 64 c.nacc else 0

/-! ## Delivery (R419) -/

def isUiwait (p : Ply) : Bool := match p.park with
  | .wait (.ui _) => true
  | _ => false

/-- Whether a ply is a designated ply of a vector (R414). -/
def designated (c : Ctx) (v : Nat) (p : Ply) : Bool :=
  let x := c.vector v
  x.getLsbD 16 && decide (fieldOf x 58 6 = p.lid ∧ fieldOf x 26 32 = p.skix % 2 ^ 32) && (x.getLsbD 25 || decide (fieldOf x 20 5 = p.plyid))

/-- Whether vector `v` may be delivered to a ply (R419); for ANY, a ply waiting in UIWAIT goes first, the lowest plyid. -/
def deliverable (s : State) (c : Ctx) (v : Nat) (key : Nat) (p : Ply) : Bool :=
  let x := c.vec v
  x.pend && !c.uimask.getLsbD v && designated c v p && (x.claim.isNone || decide (x.claim = some p.logic)) &&
    (!(c.vector v).getLsbD 25 || !(s.plies.any fun q => decide (q.2.skeinKey = p.skeinKey) && isUiwait q.2 && decide (q.2.ctx = p.ctx) &&
      designated c v q.2 && (!isUiwait p || decide (q.2.plyid < p.plyid)) && decide (q.1 ≠ key)))

/-- The lowest vector that is deliverable to a ply. -/
def lowestVector (s : State) (key : Nat) (p : Ply) : Option Nat :=
  match s.ctxs.get? p.ctx with
  | some c => if c.suspended then none else leastBelow 64 fun v => deliverable s c v key p
  | none => none

/-- Take one message of a vector (R428): the payload, none when it is not pending. A claim of the ply `key` on it ends. -/
def takeMessage (c : Ctx) (v key : Nat) : Option DWord × Ctx :=
  let x := c.vec v
  let x' := if x.claim = some key then { x with claim := none } else x
  if !x.pend then (none, c.setVec v x')
  else if c.mode v = 3 then
    (x.fifo.head?, c.setVec v { x' with fifo := x.fifo.tail, pend := !x.fifo.tail.isEmpty })
  else (some x.slot, c.setVec v { x' with slot := 0, pend := false })

/-- End every claim of a ply (R419). -/
def endClaims (s : State) (p : Ply) : State :=
  s.modCtx p.ctx fun c => { c with vecs := c.vecs.map fun x => if x.claim = some p.logic then { x with claim := none } else x }

/-! ## The instructions (R423 to R430) -/

def uiFault (reason : Nat) : Res := .trap causeUIFAULT (BitVec.ofNat 64 reason)

/-- A message to a peer waits for its status (R417). -/
def noteUi (s : State) (link tag : Nat) : State := { s with links := s.links.modify link fun l => { l with uiOut := l.uiOut ++ [tag] } }

def execUisend (d : Name) (a : Src) (sw : Bool) (s : State) : Out :=
  issue (.uisend d a sw) (fun v s =>
    let w := (v.op 0).at64 0
    let payload := (v.op 1).at64 0
    let link := fieldOf w 59 5
    let ctx := fieldOf w 48 8
    let vec := fieldOf w 0 6
    if fieldOf w 56 3 ≠ 0 ∨ fieldOf w 6 42 ≠ 0 ∨ (22 ≤ link ∧ link ≤ 30) then uiFault 3
    else match quietWait v false with
      | some c => .wait s c 0
      | none =>
        if link = 31 then
          let (st, s) := uiDeliver s ⟨2, 0, v.p.ctx, 0⟩ ctx vec payload
          landDone s d (BitVec.ofNat 64 st) []
        else
          let up := match s.links.get? link with
            | some l => l.up && !s.fenced.contains (.peerLink link)
            | none => false
          if !up then landDone s d 6 []
          else
            let tag := s.uses
            .done (noteUi (s.use.tellHost (.uiMessage link tag v.p.ctx ctx vec payload)) link tag) { land := some ⟨tag, false, 0, dstWrites d .pair 1 [0]⟩ }) s

/-- The status of a message to a peer lands. -/
def landUi (s : State) (tag status : Nat) : State :=
  let fill (w : Write) : Write := { w with vals := [BitVec.ofNat 64 status] }
  s.mapPlies fun p => { p with out := p.out.map fun l =>
    if l.tag = tag ∧ l.arrived = false then { l with arrived := true, writes := l.writes.map fill } else l }

/-- A peer link takes a frame that has passed authentication: it is up and not fenced; the failures in a row end (R457). -/
def peerFrame (s : State) (link : Nat) : Option State :=
  match s.links.get? link with
  | some l => if l.up && !s.fenced.contains (.peerLink link) then some { s with links := s.links.set link { l with fails := 0 } } else none
  | none => none

/-- UISTAT (R457): the status of a message that waits on the link. -/
def execUistat (f : UiFrame) (s : State) : Out :=
  match peerFrame s f.link with
  | none => .next s
  | some s =>
    let waits := match s.links.get? f.link with
      | some l => l.uiOut.contains f.tag
      | none => false
    if !waits then .next s
    else .next (landUi { s with links := s.links.modify f.link fun l => { l with uiOut := l.uiOut.erase f.tag } } f.tag f.status)

/-- UIMSG (R412, R457): a message from a peer module. -/
def execUimsg (f : UiFrame) (s : State) : Out :=
  match peerFrame s f.link with
  | none => .next s
  | some s =>
    let (st, s) := uiDeliver s ⟨1, f.link, f.sctx, 0⟩ f.ctx f.vec f.payload
    .next (s.tellHost (.uiStatus f.link f.tag st))

def execUimask (d : Name) (a : Src) (sw : Bool) (s : State) : Out :=
  issue (.uimask d a sw) (fun v s =>
    let old := (s.ctx v.p.ctx).uimask
    landDone (s.modCtx v.p.ctx fun c => { c with uimask := (v.op 0).at64 0 }) d old []) s

/-- The PEND bits of a context. -/
def Ctx.pendBits (c : Ctx) : DWord := (List.range 64).foldl (fun m v => if (c.vec v).pend then m ||| (1#64 <<< v) else m) 0

/-- UIPEND's result for a selector (R427). -/
def uipendValue (c : Ctx) (sel : DWord) : DWord :=
  let n := sel.toNat
  if n = 0 then c.pendBits
  else if n = 1 then c.uimask
  else if n = 2 then c.pendBits &&& ~~~c.uimask
  else if 64 ≤ n ∧ n < 128 then
    let x := c.vec (n - 64)
    let depth := if c.mode (n - 64) = 3 then x.fifo.length else x.pend.toNat
    fieldAt 63 x.pend.toNat ||| fieldAt 62 x.claim.isSome.toNat ||| fieldAt 60 (c.mode (n - 64)) ||| fieldAt 56 depth ||| fieldAt 0 x.ovf
  else 0

def execUipend (d : Name) (a : Src) (sw : Bool) (s : State) : Out :=
  issue (.uipend d a sw) (fun v s => landDone s d (uipendValue (s.ctx v.p.ctx) ((v.op 0).at64 0)) []) s

def execUiack (d : Name) (a : Src) (sw : Bool) (s : State) : Out :=
  issue (.uiack d a sw) (fun v s =>
    let x := (v.op 0).at64 0
    if fieldOf x 6 58 ≠ 0 then uiFault 4
    else
      let (m, c) := takeMessage (s.ctx v.p.ctx) x.toNat v.p.logic
      let s := s.modCtx v.p.ctx fun _ => c
      match m with
      | none => landDone s d 0 [setQ 7 true]
      | some y => landDone s d y [setQ 7 false]) s

/-- UIH and FLOOR of UIST (R418). -/
def uihOf (p : Ply) : Bool := p.uist.getLsbD 0

def execUiret (sw : Bool) (s : State) : Out :=
  issue (.uiret sw) (fun v s =>
    if v.p.tl ≥ 1 || !uihOf v.p then uiFault 1
    else
      let s := s.modPly v.key fun p => { p with
        stack := p.stack.drop (p.stack.length - p.floor)
        em := p.uiem &&& p.tlive
        floor := fieldOf p.uist 1 5
        uist := p.uist &&& ~~~1 }
      .done (endClaims s v.p) { target := some (v.p.uipc &&& ~~~1), after := 2 }) s

/-- UIWAIT (R430). In deterministic mode its timeout counts as 0, as WAITM's does by R391: no result depends on a clock rate (R15; DEDUCED,
log 86). -/
def execUiwait (a : Src) (sw : Bool) (s : State) : Out :=
  issue (.uiwait a sw) (fun v s =>
    if v.p.tl ≥ 1 || uihOf v.p then uiFault 2
    else
      let t := if recDet (s.launchRec v.p) then 0 else ((v.op 0).at32 0).toNat
      match lowestVector s v.key v.p with
      | some n =>
        let (m, c) := takeMessage (s.ctx v.p.ctx) n v.p.logic
        .done (s.modCtx v.p.ctx fun _ => c)
          { writes := [⟨.s 28, 1, [BitVec.ofNat 64 n]⟩, ⟨.s 29, 1, [m.getD 0]⟩, setQ 7 false] }
      | none =>
        if v.stage = 2 then .done s { writes := [setQ 7 true] }
        else match v.p.park with
          | .wait (.ui dl) => .wait s (.ui dl) 1
          | _ => .wait s (.ui (if t = 0 then none else some (s.tick + t))) 1) s

/-- UIWAIT_TIMEOUT (R430): the deadline of a wait has passed. -/
def execUiwaitTimeout (key : Nat) (s : State) : Out :=
  .next (s.modPly key fun p => match p.park with
    | .wait (.ui (some t)) => if t ≤ s.tick then { p with stage := 2 } else p
    | _ => p)

/-! ## Diversion (R420) -/

/-- Whether a parked ply is at a diversion point: at a switch point the trap that an access reported goes first (R434). -/
def diversionPoint (p : Ply) : Bool :=
  match p.park with
  | .switch => p.landable && p.memlost.isNone && p.mixsize.isNone
  | .wait c => match c with
    | .phase _ _ => decide (p.stage = 2)
    | .queueRoom _ | .queueToken _ | .tile _ _ _ _ | .timeline _ _ | .ticket _ _ | .monitor _ | .poll _ _ => true
    | .batch n => decide (n = 1)
    | _ => false
  | _ => false

/-- Whether a ply may be diverted now, and for which vector. -/
def divertVector (s : State) (key : Nat) (p : Ply) : Option Nat :=
  if p.tl ≠ 0 || uihOf p || decide ((s.ctx p.ctx).uivec = 0) || p.frozen || p.preempt.isSome || p.wdog || p.orphan || !diversionPoint p then none
  else lowestVector s key p

/-- USER_INTERRUPT_DIVERSION (R420): the ply goes to the handler and claims the vector. -/
def execUserInterruptDiversion (key : Nat) (s : State) : Out :=
  match s.plies.get? key with
  | none => .next s
  | some p =>
    match divertVector s key p with
    | none => .next s
    | some v =>
      let p' := if p.park = .switch then p.landAll else p
      let at' := max p.nextAt ((if p.park = .switch then p.pend.foldl (fun m x => max m x.due) s.cycle else s.cycle) + 2)
      let s := leaveQueues s p key
      let s := s.modCtx p.ctx fun c => c.setVec v { c.vec v with claim := some p.logic }
      .next (s.setPly key { p'.dropLatches with
        uipc := p.pc &&& ~~~1
        uiem := p.em
        uist := fieldAt 1 p.floor ||| 1
        floor := p.stack.length
        em := p.tlive
        pc := (s.ctx p.ctx).uivec &&& ~~~1
        park := .none
        held := none
        stage := 0
        work := none
        verdict := .retry
        waited := none
        nextAt := at'
        wakeAt := at' })

end Sys2Proof.Machine
end

