-- ==== Sys2Proof/Machine/System.lean ====
section
/-! DEFINITION. System registers (R439 to R441), the SYS instructions (R442 to R446), suspension, pre-emption and the save area
(R447 to R450, R515), trap entry (R433, R434) and the kill (R437, R438). -/

namespace Sys2Proof.Machine

/-! ## System registers (R435, R439, R440) -/

/-- Whether a ply runs in deterministic mode (R388). -/
def State.det (s : State) (p : Ply) : Bool := recDet (s.launchRec p)

/-- A register of a trap bank: XPC, XCAUSE, XVAL, XEM, XSTAT, XSCR. -/
def TrapRegs.get (r : TrapRegs) (n : Nat) : DWord :=
  match n with
  | 0 => r.xpc
  | 1 => r.xcause
  | 2 => r.xval
  | 3 => r.xem
  | 4 => r.xstat
  | _ => r.xscr

/-- A write under the field rules of R435; XSTAT is read only. -/
def TrapRegs.put (r : TrapRegs) (n : Nat) (x : DWord) : TrapRegs :=
  match n with
  | 0 => { r with xpc := x &&& ~~~1 }
  | 1 => { r with xcause := x &&& 0xFF }
  | 2 => { r with xval := x }
  | 3 => { r with xem := x }
  | 4 => r
  | _ => { r with xscr := x }

/-- The value RDSR reads (R439, R440) at arithmetic cycle `t`. -/
def sysRead (s : State) (p : Ply) (t n : Nat) : DWord :=
  let c := s.ctx p.ctx
  let e := energyOf s p.core p.ctx
  match n with
  | 0x00 => p.stat
  | 0x01 => p.em
  | 0x02 => p.frm
  | 0x03 => BitVec.ofNat 64 p.tl
  | 0x04 => BitVec.ofNat 64 (if s.det p then p.retired else t)
  | 0x05 => BitVec.ofNat 64 (if s.det p then c.quantum else s.tick)
  | 0x06 => c.trapcfg
  | 0x07 => c.xvec
  | 0x08 => c.watchen
  | 0x09 => c.wdog
  | 0x0A => c.detq
  | 0x0B => e.1
  | 0x0C => e.2.1
  | 0x0D => e.2.2
  | 0x0E => match s.skein? p with
    | some k => k.save
    | none => 0
  | 0x10 => c.uivec
  | 0x11 => p.uipc
  | 0x12 => p.uiem
  | 0x13 => p.uist
  | n => if 0x20 ≤ n ∧ n ≤ 0x25 then p.tr1.get (n - 0x20) else if 0x28 ≤ n ∧ n ≤ 0x2D then p.tr2.get (n - 0x28) else 0

/-- A legal quantum (R388). -/
def detqOk (x : DWord) : Bool :=
  let q := fieldOf x 0 17
  decide (q = 0 ∨ (256 ≤ q ∧ q ≤ 65536))

/-- WRSR of a ply's register (R439, R351, R267); registers of the context and read-only ones are left. -/
def Ply.sysWrite (p : Ply) (n : Nat) (x : DWord) : Ply :=
  match n with
  | 0x00 => { p with stat := x &&& 0x31F }
  | 0x01 => { p with em := x &&& p.tlive &&& maskLow p.width }
  | 0x02 => { p with frm := frmWrite p.frm x }
  | 0x11 => { p with uipc := x &&& ~~~1 }
  | 0x12 => { p with uiem := x }
  | n => if 0x20 ≤ n ∧ n ≤ 0x25 then { p with tr1 := p.tr1.put (n - 0x20) x }
    else if 0x28 ≤ n ∧ n ≤ 0x2D then { p with tr2 := p.tr2.put (n - 0x28) x } else p

/-- WRSR of a context's register (R439, R440, R388, R409, R418). -/
def Ctx.sysWrite (c : Ctx) (n : Nat) (x : DWord) : Ctx :=
  match n with
  | 0x06 => { c with trapcfg := x &&& 1 }
  | 0x07 => { c with xvec := x &&& ~~~0x7FF }
  | 0x08 => { c with watchen := x &&& 1 }
  | 0x09 => { c with wdog := x &&& 0xFFFFFFFF }
  | 0x0A => if detqOk x then { c with detq := x &&& 0x1FFFF } else c
  | 0x10 => { c with uivec := x &&& ~~~1 }
  | _ => c

/-- WRSR (R441) under the field rules. -/
def sysWrite (s : State) (key : Nat) (p : Ply) (n : Nat) (x : DWord) : State :=
  let s := (s.modPly key fun q => q.sysWrite n x).modCtx p.ctx fun c => c.sysWrite n x
  let e := energyOf s p.core p.ctx
  match n with
  | 0x0B => setEnergy s p.core p.ctx (x &&& 0xFFFFFFFF, e.2.1, e.2.2)
  | 0x0C => setEnergy s p.core p.ctx (e.1, x &&& 0xFFFF, e.2.2)
  | 0x0D => setEnergy s p.core p.ctx (e.1, e.2.1, x &&& 0xFFFFFFFF)
  | _ => s

def execRdsr (d : Name) (i : BitVec 8) (sw : Bool) (s : State) : Out :=
  issue (.rdsr d i sw) (fun v s => .done s { writes := dstWrites d .pair 1 [wide64 (sysRead s v.p v.t i.toNat)] }) s

def execWrsr (a : Src) (i : BitVec 8) (sw : Bool) (s : State) : Out :=
  issue (.wrsr a i sw) (fun v s => .done (sysWrite s v.key v.p i.toNat ((v.op 0).at64 0)) { after := 2 }) s

/-! ## TRAP, TRET, HALT (R442 to R444) -/

def execTrap (a : Src) (sw : Bool) (s : State) : Out :=
  issue (.trap a sw) (fun v s => .gone (takeTrap s v.key causeTRAPINS ((v.op 0).at64 0) v.next)) s

def execTret (sw : Bool) (s : State) : Out :=
  issue (.tret sw) (fun v s =>
    let tr := if v.p.tl = 2 then v.p.tr2 else v.p.tr1
    .done (returnTrap s v.key v.t) { target := some (tr.xpc &&& ~~~1), after := 2 }) s

/-- HALT suspends the context (R444). -/
def execHalt (sw : Bool) (s : State) : Out :=
  issue (.halt sw) (fun v s => .done (s.modCtx v.p.ctx fun c => { c with suspended := true }) {}) s

/-- CONTEXT_SUSPEND: Bruvik suspends a context (R421, R444). -/
def execContextSuspend (ctx : Nat) (s : State) : Out := .next (s.modCtx ctx fun c => { c with suspended := true })

/-- CONTEXT_RESUME: only Bruvik resumes a suspended context (R444). -/
def execContextResume (ctx : Nat) (s : State) : Out := .next (s.modCtx ctx fun c => { c with suspended := false })

/-! ## CLASSQ (R445) -/

def Cls.code : Cls → Nat
  | .unseen => 0
  | .priv => 1
  | .readonly => 2
  | .shared => 3

/-- What CLASSQ reports of a granule to a ply. -/
def classWord (s : State) (key loc : Nat) : DWord :=
  let g := granuleOf loc
  let e := s.classes.getD g ClassEntry.zero
  let wd := e.wd || s.withdrawn.contains g
  fieldAt 0 e.cls.code ||| fieldAt 2 wd.toNat ||| fieldAt 3 (decide (e.cls = .priv) && decide (e.owner = some (.ply key))).toNat |||
    fieldAt 4 e.mig

def execClassq (d : Name) (a : Src) (sw : Bool) (s : State) : Out :=
  issue (.classq d a sw) (fun v s =>
    let va := (v.op 0).at64 0
    match planAccess v s [(0, va)] 1 true false false with
    | .stop r => r
    | .go l =>
      let loc := match tlbFind (s.core v.p.core).tlb (s.ctx v.p.ctx).pasid (pageOf va) with
        | some e => e.loc + (va.toNat - e.vpage * 4096)
        | none => (l.map (·.loc)).headD 0
      landDone s d (classWord s v.key loc) []) s

/-! ## FAULTREQ, WAITF (R446) -/

/-- Whether a cache of the core holds a translation that permits the kinds. -/
def cachedFor (s : State) (core pasid page : Nat) (r w x : Bool) : Bool :=
  let ok (l : List TlbEnt) : Bool := match tlbFind l pasid page with
    | some e => e.allows r w x
    | none => false
  ok (s.core core).tlb || ok (s.dieTlbs.getD (coreDie core) []) || ok s.ats

def execFaultreq (d : Name) (a : Src) (sw : Bool) (s : State) : Out :=
  issue (.faultreq d a sw) (fun v s =>
    let w := (v.op 0).at64 0
    let page := fieldOf w 12 52
    if cachedFor s v.p.core (s.ctx v.p.ctx).pasid page (w.getLsbD 0) (w.getLsbD 1) (w.getLsbD 2) then landDone s d 1 []
    else match openRecord s v.p.core v.p.ctx page (w.getLsbD 0) (w.getLsbD 1) (w.getLsbD 2) with
      | some s => landDone s d 0 []
      | none => landDone s d 2 []) s

def execWaitf (d : Name) (a : Src) (sw : Bool) (s : State) : Out :=
  issue (.waitf d a sw) (fun v s =>
    let page := fieldOf ((v.op 0).at64 0) 12 52
    let res (n : Nat) : Res := .done s { writes := dstWrites d .pair 1 [BitVec.ofNat 128 n] ++ [setQ 7 (decide (n ≠ 0))] }
    if v.p.preempt.isSome then res 2
    else if v.stage = 1 then res (if v.p.verdict = .prot then 1 else 0)
    else match recordOf s (s.ctx v.p.ctx).pasid page with
      | some f => if f.wait.getLsbD v.p.core then .wait s (.record page) 0 else res 3
      | none => res 3) s

/-! ## The save area (R449) -/

def w64 (x : DWord) : List Byte := bytesOf 8 x.toNat
def n64 (x : Nat) : List Byte := bytesOf 8 x
/-- Pad with zero bytes to a length. -/
def padTo (n : Nat) (l : List Byte) : List Byte := (l ++ List.replicate n 0).take n

/-- A barrier in the layout of R398. -/
def barImage (x : Barrier) : List Byte :=
  n64 (x.phase * 2 ^ 48 + x.acc.toNat * 2 ^ 16 + x.op * 2 ^ 13 + x.narr * 2 ^ 7) ++ n64 (x.arrm.toNat * 2 ^ 32 + x.defm.toNat)

def barOfImage (w0 w1 : DWord) : Barrier :=
  ⟨fieldOf w0 48 16, BitVec.ofNat 32 (fieldOf w0 16 32), fieldOf w0 13 3, fieldOf w0 7 6, BitVec.ofNat 32 (fieldOf w1 32 32),
    BitVec.ofNat 32 (fieldOf w1 0 32)⟩

def TileSt.code : TileSt → Nat
  | .empty => 0
  | .filling => 1
  | .ready => 2
  | .draining => 3

/-- A tile-table entry in the layout of R217. -/
def tileImage (e : TileEnt) : List Byte :=
  bytesOf 16 (2 ^ 127 + e.slot * 2 ^ 123 + e.handle * 2 ^ 118 + e.gen * 2 ^ 110 + e.st.code * 2 ^ 108 + e.part.toNat * 2 ^ 107 +
      e.spn.toNat * 2 ^ 106 + e.ncpy * 2 ^ 100 + e.base * 2 ^ 88 + e.size * 2 ^ 75)

def tileOfImage (slot : Nat) (lo hi : DWord) : Option TileEnt :=
  let f (a n : Nat) : Nat := (hi.toNat * 2 ^ 64 + lo.toNat) / 2 ^ a % 2 ^ n
  if f 127 1 = 0 then none
  else some ⟨slot, f 118 5, f 110 8, (match f 108 2 with
    | 0 => .empty
    | 1 => .filling
    | 2 => .ready
    | _ => .draining), decide (f 107 1 = 1), decide (f 106 1 = 1), f 100 6, f 88 12, f 75 13⟩

/-- A state of R206 as a number, in the order of that table (DESIGN CHOICE, log 22: R208 gives no code). -/
def CopySt.code : CopySt → Nat
  | .queued => 0
  | .active => 1
  | .waitPage => 2
  | .stamping => 3
  | .saved => 4

/-- A resume record (R208): the layout record, then n, the instruction word, the coordinate block, s[tl5], the bytes done, the
state that the eviction met. -/
def copyImage (c : Copy) : List Byte :=
  padTo 128 (c.layout.flatMap w64 ++ n64 c.n ++ bytesOf 4 (encode c.instr).value.toNat ++ c.coord.flatMap w64 ++ w64 c.tref ++
    n64 c.doneBytes ++ bytesOf 4 c.st.code)

/-- A copy from its resume record, which starts with the words `w`: what the record holds, and from the copy that was saved what it does
not hold, its place within the row among it while the record still says as many bytes (R208, R450; log 22). -/
def copyOfImage (w : Nat → DWord) (c : Copy) : Copy :=
  let word := lo32 (w 9)
  let instr := match decodeWord word with
    | .ok i => if (kindOf i = kindOf c.instr) then i else c.instr
    | .error _ => c.instr
  let coord := (List.range 4).map fun i => (w (9 + i) >>> 32) ||| (w (10 + i) <<< 32)
  let done := ((w 14 >>> 32) ||| (w 15 <<< 32)).toNat
  let c' : Copy := { c with
    n := (w 8).toNat
    instr := instr
    layout := (List.range 8).map w
    coord := coord
    tref := (w 13 >>> 32) ||| (w 14 <<< 32)
    st := .queued }
  if done = c.doneBytes then c'
  else { c'.elem (done / layEsz c'.layout) with phase := if layKind c'.layout = 0 then .read else .index, okRead := 0, okWrite := 0 }

/-- The skein part of the save area, bytes 0x0000 to 0x1FFF, as of a cycle. -/
def skeinImage (t : Nat) (k : Skein) (tiles : List TileEnt) : List Byte :=
  padTo 0x100 ((List.range 16).flatMap fun b => barImage (k.bar b)) ++
  padTo 0x900 ((List.range 8).flatMap fun q => padTo 264 (n64 (k.queue q).length ++ (k.queue q).flatMap w64)) ++
  padTo 0x200 (tiles.flatMap tileImage) ++
  padTo 0x100 ((k.gensAt t).flatMap fun g => w64 g.w0 ++ w64 g.w1 ++ w64 g.w2 ++ w64 g.w3) ++
  padTo 0x100 (n64 k.eng.issued ++ n64 k.eng.timeline ++ n64 k.spTimeline ++
    (k.eng.marks.flatMap fun m => w64 ((m.page &&& ~~~0xFFF) ||| fieldAt 4 (m.n % 256) ||| fieldAt 0 m.reason))) ++
  padTo 0x200 ((List.range 64).flatMap fun i =>
    w64 (copyStatus k (k.eng.issued + 1 + i - 64))) ++
  padTo 0x1000 (k.eng.copies.flatMap copyImage)

def DivKind.code : DivKind → Nat
  | .ifK => 0
  | .elect => 1
  | .loop => 2

/-- A divergence-stack entry in the layout of R352. -/
def divImage (e : DivEntry) : List Byte :=
  w64 e.oem ++ w64 e.aux ++ w64 (fieldAt 62 e.kind.code ||| fieldAt 61 e.elsed.toNat ||| (e.tgt &&& 0x1FFFFFFFFFFFFFE))

/-- A ply block (R449). -/
def plyImage (p : Ply) : List Byte :=
  let flags : DWord := fieldAt 0 p.q.toNat ||| fieldAt 8 p.stack.length ||| fieldAt 16 p.ext.toNat |||
    fieldAt 17 (if p.mon.st = .none then 0 else 2)
  padTo 1024 (
    w64 p.tr1.xpc ++ w64 p.tr1.xem ++ w64 p.tlive ++ w64 p.tr1.xstat ++ w64 p.stat ++ w64 p.frm ++
    ((List.range 8).flatMap fun i => w64 (p.p.getD i 0)) ++ w64 flags ++ w64 p.uipc ++ w64 p.uiem ++ w64 p.uist ++
    ((List.range 4).flatMap fun i => match p.defer[i]? with
      | some (n, b, _) => n64 (n % 2 ^ 60 + b * 2 ^ 60)
      | none => n64 0) ++ w64 (p.owe.setWidth 64) ++ n64 0 ++
    (padTo 64 (p.bres.flatMap fun r => bytesOf 4 r.toNat)) ++ padTo 384 (p.stack.reverse.flatMap divImage))

/-! ## EVICT (R448) -/

/-- Whether a ply is the last unretired one of its skein on the core. -/
def lastToLeave (k : Skein) (plyid : Nat) : Bool :=
  (List.range (recNply k.lrec)).all fun p => k.retired.getLsbD p || k.left.getLsbD p || decide (p = plyid)

/-- The TCB of a skein, saved at an address. -/
def savedTcb (s : State) (k : Skein) : Tcb :=
  ⟨k.ctx, k.lid, s.launchClass k.ctx k.lid, recDet k.lrec, k.gang, k.nskein, k.index, some k.save.toNat⟩

def asideKey (ctx lid index : Nat) : Nat := (ctx * 64 + lid) * 2 ^ 32 + index

def State.awayOf (s : State) (key : Nat) : Away := s.aside.getD key ⟨none, [], 0⟩

/-- Keep what of a leaving ply the save area has no place for. -/
def noteAway (s : State) (p : Ply) : State :=
  let key := asideKey p.ctx p.lid p.skix
  let a := s.awayOf key
  { s with aside := s.aside.set key { a with plies := a.plies.set p.plyid (p.tr1.xval, p.retired) } }

/-- A waiter of a fault-buffer record gives up its bit, unless something else of its core waits on the page (R208). -/
def giveUpWait (s : State) (core ctx page : Nat) : State :=
  let pasid := (s.ctx ctx).pasid
  if (waitersOf s pasid page).any fun x => decide (x.1 = core) then s
  else modRecord s pasid page fun f => { f with wait := f.wait &&& ~~~(1#128 <<< core) }

/-- The stores of an eviction, which are events like other device stores (R61, R449). -/
def saveStore (s : State) (core ctx lid : Nat) (va : DWord) (bytes : List Byte) : State :=
  svcPut (noteStore s core ctx (svcAttr s ctx lid va) va) ctx lid va bytes

/-- The last ply has left: the skein part is saved, the slot released, and the TCB returns to its class queue. -/
def saveSkein (s : State) (sk : Nat) (k : Skein) : State :=
  let core := sk / 16
  let tiles := (s.hwOf core).tiles.filter fun e => e.slot = sk % 16
  let img := skeinImage s.cycle k tiles
  let s := saveStore (saveStore s core k.ctx k.lid k.save (img.take 4096)) core k.ctx k.lid (k.save + 4096) (img.drop 4096)
  let t := savedTcb s k
  let eng : Engine := { k.eng with
    halted := false
    copies := k.eng.copies.map fun (c : Copy) => { c with st := .saved, miss := none, left := 0 } }
  let s := freeSkein s sk
  let s := k.eng.copies.foldl (fun s c => match c.miss with
    | some (page, _, _, true) => giveUpWait s core k.ctx page
    | _ => s) s
  let key := asideKey k.ctx k.lid k.index
  let s := { s with aside := s.aside.set key { s.awayOf key with skein := some { k with eng := eng }, tiles := tiles.length } }
  s.modHw core fun h => { h with queues := h.queues.modify t.pcls fun q => t :: q }

def execEvict (sw : Bool) (s : State) : Out :=
  issue (.evict sw) (fun v s =>
    match s.skein? v.p with
    | none => .trap causeILLEGAL v.enc
    | some k =>
      if v.p.tl ≠ 1 ∨ k.save = 0 then .gone (killContext s v.p 3 0 v.p.pc 0)
      else match closeBatch s v.key v.p v.t true with
        | none => .wait s (.batch 0) 0
        | some (s, _) =>
          if v.p.out ≠ [] then .wait s .landRoom 0
          else match quietWait v true with
          | some c => .wait s c 0
          | none =>
            if !batchesDone s v.key v.p then .wait s (.batch 1) 0
            else
              let last := lastToLeave k v.p.plyid
              let block := k.save + BitVec.ofNat 64 (0x2000 + 1024 * v.p.plyid)
              let s := if last then s.modEngine v.p.skeinKey fun e => { e with halted := true } else s
              let busy := match (s.hwOf v.p.core).serving with
                | some (sk, _) => decide (sk = v.p.skeinKey)
                | none => false
              if !v.p.overlapped.isEmpty || last && (busy || k.eng.copies.any (·.waiting)) then .wait s (.cycle (v.t + 8)) 0
              else match svcNeed s v.p.ctx v.p.lid true ((block, 1024) :: if last then [(k.save, 0x2000)] else []) with
                | some s => .wait s (.cycle (v.t + 100)) 0
                | none =>
                  let s := noteAway (saveStore s v.p.core v.p.ctx v.p.lid block (plyImage v.p)) v.p
                  let s := releaseExt s v.key v.p
                  let s := { s with mons := s.mons.filter fun m => m.1 ≠ v.key, plies := s.plies.erase v.key }
                  let s := s.modPart v.p.partKey fun pt => { pt with
                    banks := pt.banks.map fun b => if b = some v.key then none else b
                    current := if pt.current = some v.key then none else pt.current }
                  let s := s.modSkein v.p.skeinKey fun k => { k with left := k.left ||| (1#32 <<< v.p.plyid) }
                  match s.skeins.get? v.p.skeinKey with
                  | some k => .gone (if last then saveSkein s v.p.skeinKey k else s)
                  | none => .gone s) s

/-! ## PREEMPT and trap entry (R433, R434, R447) -/

/-- PREEMPT_REQUEST (R447): every ply of a skein that holds a save area is asked. -/
def execPreemptRequest (sk : Nat) (gang : Bool) (s : State) : Out :=
  match s.skeins.get? sk with
  | none => .next s
  | some k =>
    if k.save = 0 then .next s
    else .next (s.mapPlies fun p =>
      if p.skeinKey = sk ∧ p.preempt.isNone then { p with preempt := some (if gang then 2 else 1) } else p)

/-- The wait kind and id of R408, from the park of a ply. -/
def waitKind (p : Ply) : Nat × Nat :=
  match p.park with
  | .wait c => match c with
    | .phase b _ => (1, b)
    | .queueRoom q => (2, q)
    | .queueToken q => (3, q)
    | .tile h _ _ _ => (4, h)
    | .timeline f _ => (5, f)
    | .batch n => if n = 1 then (6, 0) else (0, 0)
    | .ticket c _ => (7, c)
    | .vacq => (8, 0)
    | .monitor _ => (9, 0)
    | .poll _ _ => (10, 0)
    | .ui _ => (11, 0)
    | .page _ _ _ _ h => if h then (12, 0) else (0, 0)
    | .record _ => (12, 0)
    | .energy => (13, 0)
    | _ => (0, 0)
  | _ => (0, 0)

def waitVal (p : Ply) : DWord := fieldAt 0 (waitKind p).1 ||| fieldAt 8 (waitKind p).2

/-- Whether a ply stands at an instruction boundary, so that an asynchronous cause can be taken. -/
def atBoundary (p : Ply) : Bool :=
  match p.park with
  | .none | .wait _ => true
  | .switch => p.landable
  | _ => false

/-- The asynchronous cause that is due at a ply's boundary (R434), and the ply with the request taken. -/
def asyncCause (p : Ply) : Option (Nat × DWord × Ply) :=
  if p.frozen || !atBoundary p then none
  else if p.wdog then some (causeWATCHDOG, waitVal p, { p with wdog := false, orphan := false })
  else if p.orphan then some (causeORPHAN, waitVal p, { p with orphan := false })
  else match p.preempt with
    | some r => if p.tl = 0 then some (causePREEMPT, BitVec.ofNat 64 r, { p with preempt := none }) else none
    | none => none

/-- TRAP_ENTRY (R433, R434): a ply whose asynchronous cause is due takes it; one that waits to enter its handler enters it once
everything has landed and a bank is free. -/
def execTrapEntry (key : Nat) (s : State) : Out :=
  match s.plies.get? key with
  | none => .next s
  | some p =>
    match p.park with
    | .trap _ _ _ => .next (tryTrapEntry s key)
    | _ => match asyncCause p with
      | some (cause, val, p') => .next (takeTrap (s.setPly key p') key cause val p.pc)
      | none => .next s

/-! ## The kill (R437, R438) -/

/-- Ask the homes to remove the class entries that name a launch, after their drains, and drop the launch's class-cache lines (R168
step 4): on the cores that ran it those of its slot number, unless another context's launch of that number is on the core. -/
def dropClasses (s : State) (ctx lid : Nat) : State :=
  let gone := List.filter (fun (e : Nat × ClassEntry) => decide (e.2.ctx = ctx ∧ e.2.lid = lid)) s.classes
  let ran := ((s.launches.get? (ctx * 64 + lid)).map (·.ran)).getD 0
  let alone (core : Nat) : Bool := ran.getLsbD core &&
    !s.plies.any fun p => decide (p.2.core = core ∧ p.2.lid = lid ∧ p.2.ctx ≠ ctx)
  let s := { s with cores := List.map (fun (c : Nat × CoreMem) =>
    (c.1, { c.2 with cls := c.2.cls.filter fun g l => !(decide (l.lid = lid) && (alone c.1 || gone.any fun e => e.1 = g)) })) s.cores }
  gone.foldl (fun s e => if s.txns.any fun t => decide (t.kind = .drop ∧ t.gran = e.1) then s
    else addTxn s { Txn.blank s .drop e.1 1 with gran := e.1 }) s

/-- Indices of a launch's skeins that have not ended: running, queued, saved, bound or not dealt. The lowest of them. -/
def lowestUnended (s : State) (l : Launch) : Option Nat :=
  let run := s.skeins.filterMap fun (k : Nat × Skein) => if k.2.ctx = l.ctx ∧ k.2.lid = l.lid then some k.2.index else none
  let queued := s.hw.flatMap fun (h : Nat × CoreHw) => h.2.queues.flatMap fun q => q.filterMap fun t =>
    if t.ctx = l.ctx ∧ t.lid = l.lid then some t.skein else none
  let bound := match l.bound with
    | some b => [b.2.skein]
    | none => []
  let undealt := if l.next < fieldOf (recWord l.lrec 2) 32 32 then [l.next] else []
  (run ++ queued ++ bound ++ undealt).foldl (fun a n => match a with
    | none => some n
    | some m => some (min m n)) none

/-- A launch of a killed context ends: every skein that had not ended failed (R437); its kernel boundary follows (R168). -/
def killLaunch (s : State) (l : Launch) : Launch :=
  match l.st with
  | .refused _ | .finished => l
  | _ =>
    let rest := fieldOf (recWord l.lrec 2) 32 32 - l.ended
    let low := lowestUnended s l
    { l with
      st := .dealt
      ended := fieldOf (recWord l.lrec 2) 32 32
      nfail := l.nfail + rest
      ffirst := match l.ffirst, low with
        | some a, some b => some (min a b)
        | some a, none => some a
        | none, b => b
      bound := none
      held := []
      killed := true }

/-- Take a context's skeins off the module: plies, queues of TCBs, copies and batches are abandoned. -/
def clearContext (s : State) (ctx : Nat) : State :=
  let skeins := (s.skeins.filter fun _ k => k.ctx = ctx).keys
  let ofCtx (key : Nat) : Bool := skeins.contains (key / 32)
  let none' (b : Option Nat) : Option Nat := match b with
    | some k => if ofCtx k then none else b
    | none => none
  let noBatch (b : Option Batch) : Option Batch := match b with
    | some x => if ofCtx x.owner then none else b
    | none => none
  let units (key : Nat) : Nat := (List.map (fun (p : Nat × Ply) =>
    if p.2.ctx = ctx ∧ p.2.ext = true ∧ p.2.partKey = key then extUnitsOf p.2.width else 0) s.plies).sum
  let part (key : Nat) (x : Part) : Part := { x with
    current := none' x.current
    extUnits := x.extUnits - units key
    vacq := x.vacq.filter fun k => !ofCtx k
    bankWait := x.bankWait.filter fun k => !ofCtx k
    banks := x.banks.map none' }
  let spin (x : Spindle) : Spindle :=
    let mine := ofCtx x.owner
    { x with
      opened := noBatch x.opened, drain := noBatch x.drain
      reads := if mine then [] else x.reads, work := if mine then none else x.work
      writes := if x.drain.isNone && mine || x.drain.isSome && (noBatch x.drain).isNone then [] else x.writes }
  let core (key : Nat) (h : CoreHw) : CoreHw := { h with
    queues := h.queues.map fun (q : List Tcb) => q.filter fun t => decide (t.ctx ≠ ctx)
    tiles := h.tiles.filter fun e => !skeins.contains (key * 16 + e.slot)
    spindles := h.spindles.map spin
    serving := match h.serving with
      | some x => if skeins.contains x.1 then none else h.serving
      | none => none }
  let s := { s with
    parts := List.map (fun (x : Nat × Part) => (x.1, part x.1 x.2)) s.parts
    hw := List.map (fun (h : Nat × CoreHw) => (h.1, core h.1 h.2)) s.hw
    mons := s.mons.filter fun m => !ofCtx m.1
    plies := s.plies.filter fun _ p => decide (p.ctx ≠ ctx)
    skeins := s.skeins.filter fun _ k => decide (k.ctx ≠ ctx)
    aside := s.aside.filter fun k _ => decide (k / 2 ^ 38 ≠ ctx) }
  s.modCtx ctx fun c => { c with saves := [], serial := [], inSerial := false }

/-- Write the kill record, asking for its page first when it is not at hand (R437): of the ATS, then through the fault buffer. The
attributes are those of the killing ply's launch. -/
def writeKill (s : State) (ctx : Nat) (w : List DWord) : State :=
  let c := s.ctx ctx
  let va := c.word 12 &&& ~~~0x7F
  let page := pageOf va
  let lid := fieldOf (w.headD 0) 50 6
  let drop (s : State) : State := s.modCtx ctx fun c => { c with killRec := none }
  let step (s : State) (n : Nat) : State := s.modCtx ctx fun c => { c with killStep := n }
  if va = 0 ∨ svcRefused s ctx lid va true = true then drop s
  else match svcHold s ctx lid va 128 true with
    | none => drop (svcPut s ctx lid va (padTo 128 (w.flatMap w64)))
    | some asked =>
      if (svcLoc s ctx va true).isSome then asked
      else if c.killStep = 2 then (if (recordOf s c.pasid page).isSome then s else drop s)
      else if s.misses.any fun m => decide (m.pasid = c.pasid ∧ m.vpage = page) && !m.full then s
      else if c.killStep = 0 then step asked 1
      else match openFor s 0 ctx page false true false with
        | some s => step s 2
        | none => s

/-- Whether instructions of a context that have issued have accesses left to perform: a killed ply freezes at its next boundary (R437). -/
def accessesLeft (s : State) (ctx : Nat) : Bool :=
  s.plies.any fun p => decide (p.2.ctx = ctx) && (decide (p.2.strict ≠ 0) || !p.2.overlapped.isEmpty || !p.2.tiles.isEmpty)

/-- KILL_RECORD_WRITE (R437): the rest of a kill. The plies are gone, the launches come to their kernel boundaries and complete with STATUS
1, and the record is written once. -/
def execKillRecordWrite (ctx : Nat) (s : State) : Out :=
  match (s.ctx ctx).killRec with
  | none => .next s
  | some w =>
    if accessesLeft s ctx then .next s
    else
    let s := { s with launches := List.map (fun (l : Nat × Launch) => (l.1, if l.2.ctx = ctx then killLaunch s l.2 else l.2)) s.launches }
    .next (writeKill (clearContext s ctx) ctx w)

end Sys2Proof.Machine
end

