-- ==== Sys2Proof/Machine/Launch.lean ====
section
/-! DEFINITION. Launch acceptance (R372 to R374, R473, R514), tree installation (R106 to R108), dependences, the kernel boundary
and completion records (R168, R375, R376). -/

namespace Sys2Proof.Machine

/-! ## The checks of a record (R374) -/

def recNskein (r : List DWord) : Nat := fieldOf (recWord r 2) 32 32
/-- The gang size, 0 for none. -/
def recGang (r : List DWord) : Nat := if fieldOf (recWord r 2) 9 2 = 0 then 0 else 2 ^ fieldOf (recWord r 2) 9 2
def recDetq (r : List DWord) : Nat := fieldOf (recWord r 3) 32 16

/-- Code 0x21. -/
def badFields (r : List DWord) : Bool :=
  let w (n : Nat) := recWord r n
  let roles := decide (recNprod r ≠ 0)
  let basep := fieldOf (w 2) 17 3
  let basec := fieldOf (w 2) 14 3
  let reserved := (w 0).getLsbD 0 || decide (fieldOf (w 2) 0 8 ≠ 0 ∨ fieldOf (w 3) 48 16 ≠ 0 ∨ fieldOf (w 3) 22 10 ≠ 0 ∨
    fieldOf (w 4) 60 4 ≠ 0 ∨ fieldOf (w 5) 36 28 ≠ 0 ∨ fieldOf (w 6) 48 16 ≠ 0 ∨ w 14 ≠ 0 ∨ w 15 ≠ 0) ||
    (List.range 4).any fun k => decide (fieldOf (w (8 + k)) 51 12 ≠ 0)
  let bar (b : Nat) : Bool := let c := recBar r b; decide (36 ≤ c) || (!roles && decide (c = 34 ∨ c = 35))
  let queue (q : Nat) : Bool :=
    let d := recQueue r q
    decide (16 ≤ d) && (decide (d % 4 = 3 ∨ d / 4 % 4 = 3) || (!roles && decide (d % 16 ≠ 0)))
  reserved || decide (recNskein r = 0 ∨ recNply r = 0 ∨ 32 < recNply r ∨ recNply r ≤ recNprod r ∨ basep = 0 ∨ 6 < basep ∨
      (recDet r = true ∧ recDetq r < 255) ∨ (recDet r = false ∧ recDetq r ≠ 0) ∨ recTilemem r % 2048 ≠ 0 ∨ 2097152 < recTilemem r) ||
    (if roles then decide (basec = 0 ∨ 6 < basec) else decide (basec ≠ 0)) || (List.range 16).any bar || (List.range 8).any queue

/-- The bytes of base budget that a skein's plies on partition `i` take (R251, R350). -/
def baseBytes (r : List DWord) (i : Nat) : Nat :=
  (((List.range (recNply r)).filter fun p => p % 4 = i).map fun p => recBase r (recRole r p) * recWidth r * 4).sum

/-- Code 0x22. -/
def neverFits (r : List DWord) : Bool :=
  decide (1024 < (recNply r + 3) / 4 * recWidth r) || (List.range 4).any fun i => decide (196608 < baseBytes r i)

/-- The first check of R374 that a record fails, before the loader's. -/
def recordFault (s : State) (ctx q seq : Nat) (r : List DWord) : Option Nat :=
  let quantum := fieldOf (s.ctx ctx).detq 0 17
  if badFields r then some 0x21
  else if neverFits r then some 0x22
  else if recDet r ≠ decide (quantum ≠ 0) ∨ (recDet r = true ∧ recDetq r + 1 ≠ quantum) then some 0x23
  else if (List.range 4).any (fun k =>
      let d := recWord r (8 + k)
      let qid := fieldOf d 48 3
      d.getLsbD 63 && (decide (queueBase s ctx qid = 0) || (decide (qid = q) && decide (seq ≤ fieldOf d 0 48)))) then some 0x24
  else if recGang r ≠ 0 ∧ recNskein r % recGang r ≠ 0 then some 0x25
  else none

/-! ## Variants (R471 to R473) -/

/-- Whether a core is enabled in the fused defect map and not fenced (R378). -/
def State.alive (s : State) (c : Nat) : Bool :=
  !(s.fuses.defect.getD (8 + c / 8) 0).getLsbD (c % 8) && !s.fenced.contains (.core c)

/-- The defect-map signature (R471). -/
def State.defectSig (s : State) : DWord := BitVec.ofNat 64 (valueOf (shake256 8 s.fuses.defect))

/-- What the loader takes from the chosen entry; no trees when the launch has no variant table, so that the tree map stands (DESIGN CHOICE,
log 87). -/
structure Variant where
  trees : Option (List (List DWord))
  plist : List Nat
  gmask : Option (BitVec 128)
deriving DecidableEq, Repr

/-- The outcome of the selection: pages to wait for, a refusal, or a choice. -/
inductive VarRes where
  | need (s : State)
  | refused (code : Nat)
  | chosen (v : Variant)
deriving DecidableEq, Repr

/-- VARIANT_SELECTION (R473). -/
def selectVariant (s : State) (ctx lid : Nat) (r : List DWord) : VarRes :=
  let va := recWord r 13
  if va = 0 then .chosen ⟨none, [], none⟩
  else match svcNeed s ctx lid false [(va, 64)] with
    | some s => .need s
    | none =>
      let hd := svcBytes s ctx lid va 64
      let nvar := valueOf (hd.take 4)
      if nvar = 0 ∨ 64 < nvar ∨ (hd.drop 5).take 27 ≠ List.replicate 27 0 then .refused 0x32
      else match svcNeed s ctx lid false [(va + 64, 64 * nvar)] with
        | some s => .need s
        | none =>
          let body := svcBytes s ctx lid (va + 64) (64 * nvar)
          if shake256 32 body ≠ hd.drop 32 then .refused 0x32
          else if (hd.getD 4 0).toNat < (s.fuses.defect.getD 0 0).toNat then .refused 0x33
          else
            let word (i n : Nat) : DWord := BitVec.ofNat 64 (valueOf ((body.drop (64 * i + 8 * n)).take 8))
            match (List.range nvar).find? fun i => decide (word i 0 = s.defectSig) && (!recDet r || decide (fieldOf (word i 2) 0 8 ≠ 0)) with
            | none => .refused 0x31
            | some i =>
              let n := min 32 (fieldOf (word i 2) 32 32)
              let l := fieldOf (word i 2) 0 8
              match svcNeed s ctx lid false [(word i 1, 576 * n), (word i 3, l)] with
              | some s => .need s
              | none => .chosen ⟨some ((List.range n).map fun t => svcWords s ctx lid (word i 1 + BitVec.ofNat 64 (576 * t)) 72),
                  (svcBytes s ctx lid (word i 3) l).map (·.toNat), some (word i 5 ++ word i 4)⟩

/-! ## Trees (R106 to R108) -/

def treeEnt (w : List DWord) (m : Nat) : DWord := w.getD (8 + m) 0
def treeIn (w : List DWord) (m : Nat) : Bool := (treeEnt w m).getLsbD 0
def treeParent (w : List DWord) (m : Nat) : Nat := fieldOf (treeEnt w m) 7 3
def treeInputs (w : List DWord) (m : Nat) : List Nat :=
  (List.range (fieldOf (treeEnt w m) 28 4)).map fun j => fieldOf (treeEnt w m) (10 + 3 * j) 3
def treeOp (w : List DWord) : Nat := fieldOf (w.getD 0 0) 10 3
def treeWidth (w : List DWord) : Nat := 8 * 2 ^ fieldOf (w.getD 0 0) 16 2
def treeTmo (w : List DWord) : Nat := fieldOf (w.getD 0 0) 32 32
def treeMask (w : List DWord) : BitVec 128 := w.getD 3 0 ++ w.getD 2 0

/-- The neighbour of a router in a direction code: 2 west, 3 east, 4 north, 5 south (R107). -/
def neighbour (m dir : Nat) : Option Nat :=
  let x := m % 8
  let y := m / 8
  if dir = 2 then (if x = 0 then none else some (m - 1))
  else if dir = 3 then (if x = 7 then none else some (m + 1))
  else if dir = 4 then (if y = 0 then none else some (m - 8))
  else if dir = 5 then (if y = 7 then none else some (m + 8))
  else none

def opposite (dir : Nat) : Nat := if dir % 2 = 0 then dir + 1 else dir - 1

/-- Follow parent links to the root. -/
def reachesRoot (w : List DWord) : Nat → Nat → Bool
  | 0, _ => false
  | n + 1, m => if treeParent w m = 7 then treeIn w m else match neighbour m (treeParent w m) with
    | some p => reachesRoot w n p
    | none => false

/-- The checks of R108. -/
def treeOk (w : List DWord) : Bool :=
  let members := (List.range 64).filter (treeIn w)
  (w.getD 0 0).getLsbD 0 && decide (treeOp w ≤ 5) &&
  decide ((members.filter fun m => treeParent w m = 7).length = 1) &&
  (members.all fun m =>
    let ins := treeInputs w m
    (decide (treeParent w m = 7) || match neighbour m (treeParent w m) with
      | some p => treeIn w p && (treeInputs w p).contains (opposite (treeParent w m))
      | none => false) &&
    reachesRoot w 64 m && decide (1 ≤ ins.length ∧ ins.length ≤ 6) && decide ins.Nodup && ins.all (fun c => decide (c ≤ 5)) &&
    ins.all fun c => decide (c < 2) || match neighbour m c with
      | some p => treeIn w p
      | none => false) &&
  (List.range 64).all fun m => [0, 1].all fun p =>
    (treeMask w).getLsbD (routerCore m p) == (treeIn w m && (treeInputs w m).contains p)

def TreeNode.zero : TreeNode := ⟨0, [], none, false⟩
def State.node (s : State) (slot m : Nat) : TreeNode := s.nodes.getD (slot * 64 + m) TreeNode.zero

/-- Free the slots of a context's trees that its tree map does not name and in which no core has a contribution outstanding (R106). -/
def sweepTrees (s : State) (ctx : Nat) : State :=
  let idle (t : Nat) : Bool := s.hw.all fun (h : Nat × CoreHw) => match h.2.trees.get? t with
    | some x => x.2.2.isNone
    | none => true
  { s with trees := s.trees.filter fun t x => !(decide (x.ctx = ctx) && !(s.ctx ctx).treemap.contains (some t) && idle t) }

/-- TREE_INSTALL (R106, R108): a record that passes the checks goes to the lowest free slot, and its round numbers start at 0 (R485); the
tree map names it. -/
def installTree (s : State) (ctx : Nat) (det : Bool) (id : Nat) (w : List DWord) : State :=
  if !treeOk w then s
  else match leastBelow 64 fun t => !s.trees.has t with
    | none => s
    | some t =>
      { s with
        trees := s.trees.set t ⟨ctx, det, w, none⟩
        nodes := s.nodes.filter fun k _ => decide (k / 64 ≠ t)
        hw := List.map (fun (h : Nat × CoreHw) => (h.1, { h.2 with trees := h.2.trees.erase t })) s.hw }.modCtx ctx fun c =>
          { c with treemap := c.treemap.set id (some t) }

/-- The trees of a launch are installed afresh (R106, R473): its tree map names these and no others. -/
def installTrees (s : State) (ctx : Nat) (det : Bool) (l : List (List DWord)) : State :=
  (l.zipIdx).foldl (fun s x => installTree s ctx det x.2 x.1)
    (sweepTrees (s.modCtx ctx fun c => { c with treemap := List.replicate 32 none }) ctx)

/-! ## Acceptance (R372, R514) -/

/-- The lowest free launch slot of a context. -/
def freeLid (s : State) (ctx : Nat) : Option Nat := leastBelow 64 fun l => !s.launches.has (ctx * 64 + l)

/-- The launch that an accepted record makes. -/
def newLaunch (s : State) (ctx lid q seq : Nat) (r : List DWord) (st : LaunchSt) (v : Variant) : Launch :=
  { ctx := ctx, lid := lid, queue := q, seq := seq, lrec := r, rat := (s.ctx ctx).rat, desc := (s.ctx ctx).desc, ran := 0, chains := List.replicate 8 Chain.zero, st := st,
    next := 0, ended := 0, nfail := 0, ffirst := none, starve := 0, bound := none, gangAt := none, held := [], plist := v.plist,
    gmask := v.gmask, draining := 0, killed := false }

/-- Whether a context takes launch records (R60, R437). -/
def accepts (s : State) (ctx q : Nat) : Bool :=
  match s.ctxs.get? ctx with
  | some c => (c.word 0).getLsbD 20 && !c.killed && decide (queueBase s ctx q ≠ 0)
  | none => false

/-- LAUNCH_ACCEPTANCE (R372): one record of a queue is read, checked and accepted. -/
def execLaunchAcceptance (ctx q : Nat) (s : State) : Out :=
  if !accepts s ctx q then .next s
  else match freeLid s ctx with
    | none => .next s
    | some lid => match readQueue s ctx lid q with
      | (none, s) => .next s
      | (some h, s) =>
        let acc := (s.lq ctx q).1
        let va := h.ring + BitVec.ofNat 64 (128 * (acc % 2 ^ h.log2n))
        let word := queueBase s ctx q + 8
        if h.log2n < 4 ∨ 12 < h.log2n ∨ h.tail ≤ acc then .next s
        else match (svcNeed s ctx lid false [(va, 128)]).or (svcNeed s ctx lid true [(word, 8)]) with
          | some s => .next s
          | none =>
            let r := svcWords s ctx lid va 16
            let seq := acc + 1
            let accept (st : LaunchSt) (v : Variant) : Out :=
              let s := svcPut s ctx lid word (bytesOf 8 seq)
              let s := { s with
                lqs := s.lqs.set (ctx * 8 + q) (seq, (s.lq ctx q).2)
                launches := s.launches.set (ctx * 64 + lid) (newLaunch s ctx lid q seq r st v) }
              .next (match v.trees with
                | some l => installTrees s ctx (recDet r) l
                | none => s)
            match recordFault s ctx q seq r with
            | some code => accept (.refused code) ⟨none, [], none⟩
            | none => match selectVariant s ctx lid r with
              | .need s => .next s
              | .refused code => accept (.refused code) ⟨none, [], none⟩
              | .chosen v => accept .dealing v

/-- Whether every dependence of a launch is met (R375). -/
def depsMet (s : State) (l : Launch) : Bool :=
  (List.range 4).all fun k =>
    let d := recWord l.lrec (8 + k)
    !d.getLsbD 63 || decide (fieldOf d 0 48 ≤ (s.lq l.ctx (fieldOf d 48 3)).2)

/-! ## The end of a launch (R168, R376) -/

def State.modLaunch (s : State) (key : Nat) (f : Launch → Launch) : State := { s with launches := s.launches.modify key f }

/-- Whether some class entry still names a launch, or is on its way out. -/
def classesLeft (s : State) (ctx lid : Nat) : Bool :=
  (s.classes.any fun e => decide (e.2.ctx = ctx ∧ e.2.lid = lid)) || s.txns.any fun t => decide (t.kind = .drop)

/-- The grains on which the cores that ran a launch hold partials (R168). -/
def grainsLeft (s : State) (l : Launch) : List Nat :=
  (s.cores.flatMap fun (c : Nat × CoreMem) => if l.ran.getLsbD c.1 then c.2.ugrains.keys else []).eraseDups

/-- Whether the kernel boundary of a launch has a step to make. -/
def boundaryMoves (s : State) (l : Launch) : Bool :=
  match l.draining with
  | 0 => true
  | 1 => !s.txns.any fun t => decide (t.kind = .collect)
  | _ => !classesLeft s l.ctx l.lid

/-- KERNEL_BOUNDARY (R168): once the last skein has ended, partials are collected, then class entries removed; once they are gone the
launch is finished, and the instruction caches hold no code of it (R21). -/
def execKernelBoundary (ctx lid : Nat) (s : State) : Out :=
  let key := ctx * 64 + lid
  match s.launches.get? key with
  | none => .next s
  | some l =>
    if l.st = .dealt ∧ l.ended = recNskein l.lrec then
      let go (s : State) (n : Nat) : Out := .next (s.modLaunch key fun l => { l with draining := n }).pumpAll
      if l.draining = 0 then go (askCollect s (grainsLeft s l)) 1
      else if l.draining = 1 then (if s.txns.any fun t => decide (t.kind = .collect) then .next s else go (dropClasses s ctx lid) 2)
      else if classesLeft s ctx lid then .next s
      else
        let cores := List.map (fun (c : Nat × CoreMem) => (c.1, { c.2 with code := c.2.code.filter fun _ x => x.launch ≠ key })) s.cores
        .next ({ s with cores := cores }.modLaunch key fun l => { l with st := .finished })
    else .next s

/-- The 32 bytes of a completion record (R376). -/
def completionRecord (l : Launch) : List Byte :=
  let (status, code) := match l.st with
    | .refused c => (2, c)
    | _ => (if l.nfail ≠ 0 ∨ l.killed = true then 1 else 0, 0)
  let w1 := fieldAt 56 status ||| fieldAt 48 code ||| fieldAt 32 (min l.starve 65535) ||| fieldAt 0 (l.nfail % 2 ^ 32)
  let w3 := fieldAt 32 (match l.ffirst with
    | some n => n % 2 ^ 32
    | none => 0xFFFFFFFF)
  n64 l.seq ++ w64 w1 ++ w64 (recWord l.lrec 12) ++ w64 w3

/-- The launch of a queue whose record comes next, if it is finished. -/
def nextToComplete (s : State) (ctx q : Nat) : Option (Nat × Launch) :=
  let seq := (s.lq ctx q).2 + 1
  List.find? (fun (x : Nat × Launch) => decide (x.2.ctx = ctx ∧ x.2.queue = q ∧ x.2.seq = seq) && match x.2.st with
    | .refused _ | .finished => true
    | _ => false) s.launches

/-- COMPLETION_RECORD_WRITE (R376, R514): the record is written, COMPLETE advances, the slot frees. -/
def execCompletionRecordWrite (ctx q : Nat) (s : State) : Out :=
  match nextToComplete s ctx q with
  | none => .next s
  | some (key, l) =>
    match readQueue s ctx l.lid q with
    | (none, s) => .next s
    | (some h, s) =>
      let rec' := h.cring + BitVec.ofNat 64 (32 * ((l.seq - 1) % 2 ^ h.log2n))
      let word := queueBase s ctx q + 16
      match svcNeed s ctx l.lid true [(rec', 32), (word, 8)] with
      | some s => .next s
      | none =>
        let s := svcPut (svcPut s ctx l.lid rec' (completionRecord l)) ctx l.lid word (bytesOf 8 l.seq)
        .next { s with
          lqs := s.lqs.set (ctx * 8 + q) ((s.lq ctx q).1, l.seq)
          launches := s.launches.erase key }

end Sys2Proof.Machine
end

