-- ==== Sys2Proof/Machine/Deal.lean ====
section
/-! DEFINITION. Dealing, starting and restoring skeins (R377 to R379, R389, R450, R515), gangs (R382, R383), work donation
(R380). -/

namespace Sys2Proof.Machine

/-! ## Which skein fits on which core (R379) -/

/-- The launch record of a TCB. -/
def tcbRec (s : State) (t : Tcb) : List DWord :=
  match s.launches.get? (t.ctx * 64 + t.lid) with
  | some l => l.lrec
  | none => []

/-- The skeins of a core. -/
def skeinsOn (s : State) (core : Nat) : List (Nat × Skein) := List.filter (fun (k : Nat × Skein) => decide (k.1 / 16 = core)) s.skeins

/-- The lowest free skein slot (DESIGN CHOICE, log 23: R379 names none). -/
def freeSlot (on : List (Nat × Skein)) (core : Nat) : Option Nat := leastBelow 16 fun i => !on.any fun k => k.1 = core * 16 + i

/-- The lowest address of a free window of `n` bytes on a 2,048-byte boundary (R215; log 23). -/
def freeWindow (on : List (Nat × Skein)) (n : Nat) : Option Nat :=
  if n = 0 then some 0
  else (leastBelow 1024 fun i => decide (2048 * i + n ≤ 2097152) && on.all fun k =>
    decide (k.2.wbase + k.2.wsize ≤ 2048 * i ∨ 2048 * i + n ≤ k.2.wbase)).map (2048 * ·)

/-- Plies, threads and base bytes in use on a partition by the plies of some skeins (R349, R251). -/
def partUse (s : State) (on : List (Nat × Skein)) (part : Nat) : Nat × Nat × Nat :=
  List.foldl (fun (a : Nat × Nat × Nat) (p : Nat × Ply) =>
    if p.2.plyid % 4 = part ∧ (on.any fun k => k.1 = p.2.skeinKey) = true then (a.1 + 1, a.2.1 + p.2.width, a.2.2 + p.2.base * p.2.width * 4)
    else a) (0, 0, 0) s.plies

/-- Whether the plies of a record fit beside those of some skeins. -/
def pliesFit (s : State) (on : List (Nat × Skein)) (r : List DWord) : Bool :=
  (List.range 4).all fun i =>
    let u := partUse s on i
    let n := ((List.range (recNply r)).filter fun p => p % 4 = i).length
    decide (u.1 + n ≤ 128) && decide (u.2.1 + n * recWidth r ≤ 1024) && decide (u.2.2 + baseBytes r i ≤ 196608)

/-- The save areas of a context: first address, number and size (R515); no area when it has none. -/
def saveAreas (c : Ctx) : List Nat :=
  let n := fieldOf (c.word 19) 32 32
  let size := fieldOf (c.word 19) 12 20 * 4096
  if n = 0 ∨ size < 0xA000 then [] else (List.range n).map fun i => fieldOf (c.word 18) 12 52 * 4096 + i * size

def hasSave (c : Ctx) : Bool := decide (fieldOf (c.word 19) 32 32 ≠ 0 ∧ 0xA000 ≤ fieldOf (c.word 19) 12 20 * 4096)

/-- The lowest free save area: the search stops after one more than are in use. -/
def freeArea (c : Ctx) (used : List Nat) : Option Nat :=
  let size := fieldOf (c.word 19) 12 20 * 4096
  (leastBelow (min (fieldOf (c.word 19) 32 32) (used.length + 1)) fun i => !used.contains (fieldOf (c.word 18) 12 52 * 4096 + i * size)).map
    fun i => fieldOf (c.word 18) 12 52 * 4096 + i * size

/-- Deterministic skeins and others do not share a core (R389). -/
def detFits (on : List (Nat × Skein)) (t : Tcb) : Bool :=
  on.all fun k => decide (k.2.ctx = t.ctx) || (!t.det && !recDet k.2.lrec)

/-- Whether a skein fits on a core beside some skeins of it (R379): slot, plies, window, save area, determinism. -/
def fitsWith (s : State) (core : Nat) (on : List (Nat × Skein)) (t : Tcb) (saves : List Nat) : Bool :=
  let r := tcbRec s t
  (freeSlot on core).isSome && pliesFit s on r && (freeWindow on (recTilemem r)).isSome && detFits on t &&
    (t.saved.isSome || !hasSave (s.ctx t.ctx) || (freeArea (s.ctx t.ctx) saves).isSome)

/-- Whether a core is reserved for a gang of another launch (R383). -/
def reservedFor (s : State) (core : Nat) (ctx lid : Nat) : Bool :=
  s.launches.any fun l => l.2.held.contains core && decide (l.2.ctx ≠ ctx ∨ l.2.lid ≠ lid)

/-- Whether a core is reserved at all. -/
def reserved (s : State) (core : Nat) : Bool := s.launches.any fun l => l.2.held.contains core

/-- Whether a mesh cycle that begins in this arithmetic cycle is left for a start on a core: it starts at most one skein in each (R379). -/
def startOpen (s : State) (core : Nat) : Bool := decide ((s.hwOf core).startAt < s.meshBy 1)

/-- Whether a core can start a TCB now (R379). -/
def fits (s : State) (core : Nat) (t : Tcb) : Bool := startOpen s core && fitsWith s core (skeinsOn s core) t (s.ctx t.ctx).saves

/-! ## Starting a skein (R48, R379) -/

/-- A ply as it starts (R48). -/
def freshPly (s : State) (core slot plyid : Nat) (t : Tcb) (r : List DWord) : Ply :=
  let w := recWidth r
  let role := recRole r plyid
  let at' := s.cycle
  let cleared := let t := (s.hwOf core).clearTo
    if recTilemem r = 0 ∨ t = 0 then 0 else t + 1
  { core := core, slot := slot, plyid := plyid, ctx := t.ctx, lid := t.lid, skix := t.skein, width := w, role := role, base := recBase r role,
    extDecl := recExt r, ext := false, pc := recWord r 0 &&& ~~~1, em := maskLow w, tlive := maskLow w, v := [],
    s := [(0, recWord r 1), (1, BitVec.ofNat 64 t.skein), (2, BitVec.ofNat 64 t.nskein), (3, s.launchWord t.ctx t.lid 2)],
    o := List.replicate 8 OEntry.vacant, banks := [], lx := Latch.off, ly := Latch.off, lyNew := none, p := List.replicate 8 0, q := 0,
    pend := [], out := [], stack := [], floor := 0, tl := 0, tr1 := TrapRegs.zero, tr2 := TrapRegs.zero, stat := 0, frm := 0, uipc := 0,
    uiem := 0, uist := 0, mon := ⟨.none, 0⟩, owe := 0, bres := List.replicate 16 0, defer := [], park := .none, held := none, stage := 0,
    work := none, strict := 0, overlapped := [], tiles := [], preempt := none, wdog := false, orphan := false, memlost := none, mixsize := none, verdict := .retry,
    waited := none, batch := none, nextAt := max at' cleared, wakeAt := at', residentAt := at', aged := false, yielded := false, drainAt := at',
    tileAt := at', spinAt := at', retired := 0, quant := 0, stopped := false, frozen := false }

/-- A skein as it starts. -/
def freshSkein (t : Tcb) (r : List DWord) (save : Nat) (wbase : Nat) : Skein :=
  { ctx := t.ctx, lid := t.lid, index := t.skein, nskein := t.nskein, lrec := r, save := BitVec.ofNat 64 save, retired := 0, left := 0,
    bars := List.replicate 16 Barrier.zero, queues := List.replicate 8 [], poppers := [], resolved := 0, eng := Engine.zero, wbase := wbase,
    wsize := recTilemem r, gens := List.replicate 32 0, gregs := List.replicate 8 Words4.zero, gnew := [], spOpened := 0, spTimeline := 0, spAhead := [],
    failed := false, gang := t.gang, late := [] }

/-- The blocks of a core's L1 and its grains in state U of tenants other than `ten` that no context on the core has (R128). -/
def absentLines (s : State) (core ten : Nat) : List Nat :=
  ((s.core core).l1.filter fun _ l => !(decide (l.ten = ten) || hasTenant s core l.ten)).keys

def absentGrains (s : State) (core ten : Nat) : List Nat :=
  ((s.core core).ugrains.filter fun g _ => let t := (s.dirOf g).ten; !(decide (t = ten) || hasTenant s core t)).keys

/-- The lines of tenants that have left a core are written back and dropped, and their partials collected (R128); `ten` is the tenant of
the context that comes. -/
def clearAbsent (s : State) (core ten : Nat) : State :=
  askCollect ((absentLines s core ten).foldl (fun s b => evictL1 s core b) s) (absentGrains s core ten)

/-- The first cycle in which the plies of a new skein may issue: its window is cleared by port A, 2,048 bytes in each odd cycle (R215). -/
def clearEnd (s : State) (core wsize : Nat) : Nat :=
  let h := s.hwOf core
  let from' := max s.cycle (max h.clearTo h.portA)
  if wsize = 0 then h.clearTo else from' + 1 + from' % 2 + 2 * ((wsize - 1) / 2048)

/-- Take the mesh cycle of the start (R379), zero a window (R215), load the energy registers of a context new on the core (R332), and note that the launch ran there. -/
def prepareCore (s : State) (core wbase wsize ctx lid : Nat) : State :=
  let s := s.modHw core fun h => { h with
    tile := h.tile.splice wbase (List.replicate wsize 0)
    clearTo := clearEnd s core wsize
    startAt := max h.startAt (s.meshBy 0) + 1 }
  (setEnergy s core ctx (energyOf s core ctx)).modLaunch (ctx * 64 + lid) fun l => { l with ran := l.ran ||| (1#128 <<< core) }

/-- Start a skein that has not run. -/
def startNew (s : State) (core slot wbase : Nat) (t : Tcb) (r : List DWord) : State :=
  let area := if hasSave (s.ctx t.ctx) then (freeArea (s.ctx t.ctx) (s.ctx t.ctx).saves).getD 0 else 0
  let s := prepareCore s core wbase (recTilemem r) t.ctx t.lid
  let s := if area = 0 then s else s.modCtx t.ctx fun c => { c with saves := c.saves ++ [area] }
  let s := { s with skeins := s.skeins.set (core * 16 + slot) (freshSkein t r area wbase) }
  (List.range (recNply r)).foldl (fun s p => s.setPly (core * 512 + slot * 32 + p) (freshPly s core slot p t r)) s

/-! ## Restoring a skein (R450) -/

def kindOfCode (n : Nat) : DivKind := if n = 0 then .ifK else if n = 1 then .elect else .loop

/-- A ply from its block: at TL1, before the PREEMPT vector, bank `b`. -/
def plyOfBlock (s : State) (core slot plyid : Nat) (t : Tcb) (r : List DWord) (save : DWord) (xval : DWord) (retired : Nat) (k : Skein) :
    Ply :=
  let words := svcWords s t.ctx t.lid (save + BitVec.ofNat 64 (0x2000 + 1024 * plyid)) 128
  let w (off : Nat) : DWord := words.getD (off / 8) 0
  let p := freshPly s core slot plyid t r
  let flags := w 0x70
  let tr : TrapRegs := ⟨w 0 &&& ~~~1, 0x10, (xval &&& ~~~0x100) ||| 0x100, w 8, w 0x18 &&& 0x19F, 0, [], []⟩
  let entry (i : Nat) : DivEntry :=
    let x := w (0x100 + 24 * i + 16)
    ⟨kindOfCode (fieldOf x 62 2), w (0x100 + 24 * i), w (0x100 + 24 * i + 8), x.getLsbD 61, x &&& 0x1FFFFFFFFFFFFFE⟩
  let depth := fieldOf flags 8 5
  { p with
    s := []
    tlive := w 0x10 &&& maskLow p.width
    em := w 0x10 &&& maskLow p.width
    tl := 1
    tr1 := tr
    stat := w 0x20 &&& 0x31F
    frm := frmWrite 0 (w 0x28)
    p := (List.range 8).map fun i => w (0x30 + 8 * i)
    q := BitVec.ofNat 8 (fieldOf flags 0 8)
    stack := ((List.range depth).map entry).reverse
    floor := depth
    mon := if fieldOf flags 17 2 = 2 then ⟨.woken, 0⟩ else ⟨.none, 0⟩
    uipc := w 0x78 &&& ~~~1
    uiem := w 0x80
    uist := w 0x88 &&& 0x3F
    defer := (List.range 4).filterMap fun i =>
      let x := w (0x90 + 8 * i)
      if x = 0 then none else some (fieldOf x 0 60, fieldOf x 60 4, (k.bar (fieldOf x 60 4)).phase)
    owe := (w 0xB0).setWidth 16
    bres := (List.range 16).map fun i => lo32 (w (0xC0 + 8 * (i / 2)) >>> (32 * (i % 2)))
    pc := s.xvec p + 1024
    retired := retired }

/-- The bank a restored ply holds: the lowest that level 1 may take (R249), and the queue of those that wait for one. -/
def giveBank (s : State) (key : Nat) (p : Ply) : State :=
  match bankFor s (s.part p.partKey) key 1 with
  | some b =>
    (s.setPly key { p with banks := [⟨b, List.replicate 8 OEntry.invalid⟩] }).modPart p.partKey fun pt =>
      { pt with banks := pt.banks.set b (some key) }
  | none => s.setPly key p

/-- The banks that level 1 may take and nobody holds, on a partition. -/
def freeBanks (s : State) (pk : Nat) : Nat :=
  ((List.range 3).filter fun b => decide ((s.part pk).banks.getD b (some 0) = none)).length

/-- Whether every ply of a saved skein finds a bank on a core (R249, R450). -/
def banksFit (s : State) (core : Nat) (nply : Nat) (retired : BitVec 32) : Bool :=
  (List.range 4).all fun i =>
    decide (((List.range nply).filter fun p => decide (p % 4 = i) && !retired.getLsbD p).length ≤ freeBanks s (core * 4 + i))

/-- The engine context that the save area holds (R208, R449): the counters, the marks, the statuses and the resume records. -/
def engineOfImage (w : Nat → DWord) (e : Engine) : Engine := { e with
  issued := (w 0xD00).toNat
  timeline := (w 0xD08).toNat
  halted := false
  marks := e.marks.zipIdx.map fun x =>
    let y := w (0xD18 + 8 * x.2)
    if x.2 < 5 then { x.1 with page := y &&& ~~~0xFFF, reason := fieldOf y 0 4 } else x.1
  stats := e.stats.map fun x =>
    let y := w (0xE00 + 8 * (x.n + 63 - e.issued))
    if x.n ≤ e.issued ∧ e.issued < x.n + 64 then { x with part := y.getLsbD 62, reason := fieldOf y 57 4, bytes := fieldOf y 0 31 } else x
  copies := e.copies.zipIdx.map fun x => copyOfImage (fun i => w (0x1000 + 128 * x.2 + 8 * i)) x.1 }

/-- SKEIN_RESTORE (R450): the skein part and the ply blocks come back from the save area, which is at hand. -/
def startSaved (s : State) (core slot wbase : Nat) (t : Tcb) (r : List DWord) (save : DWord) (a : Away) : State :=
  match a.skein with
  | none => s
  | some k =>
    let s := prepareCore s core wbase (recTilemem r) t.ctx t.lid
    let (_, fill, cap) := energyOf s core t.ctx
    let s := setEnergy s core t.ctx (cap, fill, cap)
    let words := svcWords s t.ctx t.lid save 1024
    let w (off : Nat) : DWord := words.getD (off / 8) 0
    let tokens (q : Nat) : List DWord :=
      let n := min 32 (w (0x100 + 264 * q)).toNat
      (List.range n).map fun i => w (0x100 + 264 * q + 8 + 8 * i)
    let tiles := (List.range 32).filterMap fun i => tileOfImage slot (w (0xA00 + 16 * i)) (w (0xA00 + 16 * i + 8))
    let k := { k with
      wbase := wbase
      left := 0
      poppers := []
      bars := (List.range 16).map fun b => barOfImage (w (16 * b)) (w (16 * b + 8))
      queues := (List.range 8).map tokens
      gnew := []
      gregs := (List.range 8).map fun g => ⟨w (0xC00 + 32 * g), w (0xC08 + 32 * g), w (0xC10 + 32 * g), w (0xC18 + 32 * g)⟩
      spTimeline := (w 0xD10).toNat
      eng := engineOfImage w k.eng }
    let s := s.modHw core fun h => { h with tiles := h.tiles ++ tiles }
    let s := { s with skeins := s.skeins.set (core * 16 + slot) k, aside := s.aside.erase (asideKey t.ctx t.lid t.skein) }
    ((List.range (recNply r)).filter fun p => !k.retired.getLsbD p).foldl (fun s p =>
      let (xval, ret) := a.plies.getD p (1, 0)
      giveBank s (core * 512 + slot * 32 + p) (plyOfBlock s core slot p t r save xval ret k)) s

/-- Start the skein of a TCB on a core where it fits, or ask for what it still waits for, the collection of partials of a tenant that has
left or the save area (R128, R379, R450); the Bool says that it has started. -/
def startTcb (s : State) (core : Nat) (t : Tcb) : State × Bool :=
  let r := tcbRec s t
  let on := skeinsOn s core
  match freeSlot on core, freeWindow on (recTilemem r) with
  | some slot, some wbase =>
    let ten := (s.ctx t.ctx).tenant
    if absentGrains s core ten ≠ [] then (clearAbsent s core ten, false)
    else
    let s := clearAbsent s core ten
    match t.saved with
    | none => (startNew s core slot wbase t r, true)
    | some a =>
      let save := BitVec.ofNat 64 a
      match svcNeed s t.ctx t.lid false [(save, 0x2000 + 1024 * recNply r)] with
      | some s => (s, false)
      | none => (startSaved s core slot wbase t r save (s.awayOf (asideKey t.ctx t.lid t.skein)), true)
  | _, _ => (s, false)

/-- The class a TCB counts as: SAVED skeins of a context that a message has boosted are class 3 until each has started
(R421). -/
def effClass (s : State) (t : Tcb) : Nat := if (s.ctx t.ctx).boost && t.saved.isSome then 3 else t.pcls

/-- The heads of a core's class queues from class 3 down: queue and TCB (R379). -/
def heads (s : State) (core : Nat) : List (Nat × Tcb) :=
  let qs := (s.hwOf core).queues
  let own := (List.range 4).filterMap fun q => (qs.getD q []).head?.map fun t => (q, t)
  let boosted := (List.range 4).filterMap fun q =>
    ((qs.getD q []).find? fun t => decide (effClass s t = 3) && t.saved.isSome).map fun t => (q, t)
  boosted ++ own.reverse

/-- Whether a head may start on its core now. -/
def mayStart (s : State) (core : Nat) (t : Tcb) : Bool :=
  fits s core t && !reserved s core && (t.saved.isNone || banksFit s core (recNply (tcbRec s t)) (match
    (s.awayOf (asideKey t.ctx t.lid t.skein)).skein with
    | some k => k.retired
    | none => 0) && decide ((s.hwOf core).tiles.length + (s.awayOf (asideKey t.ctx t.lid t.skein)).tiles ≤ 64))

/-- When no SAVED skein of a boosted context is left, the boost ends (R421). -/
def settleBoost (s : State) (ctx : Nat) : State :=
  if (s.ctx ctx).boost && !(s.hw.any fun h => h.2.queues.any fun q => q.any fun t => decide (t.ctx = ctx) && t.saved.isSome) then
    s.modCtx ctx fun c => { c with boost := false }
  else s

/-- The head that a core starts next: its queue and TCB. -/
def nextStart (s : State) (core : Nat) : Option (Nat × Tcb) :=
  if !s.alive core then none else (heads s core).find? fun x => mayStart s core x.2

/-- SKEIN_START (R379). -/
def execSkeinStart (core : Nat) (s : State) : Out :=
  match nextStart s core with
  | none => .next s
  | some (q, t) =>
    match startTcb s core t with
    | (s, false) => .next s.pumpAll
    | (s, true) => .next (settleBoost (s.modHw core fun h => { h with queues := h.queues.modify q fun l => l.erase t }) t.ctx)

/-! ## Dealing (R378, R389) -/

/-- The core at a place of the deal cursor's sequence. -/
def dealCore (i : Nat) : Nat := i % 4 * 32 + i / 4

/-- The first place from the cursor on whose core is alive. -/
def nextPlace (s : State) : Option Nat :=
  ((List.range 128).map fun i => (s.cursor + i) % 128).find? fun i => s.alive (dealCore i)

/-- The TCB of skein `i` of a launch (R377). -/
def tcbOf (s : State) (l : Launch) (i : Nat) : Tcb :=
  ⟨l.ctx, l.lid, s.launchClass l.ctx l.lid, recDet l.lrec, decide (recGang l.lrec ≠ 0) && !recDet l.lrec, recNskein l.lrec, i, none⟩

def queueLen (s : State) (core cls : Nat) : Nat := ((s.hwOf core).queues.getD cls []).length

/-- Append a TCB to a class queue; a back-off of work donation ends (R380). -/
def enqueue (s : State) (core : Nat) (t : Tcb) : State :=
  s.modHw core fun h => { h with
    queues := h.queues.modify t.pcls fun q => q ++ [t]
    steal := { h.steal with asked := 0, backoff := none } }

/-- Note that skein `i` of a launch has been dealt. -/
def dealtOne (s : State) (key : Nat) : State :=
  s.modLaunch key fun l =>
    let n := l.next + 1
    { l with next := n, bound := none, st := if n = recNskein l.lrec then .dealt else l.st }

/-- Whether a launch has a skein to deal one by one. -/
def deals (s : State) (l : Launch) : Bool :=
  decide (l.st = .dealing) && depsMet s l && (recDet l.lrec || decide (recGang l.lrec = 0)) && decide (l.next < recNskein l.lrec)

/-- Whether a deal would change something: a bound skein needs room, another one a core. -/
def dealReady (s : State) (l : Launch) : Bool :=
  deals s l && match l.bound with
    | some (core, t) => decide (queueLen s core t.pcls < 64)
    | none => if recDet l.lrec then !l.plist.isEmpty else (nextPlace s).isSome

/-- SKEIN_DEAL (R378, R389): the next skein of a launch goes to its core's class queue, or stays bound to a core without
room. A deterministic skein whose core has been fenced is counted as failed (R464; log 26). -/
def execSkeinDeal (ctx lid : Nat) (s : State) : Out :=
  let key := ctx * 64 + lid
  match s.launches.get? key with
  | none => .next s
  | some l =>
    if !deals s l then .next s
    else
      let put (s : State) (core : Nat) (t : Tcb) : State :=
        if queueLen s core t.pcls < 64 then dealtOne (enqueue s core t) key
        else s.modLaunch key fun l => { l with bound := some (core, t) }
      match l.bound with
      | some (core, t) => .next (put s core t)
      | none =>
        let t := tcbOf s l l.next
        if recDet l.lrec then
          match l.plist[l.next % l.plist.length]? with
          | some core => .next (if s.alive core then put s core t
            else dealtOne (s.modLaunch key fun l => l.count t.skein true) key)
          | none => .next s
        else match nextPlace s with
          | none => .next s
          | some i => .next (put { s with cursor := (i + 1) % 128 } (dealCore i) t)

/-! ## Gangs (R382, R383, R484) -/

/-- Whether a launch has a gang to place. -/
def gangs (s : State) (l : Launch) : Bool :=
  decide (l.st = .dealing) && depsMet s l && !recDet l.lrec && decide (recGang l.lrec ≠ 0) && decide (l.next < recNskein l.lrec)

/-- Cores that the variant leaves to gang members (R473). -/
def gangCore (s : State) (l : Launch) (c : Nat) : Bool :=
  s.alive c && match l.gmask with
    | some m => m.getLsbD c
    | none => true

/-- The cores on which the gang can start at once: the lowest die with enough of them, the lowest of them (R382). -/
def gangPlace (s : State) (l : Launch) : Option (List Nat) :=
  let g := recGang l.lrec
  let t := tcbOf s l l.next
  let ok (c : Nat) : Bool := gangCore s l c && !reservedFor s c l.ctx l.lid && (l.held.isEmpty || l.held.contains c) && fits s c t
  let areas := !hasSave (s.ctx l.ctx) || decide ((s.ctx l.ctx).saves.length + g ≤ fieldOf ((s.ctx l.ctx).word 19) 32 32)
  if !areas then none
  else (((List.range 4).map fun d => ((List.range 32).map (32 * d + ·)).filter ok).find? fun cs => decide (g ≤ cs.length)).map (List.take g)

/-- GANG_PLACEMENT (R382): every member starts, member j on the j-th lowest core; a gang that cannot be placed waits from now
on. -/
def execGangPlacement (ctx lid : Nat) (s : State) : Out :=
  let key := ctx * 64 + lid
  match s.launches.get? key with
  | none => .next s
  | some l =>
    if !gangs s l then .next s
    else match gangPlace s l with
      | none => .next (s.modLaunch key fun l => { l with gangAt := match l.gangAt with
          | some t => some t
          | none => some s.tick })
      | some cores =>
        let ten := (s.ctx ctx).tenant
        let unclear := cores.filter fun c => decide (absentGrains s c ten ≠ [])
        if unclear ≠ [] then .next (unclear.foldl (fun s c => clearAbsent s c ten) s).pumpAll
        else
        let s := (cores.zipIdx).foldl (fun s x => (startTcb s x.1 (tcbOf s l (l.next + x.2))).1) s
        .next (s.modLaunch key fun l =>
          let n := l.next + cores.length
          { l with next := n, gangAt := none, held := [], st := if n = recNskein l.lrec then .dealt else l.st })

/-- The ways to keep `n` elements of a list, in its order. -/
def choose {α : Type} : Nat → List α → List (List α)
  | 0, _ => [[]]
  | _ + 1, [] => []
  | n + 1, x :: t => (choose n t).map (x :: ·) ++ choose (n + 1) t

/-- The fewest resident skeins that would have to end or leave before a member could start on a core (R383). -/
def mustLeave (s : State) (core : Nat) (t : Tcb) : Option Nat :=
  let on := skeinsOn s core
  (List.range (on.length + 1)).find? fun n => (choose (on.length - n) on).any fun stay =>
    let gone := on.filter fun k => !stay.any fun x => x.1 = k.1
    fitsWith s core stay t ((s.ctx t.ctx).saves.filter fun a => !gone.any fun k => decide (k.2.ctx = t.ctx) && decide (k.2.save.toNat = a))

/-- Insert by count, then by core. -/
def insertCore (x : Nat × Nat) : List (Nat × Nat) → List (Nat × Nat)
  | [] => [x]
  | y :: t => if x.1 < y.1 then x :: y :: t else y :: insertCore x t

/-- The reservation of a gang: the die and cores with the fewest skeins in the way. -/
def gangCores (s : State) (l : Launch) : Option (List Nat) :=
  let g := recGang l.lrec
  let t := tcbOf s l l.next
  let die (d : Nat) : Option (Nat × List Nat) :=
    let cs := ((List.range 32).map (32 * d + ·)).filter fun c => gangCore s l c && !reservedFor s c l.ctx l.lid
    let ranked := (cs.filterMap fun c => (mustLeave s c t).map fun n => (n, c)).foldl (fun a x => insertCore x a) []
    if ranked.length < g then none
    else some (((ranked.take g).map (·.1)).sum, (ranked.take g).map (·.2))
  (((List.range 4).filterMap die).foldl (fun (a : Option (Nat × List Nat)) x => match a with
    | none => some x
    | some y => if x.1 < y.1 then some x else some y) none).map (·.2)

/-- Whether a resident skein may be pre-empted for a gang (R381, R383). -/
def mayPreempt (s : State) (l : Launch) (k : Skein) : Bool :=
  decide (s.launchClass k.ctx k.lid < s.launchClass l.ctx l.lid) && !(s.launchWord k.ctx k.lid 0).getLsbD 51 && decide (k.save ≠ 0)

/-- Whether a gang's reservation is due: it has waited 1 ms and holds none. -/
def reservationDue (s : State) (l : Launch) : Bool :=
  gangs s l && l.held.isEmpty && match l.gangAt with
    | some t => decide (t + 100000 ≤ s.tick)
    | none => false

/-- GANG_RESERVATION (R383). -/
def execGangReservation (ctx lid : Nat) (s : State) : Out :=
  let key := ctx * 64 + lid
  match s.launches.get? key with
  | none => .next s
  | some l =>
    if !reservationDue s l then .next s
    else match gangCores s l with
      | none => .next s
      | some cores =>
        let s := s.modLaunch key fun l => { l with held := cores, gangAt := some s.tick }
        let out := List.filter (fun (k : Nat × Skein) => cores.contains (k.1 / 16) && mayPreempt s l k.2) s.skeins
        .next (out.foldl (fun s k => s.send (.preemptRequest k.1 true)) s)

/-- Whether a further 1 ms of a reservation has passed. -/
def starveDue (s : State) (l : Launch) : Bool :=
  gangs s l && !l.held.isEmpty && match l.gangAt with
    | some t => decide (t + 100000 ≤ s.tick)
    | none => false

/-- STARVE_COUNT (R383). -/
def execStarveCount (ctx lid : Nat) (s : State) : Out :=
  let key := ctx * 64 + lid
  match s.launches.get? key with
  | none => .next s
  | some l =>
    if !starveDue s l then .next s
    else
      let stuck := s.skeins.any fun k => l.held.contains (k.1 / 16) && !mayPreempt s l k.2
      .next (s.modLaunch key fun l => { l with
        starve := if stuck then min 65535 (l.starve + 1) else l.starve
        gangAt := l.gangAt.map (· + 100000) })

/-! ## Work donation (R380) -/

/-- The victims of a core, in the order of R380. -/
def victims (s : State) (core : Nat) : List Nat :=
  let d := core / 32
  let c := core % 32
  (((List.range 31).map fun i => 32 * d + (c + 1 + i) % 32) ++
    (List.range 3).flatMap fun j => (List.range 32).map fun i => 32 * ((d + 1 + j) % 4) + (c + i) % 32).filter s.alive

/-- Whether a TCB may be donated. -/
def donatable (t : Tcb) : Bool := !t.gang && !t.det && t.saved.isNone

/-- The TCBs a victim gives: from the tail of its highest class that holds any. -/
def donation (s : State) (core : Nat) : List Tcb :=
  let qs := (s.hwOf core).queues
  match [3, 2, 1, 0].find? fun c => (qs.getD c []).any donatable with
  | none => []
  | some c =>
    let l := (qs.getD c []).filter donatable
    l.drop (l.length - min 8 (l.length / 2))

/-- STEAL at a victim. -/
def execSteal (f : StealFlit) (s : State) : Out :=
  match f.hdr.dst with
  | .core c =>
    let l := donation s c
    let s := s.modHw c fun h => { h with queues := h.queues.map fun (q : List Tcb) => q.filter fun t => !l.contains t }
    .next (s.send (.tcb ⟨⟨f.hdr.tag, f.hdr.ten, f.hdr.cls, .core c, f.hdr.src⟩, l⟩))
  | _ => .next s

/-- Insert a TCB by skein index. -/
def insertTcb (t : Tcb) : List Tcb → List Tcb
  | [] => [t]
  | x :: l => if t.skein ≤ x.skein then t :: x :: l else x :: insertTcb t l

/-- TCB at the thief: the donated TCBs join the queue of their class in ascending skein index; after a full round without success the core backs
off. -/
def execTcb (f : TcbFlit) (s : State) : Out :=
  match f.hdr.dst with
  | .core c =>
    let s := s.modHw c fun h => { h with steal := { h.steal with out := false } }
    if f.tcbs.isEmpty then
      let n := (s.hwOf c).steal.asked + 1
      .next (s.modHw c fun h => { h with steal := { h.steal with
        asked := n
        backoff := if (victims s c).length ≤ n then some (s.mesh + 4096) else none } })
    else .next ((f.tcbs.foldr insertTcb []).foldl (fun s t => enqueue s c t) s)
  | _ => .next s

/-- STEAL_BACKOFF_EXPIRY. -/
def execStealBackoffExpiry (core : Nat) (s : State) : Out :=
  .next (s.modHw core fun h => match h.steal.backoff with
    | some t => if t ≤ s.mesh then { h with steal := { h.steal with asked := 0, backoff := none } } else h
    | none => h)

/-- A core that may ask a victim now: it is idle and has no request out (R380). A round in which nothing could be given changes
nothing but traffic, so a core asks only while some core has a TCB to give (log 24). -/
def stealReady (s : State) (core : Nat) : Bool :=
  let h := s.hwOf core
  s.alive core && h.queues.all (·.isEmpty) && decide ((skeinsOn s core).length < 16) && !h.steal.out && h.steal.backoff.isNone

/-- Send STEAL to the next victim of a round. It belongs to no tenant: its tenant and its wheel class are 0 (DESIGN CHOICE, log 24). -/
def askVictim (s : State) (core : Nat) : State :=
  match (victims s core)[(s.hwOf core).steal.asked]? with
  | none => s.modHw core fun h => { h with steal := { h.steal with backoff := some (s.mesh + 4096) } }
  | some v => (s.modHw core fun h => { h with steal := { h.steal with out := true } }).send (.steal ⟨⟨0, 0, 0, .core core, .core v⟩⟩)

end Sys2Proof.Machine
end

