-- ==== Sys2Proof/Machine/Partition.lean ====
section
/-! DEFINITION. What happens to parked plies: landing (R246), VACQ grants (R253), aging (R385), retirement (R363), barriers and
tickets (R397 to R404), timeouts (R186, R187), orphan waits and the watchdog (R407 to R410). -/

namespace Sys2Proof.Machine

/-! ## When a wait is over -/

/-- A popper may go on: its queue has closed, or it may take a token, or its queue closes now (R366). -/
def popReady (k : Skein) (q plyid : Nat) : Bool :=
  (k.poppers.any fun w => decide (w.plyid = plyid ∧ w.queue = q) && w.closed) ||
    (if (k.queue q).isEmpty then queueClosed k q else popTurn k q plyid)

/-- Whether the condition a ply waits for holds, as read off the state. -/
def waitOver (s : State) (key : Nat) (p : Ply) (c : Cond) : Bool :=
  let ofSkein (f : Skein → Bool) : Bool := match s.skein? p with
    | some k => f k
    | none => true
  let sp := s.spindle p.core p.part
  match c with
  | .quiet spin => decide (p.strict = 0 ∧ p.tileAt ≤ s.cycle) && p.tiles.isEmpty && (!spin || decide (p.spinAt ≤ s.cycle))
  | .landRoom => p.out.isEmpty
  | .memRoom b n => decide (b ≤ landingFree s p ∧ n ≤ slotsFree s p.core)
  | .cycle t => decide (t ≤ s.cycle)
  | .page _ _ _ _ _ => false
  | .code loc => !s.txns.any fun t => decide (t.kind = .code ∧ t.core = p.core ∧ t.loc = loc)
  | .workDone => !p.workWaits && match p.work with
    | some w => w.todo.isEmpty
    | none => true
  | .phase b ph => ofSkein fun k => decide ((k.bar b).phase ≠ ph)
  | .queueRoom q => ofSkein fun k => decide ((k.queue q).length < 32)
  | .queueToken q => ofSkein fun k => popReady k q p.plyid
  | .ticket c exact => let h := (s.chainOf p c).h; if exact then decide (h = p.skix) else decide (p.skix ≤ h)
  | .timeline f n => ofSkein fun k => decide (n ≤ counterOf s k f)
  | .tile h gen mask calm => match (s.hwOf p.core).tiles.find? fun e => decide (e.slot = p.slot ∧ e.handle = h ∧ e.gen = gen) with
    | some e => e.inStates mask && (!calm || e.calm)
    | none => true
  | .tileEntry => decide ((s.hwOf p.core).tiles.length < 64)
  | .copyRoom => ofSkein fun k => decide (k.eng.copies.length < 32)
  | .deferRoom => decide (p.defer.length < 4)
  | .spindle => if p.stage = 1 then sp.opened.isNone && sp.drain.isNone && decide (sp.window ≤ s.cycle) else spindleFree sp key s.cycle
  | .batch n => if n = 0 then sp.drain.isNone else batchesDone s key p
  | .energy => decide (p.stage ≤ (energyOf s p.core p.ctx).1.toNat)
  | .vacq => p.ext
  | .monitor _ => decide (p.mon.st ≠ .armed) || decide (p.stage = 2)
  | .poll t _ => decide (t = 0)
  | .ui _ => (lowestVector s key p).isSome || decide (p.stage = 2)
  | .record _ => p.preempt.isSome
  | .tree t => match (s.hwOf p.core).trees.get? t with
    | some x => x.2.2.isNone
    | none => true

/-! ## Landing (R245, R246) -/

/-- A ply at a switch point whose results have arrived: parked by its switch marker, or by a ninth result, a VREL or an EVICT. -/
def landingDue (p : Ply) : Bool :=
  p.landable && (decide (p.park = .switch) || (decide (p.park = .wait .landRoom) && !p.out.isEmpty))

/-- SWITCH_POINT_LANDING (R246): the outstanding writes are made and the ply is ready two cycles later, or takes the trap that
an access of it reported (R89, R155). -/
def execSwitchPointLanding (key : Nat) (s : State) : Out :=
  match s.plies.get? key with
  | none => .next s
  | some p =>
    if !landingDue p then .next s
    else
      let last := p.pend.foldl (fun m x => max m x.due) s.cycle
      let q := { p.landAll with
        park := if p.park = .switch then .none else .wait (.cycle (last + 2))
        nextAt := max p.nextAt (last + 2)
        wakeAt := max p.nextAt (last + 2) }
      .next ((reportedTrap (s.setPly key q) key p).getD (s.setPly key q))

/-! ## VACQ (R253) -/

/-- The ply at the head of a partition's VACQ queue, if it fits. -/
def grantDue (s : State) (pk : Nat) : Option (Nat × Ply) :=
  match (s.part pk).vacq with
  | [] => none
  | key :: _ => if vacqFits s (s.part pk) key then (s.plies.get? key).map fun p => (key, p) else none

/-- VACQ_GRANT (R253): the head of the queue receives its block. -/
def execVacqGrant (core part : Nat) (s : State) : Out :=
  match grantDue s (core * 4 + part) with
  | some (key, p) => .next (grantExt s key p)
  | none => .next s

/-! ## Aging (R385) -/

/-- Ready as far as its park goes: no park, or a wait that is over. -/
def awake (s : State) (key : Nat) (p : Ply) : Bool :=
  !p.frozen && !(s.ctx p.ctx).suspended && !p.stopped && match p.park with
    | .none => true
    | .wait c => waitOver s key p c
    | _ => false

/-- PLY_AGING (R385): 512 cycles ready without issuing. -/
def execPlyAging (key : Nat) (s : State) : Out :=
  match s.plies.get? key with
  | none => .next s
  | some p =>
    if awake s key p && !p.aged && decide (max p.wakeAt p.nextAt + 512 ≤ s.cycle) then .next (s.setPly key { p with aged := true })
    else .next s

/-! ## Retirement (R363) -/

/-- Resolve as SKIP every ticket a skein still owes (R404). -/
def skipTickets (s : State) (sk : Nat) (k : Skein) : State :=
  let owed := (List.range 8).filter fun c => recTicket k.lrec c && !k.resolved.getLsbD c
  let skip (l : Launch) (c : Nat) : Launch := { l with chains := l.chains.modify c fun x => x.resolve k.index none }
  let s := s.modLaunch (k.ctx * 64 + k.lid) fun l => owed.foldl skip l
  s.modSkein sk fun k => { k with resolved := owed.foldl (fun r c => r ||| (1#8 <<< c)) k.resolved }

/-- Whether every ply of a skein has retired. -/
def allRetired (k : Skein) : Bool := (List.range (recNply k.lrec)).all fun p => k.retired.getLsbD p

/-- The ply leaves its slot, bank and queues. -/
def dropPly (s : State) (key : Nat) (p : Ply) : State :=
  let s := endClaims (releaseExt (leaveQueues s p key) key p) p
  let s := { s with mons := s.mons.filter fun m => m.1 ≠ key, plies := s.plies.erase key }
  s.modPart p.partKey fun pt => { pt with
    banks := pt.banks.map fun b => if b = some key then none else b
    bankWait := pt.bankWait.erase key
    current := if pt.current = some key then none else pt.current }

/-- Whether a retiring ply can go: everything landed and performed, its tile slots passed, and its open batch can be closed. -/
def retireDue (s : State) (key : Nat) (p : Ply) : Bool :=
  decide (p.park = .retire ∧ p.tileAt ≤ s.cycle ∧ p.spinAt ≤ s.cycle) && p.landable && p.overlapped.isEmpty && !p.frozen && (closeBatch s key p s.cycle false).isSome

/-- PLY_RETIREMENT (R363). -/
def execPlyRetirement (key : Nat) (s : State) : Out :=
  match s.plies.get? key with
  | none => .next s
  | some p =>
    if !retireDue s key p then .next s
    else match closeBatch s key p s.cycle false with
      | none => .next s
      | some (s, _) =>
        let sk := p.skeinKey
        let s := s.modSkein sk fun k => { k with
          failed := k.failed || (k.eng.marks.any fun m => decide (m.issuer = p.plyid)) || p.memlost.isSome
          late := k.late ++ p.defer.map fun d => (p.plyid, d)
          retired := k.retired ||| (1#32 <<< p.plyid) }
        let s := dropPly s key p
        let s := match s.skeins.get? sk with
          | some k => if allRetired k then skipTickets s sk k else s
          | none => s
        .next (reapSkein s sk)

/-! ## Barriers and tickets -/

/-- Whether a barrier's open phase is complete and somebody has arrived or waits in it (R397). -/
def phaseDue (s : State) (sk : Nat) (k : Skein) (b : Nat) : Bool :=
  let x := k.bar b
  barComplete k b && (decide (x.narr ≠ 0 ∨ x.arrm ≠ 0) || s.plies.any fun p =>
    decide (p.2.skeinKey = sk) && decide (p.2.park = .wait (.phase b x.phase)))

/-- BARRIER_PHASE_COMPLETION (R397, R399, R400). -/
def execBarrierPhaseCompletion (skein b : Nat) (s : State) : Out :=
  match s.skeins.get? skein with
  | some k => .next (if phaseDue s skein k b then completePhase s skein b else s)
  | none => .next s

/-- TICKET_CHAIN_ADVANCE (R402): a chain whose head ticket is resolved advances. -/
def execTicketChainAdvance (ctx lid c : Nat) (s : State) : Out :=
  .next (s.modLaunch (ctx * 64 + lid) fun l => { l with chains := l.chains.modify c fun x => x.advance x.done.length })

/-! ## Timeouts (R186, R187) -/

/-- WAITM_TIMEOUT (R186). -/
def execWaitmTimeout (key : Nat) (s : State) : Out :=
  .next (s.modPly key fun p => match p.park with
    | .wait (.monitor (some t)) => if t ≤ s.tick then { p with stage := 2 } else p
    | _ => p)

/-- POLL_RETRY (R187): the back-off has passed and the next attempt may be made. -/
def execPollRetry (key : Nat) (s : State) : Out :=
  .next (s.modPly key fun p => match p.park with
    | .wait (.poll t h) => if t ≤ s.cycle then { p with park := .wait (.poll 0 h) } else p
    | _ => p)

/-! ## Orphan waits (R407) -/

/-- A wait that a quiescent skein cannot end. -/
def orphanKind (c : Cond) : Bool :=
  match c with
  | .phase _ _ | .queueRoom _ | .queueToken _ | .tile _ _ _ _ => true
  | .timeline f _ => decide (f < 2)
  | .batch n => decide (n = 1)
  | _ => false

/-- Whether a ply stands in a wait of that kind, not over. -/
def stuck (s : State) (key : Nat) (p : Ply) : Bool :=
  match p.park with
  | .wait c => orphanKind c && !waitOver s key p c
  | _ => false

/-- No batch of a skein is open or draining. -/
def noBatches (s : State) (sk : Nat) : Bool :=
  let free (b : Option Batch) : Bool := match b with
    | some b => decide (b.owner / 32 ≠ sk)
    | none => true
  (s.hwOf (sk / 16)).spindles.all fun x => free x.opened && free x.drain

/-- A vector of the context names a ply of the skein and is unmasked. -/
def handlesVector (c : Ctx) (k : Skein) : Bool :=
  (List.range 64).any fun v =>
    let x := c.vector v
    x.getLsbD 16 && !c.uimask.getLsbD v && decide (fieldOf x 58 6 = k.lid ∧ fieldOf x 26 32 = k.index % 2 ^ 32)

/-- The plies of a skein on its core. -/
def pliesOf (s : State) (sk : Nat) : List (Nat × Ply) := List.filter (fun (p : Nat × Ply) => decide (p.2.skeinKey = sk)) s.plies

/-- A quiescent skein. -/
def quiescent (s : State) (sk : Nat) (k : Skein) : Bool :=
  let ps := pliesOf s sk
  !ps.isEmpty && ps.all (fun p => stuck s p.1 p.2) && k.eng.copies.isEmpty && noBatches s sk && k.late.isEmpty &&
    ps.all (fun p => p.2.defer.isEmpty) && !handlesVector (s.ctx k.ctx) k

/-- Whether every ply of a role has retired. -/
def roleGone (k : Skein) (code : Nat) : Bool :=
  (List.range (recNply k.lrec)).all fun p => !roleIn code (recRole k.lrec p) || k.retired.getLsbD p

/-- Whether a FIN of a completed copy that names a tile still waits for its timeline point. -/
def finPending (s : State) (sk : Nat) (k : Skein) (h : Nat) : Bool :=
  k.eng.fins.any fun f => match boundTile (s.hwOf (sk / 16)) (sk % 16) f.2.2 with
    | some e => decide (e.handle = h)
    | none => false

/-- The waits that are orphans at once. -/
def orphanAtOnce (s : State) (sk : Nat) (k : Skein) (key : Nat) (p : Ply) : Bool :=
  match p.park with
  | .wait c => !waitOver s key p c && match c with
    | .queueRoom q => roleGone k (recQueue k.lrec q % 4)
    | .tile h gen _ _ =>
      decide ((pliesOf s sk).length = 1) && (match (s.hwOf p.core).tiles.find? fun e =>
          decide (e.slot = p.slot ∧ e.handle = h ∧ e.gen = gen) with
        | some e => e.calm
        | none => false) && !finPending s sk k h
    | _ => false
  | _ => false

/-- The plies of a skein, and those in VACQ beside it, that trap with ORPHAN now. -/
def orphansOf (s : State) (sk : Nat) : List Nat :=
  match s.skeins.get? sk with
  | none => []
  | some k =>
    let quiet := quiescent s sk k
    let own := ((pliesOf s sk).filter fun p => !p.2.orphan && stuck s p.1 p.2 && (quiet || orphanAtOnce s sk k p.1 p.2)).map (·.1)
    let vac := if !quiet then [] else List.filter (fun (p : Nat × Ply) =>
      decide (p.2.core = sk / 16) && decide (p.2.park = .wait .vacq) && !p.2.ext && !p.2.orphan && s.plies.all fun q =>
        !(decide (q.2.partKey = p.2.partKey) && q.2.ext) || match s.skeins.get? q.2.skeinKey with
          | some k' => quiescent s q.2.skeinKey k'
          | none => false) s.plies
    own ++ vac.map (·.1)

/-- Whether a ply of a skein is an orphan at once (R407). -/
def orphanNow (s : State) (sk : Nat) (k : Skein) : Bool :=
  (pliesOf s sk).any fun p => !p.2.orphan && stuck s p.1 p.2 && orphanAtOnce s sk k p.1 p.2

/-- ORPHAN_DETECTION (R407): the waits of a skein that cannot end will trap at their boundary. -/
def execOrphanDetection (skein : Nat) (s : State) : Out :=
  .next ((orphansOf s skein).foldl (fun s key => s.modPly key fun p => { p with orphan := true }) s)

/-! ## The watchdog (R409, R410) -/

/-- Whether a parked ply's wait depends on something outside the context. -/
def externalWait (s : State) (p : Ply) : Bool :=
  match p.park with
  | .wait c => match c with
    | .monitor _ => decide (tierOf p.mon.loc = 2)
    | .poll _ host => host
    | .ui _ | .record _ => true
    | .timeline f _ => decide (8 ≤ f)
    | .page vp _ _ _ host => host || s.misses.any fun m => decide (m.pasid = (s.ctx p.ctx).pasid ∧ m.vpage = vp)
    | _ => false
  | _ => false

/-- Whether a ply is held by no wait and no structural park: the fetch of code (R20), and a span of cycles. -/
def passing (p : Ply) : Bool :=
  match p.park with
  | .wait (.code _) | .wait (.cycle _) | .none => true
  | _ => false

/-- The third condition of R410: some parked ply is in a wait that is not external, or in a structural or energy park. -/
def watchdogCounts (s : State) (ctx : Nat) : Bool :=
  let c := s.ctx ctx
  !c.suspended && !c.killed && s.plies.any fun p =>
    decide (p.2.ctx = ctx) && !passing p.2 && !p.2.wdog && !externalWait s p.2

/-- One tick of the count (R410). -/
def watchdogTick (s : State) (ctx : Nat) : State :=
  let on := watchdogCounts s ctx
  s.modCtx ctx fun c => { c with idleTicks := if on then c.idleTicks + 1 else 0 }

/-- Whether the count has reached its limit. -/
def watchdogDue (s : State) (ctx : Nat) : Bool :=
  let c := s.ctx ctx
  let limit := fieldOf c.wdog 0 32
  decide (limit ≠ 0 ∧ limit * 1000 ≤ c.idleTicks)

/-- WATCHDOG_EXPIRY (R410): every ply of the context will trap at its next boundary. -/
def execWatchdogExpiry (ctx : Nat) (s : State) : Out :=
  if watchdogDue s ctx then
    .next ((s.mapPlies fun p => if p.ctx = ctx then { p with wdog := true } else p).modCtx ctx fun c => { c with idleTicks := 0 })
  else .next s

end Sys2Proof.Machine
end

