-- ==== Sys2Proof/Machine/Trees.lean ====
section
/-! DEFINITION. Reduction trees: NRED (R112 to R114), the routers' combining (R109), flushes (R110), results (R111). -/

namespace Sys2Proof.Machine

/-- Comb of R109. -/
def treeComb (op : Nat) (x y : Word) : Word :=
  match op with
  | 0 => BitVec.ofNat 32 (fAddRne .f32 x.toNat y.toNat)
  | 1 => x + y
  | 2 => BitVec.ofNat 32 (fMinMax false x.toNat y.toNat)
  | 3 => BitVec.ofNat 32 (fMinMax true x.toNat y.toNat)
  | 4 => minS x y
  | _ => maxS x y

/-- Ident of R113. -/
def treeIdent (op : Nat) : Word :=
  match op with
  | 0 => 0x80000000
  | 1 => 0
  | 2 => 0x7F800000
  | 3 => 0xFF800000
  | 4 => 0x7FFFFFFF
  | _ => 0x80000000

/-- A core's part in a tree: round, MISSED, the ply whose contribution is outstanding. -/
def State.coreTree (s : State) (core slot : Nat) : Nat × Bool × Option Nat := (s.hwOf core).trees.getD slot (0, false, none)
def State.setCoreTree (s : State) (core slot : Nat) (x : Nat × Bool × Option Nat) : State :=
  s.modHw core fun h => { h with trees := h.trees.set slot x }

def State.modNode (s : State) (slot m : Nat) (f : TreeNode → TreeNode) : State :=
  { s with nodes := s.nodes.set (slot * 64 + m) (f (s.node slot m)) }

/-- The tag of the landing of a contribution to a slot. -/
def treeTag (slot : Nat) : Nat := 2 ^ 60 + slot

/-- The landing writes of a round (R113): elements to even names, mask words to odd ones, q7. -/
def treeFill (em : DWord) (width : Nat) (vals : List Word) (mask all : BitVec 128) (w : Write) : Write :=
  match w.slot with
  | .v n =>
    if n % 2 = 0 then { w with mask := em, vals := (List.range width).map fun k => (vals.getD k 0).setWidth 64 }
    else { w with mask := em, vals := (List.range width).map fun k => (mask.extractLsb' (32 * (k % 4)) 32).setWidth 64 }
  | _ => { w with vals := [if mask = all then 0 else 1] }

/-- NRED (R113). The threads that receive the result are those of EM at the issue, as for every result that lands (DESIGN CHOICE, log 85: the
program of R113 writes them at the landing and does not say which EM). -/
def execNred (d : Name) (a : Src) (t : BitVec 5) (m : BitVec 3) (sw : Bool) (s : State) : Out :=
  issue (.nred d a t m sw) (fun v s =>
    let fault (r : Nat) : DWord := fieldAt 0 t.toNat ||| fieldAt 5 r
    match ((s.ctx v.p.ctx).treemap.getD t.toNat none).bind fun slot => (s.trees.get? slot).map fun x => (slot, x) with
    | none => .trap causeNREDFAULT (fault 1)
    | some (slot, x) =>
      let w := x.words
      let (round, missed, who) := s.coreTree v.p.core slot
      if !(treeMask w).getLsbD v.p.core then .trap causeNREDFAULT (fault 2)
      else if v.p.width ≠ treeWidth w then .trap causeNREDFAULT (fault 3)
      else if m.toNat ≠ treeOp w then .trap causeNREDFAULT (fault 4)
      else if missed then
        .gone (takeTrap (s.setCoreTree v.p.core slot (round, false, who)) v.key causeNREDFAULT (fault 5) v.p.pc)
      else if who.isSome then .wait s (.tree slot) 0
      else
        let e := (List.range v.p.width).map fun k => if v.p.em.getLsbD k then (v.op 0).at32 k else treeIdent m.toNat
        let (r, port) := coreRouter v.p.core
        let h := hdrOf s v.p.ctx 0 (.core v.p.core) (.router r)
        let s := s.setCoreTree v.p.core slot ((round + 1) % 2 ^ 16, false, some v.key)
        let s := s.send (.nup ⟨h, slot, round, port, false, e, 1#128 <<< v.p.core⟩)
        .done s { land := some ⟨treeTag slot, false, 0,
          realWrites (dstWrites d .pair v.p.em (List.replicate v.p.width 0)) ++ [⟨.q 7, 1, [0]⟩]⟩ }) s

/-- Send a result down from a router, in the order of its inputs, and go on to the next round (R111). -/
def sendDown (s : State) (ctx slot m round : Nat) (w : List DWord) (vals : List Word) (mask : BitVec 128) : State :=
  let s := (treeInputs w m).foldl (fun s c =>
    let dst : Option Endpoint := if c < 2 then some (.core (routerCore m c)) else (neighbour m c).map .router
    match dst with
    | some e => s.send (.ndown ⟨hdrOf s ctx 0 (.router m) e, slot, round, c, false, vals, mask⟩)
    | none => s) s
  s.modNode slot m fun n => ⟨(round + 1) % 2 ^ 16, n.got.filter fun g => g.2.1 ≠ round, none, false⟩

/-- Combine the deliveries of a round (R109): nothing yet, or values and contributor mask. -/
def combineInputs (op : Nat) : List (Nat × Nat × List Word × BitVec 128) → Option (List Word × BitVec 128) → Option (List Word × BitVec 128)
  | [], acc => acc
  | g :: gs, acc =>
    combineInputs op gs (some (match acc with
      | none => (g.2.2.1, g.2.2.2)
      | some (v, m) => (List.zipWith (treeComb op) v g.2.2.1, m ||| g.2.2.2)))

/-- Combine a router's round and send it on, when its inputs are there or a flush has come (R109, R110). -/
def tryCombine (s : State) (slot m : Nat) : State :=
  match s.trees.get? slot with
  | none => s
  | some x =>
    let w := x.words
    let n := s.node slot m
    let r := n.round
    let ins := treeInputs w m
    let given := ins.filterMap fun c => n.got.find? fun g => decide (g.1 = c ∧ g.2.1 = r)
    let flushed := decide (n.flush = some r)
    let ready := ins.all fun c => given.any (fun g => g.1 = c) || (flushed && decide (c < 2))
    if n.sent || !treeIn w m || !ready then s
    else
      let (vals, mask) := (combineInputs (treeOp w) given none).getD (List.replicate (treeWidth w) (treeIdent (treeOp w)), 0)
      if treeParent w m = 7 then
        sendDown { s with trees := s.trees.set slot { x with started := none } } x.ctx slot m r w vals mask
      else match neighbour m (treeParent w m) with
        | none => s
        | some p =>
          (s.modNode slot m fun n => { n with sent := true }).send
            (.nup ⟨hdrOf s x.ctx 0 (.router m) (.router p), slot, r, opposite (treeParent w m), flushed, vals, mask⟩)

/-- NUP at a router (R109): the input is kept for its round; a core's that comes after the round was sent is discarded. The
root's first input of a round starts its timer. -/
def execNup (f : TreeFlit) (s : State) : Out :=
  match f.hdr.dst, s.trees.get? f.slot with
  | .router m, some x =>
    let n := s.node f.slot m
    let old := decide ((f.round + 2 ^ 16 - n.round) % 2 ^ 16 ≥ 2 ^ 15) || (decide (f.round = n.round) && n.sent)
    if old then .next s
    else
      let s := s.modNode f.slot m fun n => { n with got := n.got ++ [(f.input, f.round, f.vals, f.mask)] }
      let first := decide (treeParent x.words m = 7) && x.started.isNone && decide (f.round = n.round)
      let s := if first then { s with trees := s.trees.set f.slot { x with started := some (f.round, s.tick) } } else s
      .next (tryCombine s f.slot m)
  | _, _ => .next s

/-- NDOWN (R111): a router forwards it; at a core the outstanding contribution lands, or MISSED is set. -/
def execNdown (f : TreeFlit) (s : State) : Out :=
  match s.trees.get? f.slot with
  | none => .next s
  | some x =>
    match f.hdr.dst with
    | .router m =>
      let s := sendDown s x.ctx f.slot m f.round x.words f.vals f.mask
      .next (tryCombine s f.slot m)
    | .core c =>
      let (round, missed, who) := s.coreTree c f.slot
      match who with
      | none => .next (s.setCoreTree c f.slot ((round + 1) % 2 ^ 16, true, none))
      | some key =>
        let s := s.setCoreTree c f.slot (round, missed, none)
        let land (p : Ply) (l : Landing) : Landing :=
          if l.tag = treeTag f.slot ∧ l.arrived = false then
            { l with
              arrived := true
              writes := l.writes.map fun w => treeFill w.mask p.width f.vals f.mask (treeMask x.words) w }
          else l
        .next (s.modPly key fun p => { p with out := p.out.map (land p) })
    | _ => .next s

/-- ANSWER at a router (R127): taken at once; the manual gives it no further effect (log 25). -/
def execAnswer (_ : TreeProbe) (s : State) : Out := .next s

/-- NFLUSH at a router (R110): a member that has not sent the round combines what it holds. -/
def execNflush (f : TreeProbe) (s : State) : Out :=
  match f.hdr.dst with
  | .router m =>
    let n := s.node f.slot m
    if n.round = f.round ∧ n.sent = false then .next (tryCombine (s.modNode f.slot m fun n => { n with flush := some f.round }) f.slot m)
    else .next s
  | _ => .next s

/-- Whether a tree's timer has run out (R110); a launch in deterministic mode applies none (R388). -/
def treeLate (s : State) (slot : Nat) : Bool :=
  match s.trees.get? slot with
  | some x => match x.started with
    | some (_, t) => decide (treeTmo x.words ≠ 0 ∧ t + treeTmo x.words ≤ s.tick) && !x.det
    | none => false
  | none => false

/-- TREE_TIMEOUT (R110): the root sends NFLUSH to every member. -/
def execTreeTimeout (slot : Nat) (s : State) : Out :=
  if !treeLate s slot then .next s
  else match s.trees.get? slot with
    | none => .next s
    | some x =>
      let members := (List.range 64).filter (treeIn x.words)
      let root := (members.find? fun m => treeParent x.words m = 7).getD 0
      let round := match x.started with
        | some (r, _) => r
        | none => 0
      let s := { s with trees := s.trees.set slot { x with started := none } }
      .next (members.foldl (fun s m => s.send (.nflush ⟨hdrOf s x.ctx 0 (.router root) (.router m), slot, round⟩)) s)

end Sys2Proof.Machine
end

