-- ==== Sys2Proof/Machine/Messages.lean ====
section
/-! DEFINITION. Answers that come back to a core: data (R97, R130), atomic replies (R181), and the acknowledgements of R98. -/

namespace Sys2Proof.Machine

/-! ## What a core keeps of an answer -/

/-- The set of an RDC block (R117). -/
def rdcSet (loc : Nat) : Nat := bitsAt (offOf loc) 9 9 ^^^ bitsAt (offOf loc) 18 9

/-- Put a granted block into an RDC slice (R129, R130): `e` is the end of its lease. A set holds 24 blocks; the one whose lease
ends first goes (log 20). -/
def fillRdc (s : State) (r : Nat) (f : DataFlit) (e : Nat) : State :=
  let blk := blockOf f.loc
  let t := s.rdc.getD r []
  let b : RdcBlock := match t.get? blk with
    | some b =>
      if b.key = f.key then
        ⟨f.key, f.hdr.ten, b.sv ||| f.sect, 16 * 2 ^ f.lease, if b.sv &&& ~~~f.sect = 0 then e else leaseEarlier e b.e⟩
      else ⟨f.key, f.hdr.ten, f.sect, 16 * 2 ^ f.lease, e⟩
    | none => ⟨f.key, f.hdr.ten, f.sect, 16 * 2 ^ f.lease, e⟩
  let same := List.filter (fun (x : Nat × RdcBlock) => decide (rdcSet x.1 = rdcSet blk) && decide (x.1 ≠ blk)) t
  let t := if same.length < 24 then t else match same.foldl (fun (a : Option (Nat × RdcBlock)) x => match a with
      | none => some x
      | some y => if x.2.e < y.2.e then some x else some y) none with
    | some x => t.erase x.1
    | none => t
  { s with rdc := s.rdc.set r (t.set blk b) }

/-- Keep the copy that an answer brings, unless its home granted none (R132) or a probe of the grain came first: in the L1 of the core,
and in the RDC slice it came through, with the end of the lease counted from the tick of the request (R129, R130). -/
def keepCopy (s : State) (core : Nat) (f : DataFlit) (t : Trans) : State :=
  if f.lease = 7 || t.lost then s
  else
    let blk := blockOf f.loc
    match f.hdr.dst with
    | .rdc r =>
      let s := fillRdc s r f ((t.sentAt + 16 * 2 ^ f.lease) % 2 ^ 24)
      match (if t.keeps then s.rdcBlock r blk else none) with
      | some b => fillL1 s core blk f.key f.hdr.ten f.sect 0 (some b.e)
      | none => s
    | _ => if t.keeps then fillL1 s core blk f.key f.hdr.ten f.sect (if f.own then f.sect else 0) none else s

/-- A request of a core has had an answer: it is forgotten when none is owed any more, and DRAINACKs that waited for it go out
(R96, R148). -/
def setTrans (s : State) (core tag : Nat) (t : Trans) : State :=
  answerDrains (s.modCore core fun m => { m with trans := if t.reply || t.ack then m.trans.set tag t else m.trans.erase tag }) core

/-- Answer an access of a party: the value, or none when its home refused it (R89). -/
def partyReply (s : State) (t : Trans) (x : Option QWord) : State :=
  match t.who with
  | .ply k => plyReply s k t.wtag t.acc x
  | .engine sk => match s.skeins.get? sk with
    | none => s
    | some k => match k.eng.copies.find? (·.waiting) with
      | some c => copyReply s sk c.n t.acc.va (match x with
        | some v => .inl v
        | none => .inr 3)
      | none => s
  | _ => s

/-- The reply to a request: the access is performed, or refused. -/
def replied (s : State) (core tag : Nat) (t : Trans) (x : Option QWord) : State :=
  partyReply (setTrans s core tag { t with reply := false }) t x

/-! ## RDATA, ATOMR, ACK -/

/-- An answer to UPG (R133): the core holds the grain for update and combines the RED, or sends it to the home. A grain that a probe has
taken back meanwhile is not held. -/
def upgAnswered (s : State) (core tag : Nat) (t : Trans) (grain : Nat) (own : Bool) : State :=
  if own && !t.lost then
    let s := s.modCore core fun m => { m with ugrains := m.ugrains.set grain t.acc.attr.key }
    replied (combineRed s t.who core t.acc) core tag t (some 0)
  else
    sendWrite (setTrans s core tag { t with reply := false }) t.who core t.acc .atomq true t.wtag

/-- Stream 1 (R475): the mesh cycles from a core's request for data to the data. -/
def noteMiss (s : State) (core : Nat) (t : Trans) : State :=
  if t.acc.kind = .red ∨ t.acc.kind = .pref then s else s.noteCore core 1 (s.partyCtx t.who).1 (s.mesh - 24 * t.sentAt)

/-- The bytes of an access in an answer that carries sectors. -/
def answerValue (f : DataFlit) (a : Acc) : QWord :=
  BitVec.ofNat 128 (valueOf ((f.bytes.drop (a.loc % 512 - f.loc % 512)).take a.bytes))

/-- RDATA (R97, R125, R129, R130): the copy is kept, and the access that waited for it is performed: a load has its value, a store is
made in the L1 that now owns the grain. -/
def execRdata (f : DataFlit) (s : State) : Out :=
  let core := partyCore f.owner
  match transOf s f.owner f.hdr with
  | none => .next s
  | some t =>
    let s := noteMiss s core t
    if f.stat = .memlost then .next (replied s core f.hdr.tag t none)
    else if t.acc.kind = .red then .next (upgAnswered s core f.hdr.tag t (grainBase s t.acc.loc f.grain) f.own)
    else
      let s := keepCopy s core f t
      match t.acc.kind with
      | .store =>
        let r := performAcc s core t.acc
        let s := if f.own && !t.lost then touchL1 r.2 core (blockOf t.acc.loc) (sectorsOf t.acc.loc t.acc.bytes) else r.2
        .next (replied s core f.hdr.tag t (some 0))
      | _ => .next (replied s core f.hdr.tag t (some (answerValue f t.acc)))

/-- ATOMR (R181): the old value of an atomic that its home performed. -/
def execAtomr (f : AtomFlit) (s : State) : Out :=
  match transOf s f.owner f.hdr with
  | none => .next s
  | some t => .next (replied s (partyCore f.owner) f.hdr.tag t (if f.stat = .memlost then none else some (f.old.setWidth 128)))

/-- The class of an answer (R146). -/
def clsOfCode (n : Nat) : Cls := if n = 1 then .priv else if n = 2 then .readonly else if n = 3 then .shared else .unseen

/-- The write credit that an ACK returns (R100). -/
def takeCredit (s : State) (core : Nat) (src : Endpoint) : State :=
  match src with
  | .slice n => s.modCore core fun m =>
    let left := if m.credits.getD n 0 ≤ 1 then m.credits.erase n else m.credits.set n (m.credits.getD n 0 - 1)
    { m with credits := left }
  | _ => s

/-- A class answer at a core (R146, R149, R155), and the end of a write that its home has performed, or refused: MIX with class UNSEEN,
which no other answer has (R89, R100; DESIGN CHOICE, log 80). An owner that is answered PRIVATE again keeps S. -/
def takeAnswer (s : State) (core tag : Nat) (cls : Nat) (mix : Bool) (gran : Nat) : State :=
  match (s.core core).trans.get? tag with
  | none => s
  | some t =>
    let (_, lid) := s.partyCtx t.who
    let owner := if cls = 1 then some t.who else none
    let wrote := match (s.core core).cls.get? gran with
      | some l => decide (l.cls = clsOfCode cls) && decide (l.owner = owner) && l.sbit
      | none => false
    let s := if cls = 0 ∨ t.drained then s else installCls s core gran ⟨clsOfCode cls, owner, wrote || t.acc.kind.writes, lid, 0⟩
    let s := match (if mix && cls ≠ 0 then t.who else .host) with
      | .ply k => s.modPly k fun p => { p with mixsize := match p.mixsize with
        | some x => some x
        | none => some t.acc.va }
      | _ => s
    let t := { t with ack := false }
    if t.byAck && t.reply then replied s core tag t (if mix && cls = 0 then none else some 0) else setTrans s core tag t

/-- ACK (R98): a class answer or a write acknowledgement at a core, an answer to a probe at a home, or a word between the homes
of replicas (R165). -/
def execAck (f : AckFlit) (s : State) : Out :=
  match f.arg, f.hdr.dst with
  | .classAnswer credit cls mix loc, .core c =>
    .next (takeAnswer (if credit then takeCredit s c f.hdr.src else s) c f.hdr.tag cls.toNat mix loc)
  | .classAnswer _ _ _ loc, .slice _ => .next (replicaAcked s loc f.hdr.tag)
  | .probeAnswer _ _ loc, .slice _ => match f.hdr.src with
    | .core c => .next (probeAnswered s c loc)
    | _ => .next s
  | _, _ => .next s

end Sys2Proof.Machine
end

