-- ==== Sys2Proof/Machine/HostPort.lean ====
section
/-! DEFINITION. What the host and peer modules ask of the memory: snoops (R135), CXL.mem (R136, R64), the completions of the
device's own requests, and the frames of a Hjelley link (R457 to R460). -/

namespace Sys2Proof.Machine

/-! ## Requests served grain by grain -/

/-- The grain that an outside access meets: the one recorded for the block, else 128 bytes, the grain of a reset region entry (R61;
log 19). -/
def outsideGrain (s : State) (loc : Nat) : BitVec 2 := grainCode s loc 1

/-- Cut a range at the grains it meets: location and length of each piece; the fuel bounds the pieces. -/
def grainPieces (s : State) : Nat → Nat → Nat → List (Nat × Nat)
  | 0, _, _ => []
  | f + 1, loc, n =>
    if n = 0 then []
    else
      let g := grainBytes loc (outsideGrain s loc)
      let k := min n (g - loc % g)
      (loc, k) :: grainPieces s f (loc + k) (n - k)

/-- Enter an outside request at its homes: every piece but the last is quiet, the last one gives the answer. -/
def outsideRequest (s : State) (kind : ReqKind) (who : Party) (loc len aux tag : Nat) (hpa : Nat) (bytes : List Byte) : State :=
  let pieces := grainPieces s (len + 1) loc len
  let n := pieces.length
  let key := s.hostKeys.getD (hostRegion loc) 0 % 64
  let one (s : State) (x : (Nat × Nat) × Nat) : State :=
    let t := Txn.blank s kind x.1.1 (outsideGrain s x.1.1)
    addTxn s { t with
      who := who
      core := 128
      tag := tag
      size := x.1.2
      base := loc
      len := len
      key := key
      strict := kind.ofLink
      aux := aux
      a := BitVec.ofNat 64 hpa
      quiet := decide (x.2 + 1 ≠ n)
      bytes := (bytes.drop (x.1.1 - loc)).take x.1.2 }
  ((pieces.zipIdx).foldl one s).pumpAll

/-! ## Snoops (R135) -/

/-- SNPINV: the line is given up. -/
def execSnpinv (loc : Nat) (s : State) : Out :=
  let line := loc / 64 * 64
  if tierOf loc ≠ 2 then .next s else .next (outsideRequest s .snpInv .host line 64 0 0 0 [])

/-- SNPDATA: the line is shared. -/
def execSnpdata (loc : Nat) (s : State) : Out :=
  let line := loc / 64 * 64
  if tierOf loc ≠ 2 then .next s else .next (outsideRequest s .snpData .host line 64 0 0 0 [])

/-- SNPCUR: the current data, once the granule has been drained (R162); no state of the grain changes. -/
def execSnpcur (loc : Nat) (s : State) : Out :=
  let line := loc / 64 * 64
  if tierOf loc ≠ 2 then .next s else .next (outsideRequest s .snpCur .host line 64 0 0 0 [])

/-! ## CXL.mem (R64, R136) -/

/-- MEMRD: a host read of device memory; `cached` says that it may leave a copy in host caches. -/
def execMemrd (hpa size : Nat) (cached : Bool) (s : State) : Out :=
  let loc := s.hpaLoc hpa
  if 2 ≤ tierOf loc then .next s else .next (outsideRequest s .hostRd .host loc size cached.toNat 0 hpa [])

/-- MEMWR: a host write of device memory. -/
def execMemwr (hpa : Nat) (bytes : List Byte) (s : State) : Out :=
  let loc := s.hpaLoc hpa
  if 2 ≤ tierOf loc then .next s else .next (outsideRequest s .hostWr .host loc bytes.length 0 0 hpa bytes)

/-- Whether a request waits for the host's answer for a line. -/
def asksHost (s : State) (line : Nat) : Bool := s.txns.any fun t => decide (t.stage = .host) && t.lines.contains line

/-- The host has answered for a line: the requests that waited for it have one line less to wait for. -/
def hostAnswered (s : State) (line : Nat) : State :=
  { s with txns := s.txns.map fun t => if t.stage = .host then { t with lines := t.lines.erase line } else t }

/-- BIRSPI: the host has given up a line; with the last one of the grain HA is cleared (R136). -/
def execBirspi (loc : Nat) (s : State) : Out :=
  let line := loc / 64 * 64
  if tierOf loc ≤ 1 ∧ asksHost s line = true then
    let waiting := s.txns.filter fun t => decide (t.stage = .host) && t.lines.contains line
    let s := hostAnswered s line
    let done := waiting.filter fun t => t.lines.erase line = []
    .next { s with dir := done.foldl (fun (d : Table DirEntry) (t : Txn) => d.modify t.grain fun e => { e with ha := false }) s.dir }.pumpAll
  else .next s

/-- BICONFLICT: the handshake of CXL 3.1; the outstanding BISnp stands until its response (R136). -/
def execBiconflict (loc : Nat) (s : State) : Out :=
  if tierOf loc ≤ 1 ∧ asksHost s (loc / 64 * 64) = true then .next (s.tellHost (.biConflictAck loc)) else .next s

/-- CXL_CACHE_COMPLETION: a line the device asked for, Shared or Exclusive (R135). Its bytes are taken where the home has no valid sectors
of the line; with the last line of a grain that RdOwn asked for, the device holds the grain. -/
def execCxlCacheCompletion (loc : Nat) (excl : Bool) (bytes : List Byte) (s : State) : Out :=
  let line := loc / 64 * 64
  if tierOf loc = 2 ∧ asksHost s line = true then
    let waiting := s.txns.filter fun t => decide (t.stage = .host) && t.lines.contains line
    let held := (s.dirOf (grainBase s line (outsideGrain s line))).ha || match s.tags.get? (blockOf line) with
      | some x => decide (sectorsOf line 64 &&& ~~~x.sv = 0)
      | none => false
    let s := if held then s else { s with mem := s.mem.writeBytes line (bytes.take 64) }
    let s := hostAnswered s line
    let owned := waiting.filter fun t => excl && t.kind.exclusive && decide (t.lines.erase line = [])
    .next (owned.foldl (fun s t => s.setDir t.grain { s.entryFor t with ha := true }) s).pumpAll
  else .next s

/-! ## Peer links (R457 to R460) -/

/-- The address of a copy's current access. -/
def Copy.curAddr (c : Copy) : DWord :=
  match c.phase with
  | .index => recWord c.layout 4 + BitVec.ofNat 64 ((fieldOf (recWord c.coord 1) 0 32 + c.row) * layIdxw c.layout)
  | .cursor => recWord c.layout 6 + BitVec.ofNat 64 (8 * c.idx)
  | .write => if isGG c.instr then c.ggAddr else c.memAddr
  | .stamp => recWord c.coord 2
  | _ => c.memAddr

/-- A link end goes down (R460): the copies that wait on it stop with PEER, and messages without a status get NOLINK (R417). -/
def dropLink (s : State) (link : Nat) : State :=
  match s.links.get? link with
  | none => s
  | some l =>
    let s := { s with links := s.links.set link { l with up := false, pending := [], uiOut := [] } }
    let s := l.pending.foldl (fun s p => match findCopy s p.2.1 p.2.2 with
      | none => s
      | some (_, c) => copyReply s p.2.1 p.2.2 c.curAddr (.inr 5)) s
    l.uiOut.foldl (fun s tag => landUi s tag 6) s

/-- Note a heartbeat of an agent at the current tick. -/
def noteBeat (s : State) (a : Agent) (seq : Nat) : State :=
  { s with beats := s.beats.filter (fun (b : Agent × Nat × Nat) => decide (b.1 ≠ a)) ++ [(a, seq, s.tick)] }

/-- WINDESC: a link end comes up, for the first time or after a fence; the windows are numbered afresh (R457, R460). -/
def execWindesc (link : Nat) (windows : List (Nat × Nat)) (exports : List (Nat × Nat × Nat)) (s : State) : Out :=
  if 22 ≤ link then .next s
  else
    let a : Agent := .peerLink link
    let s := dropLink s link
    let s := { s with
      links := s.links.set link ⟨true, windows, exports, 0, 0, [], []⟩
      fenced := s.fenced.filter fun b => decide (b ≠ a)
      silent := s.silent.filter fun b => decide (b ≠ a) }
    .next ((noteBeat s a 0).tellHost (.peerWindows link (exports.map fun (x : Nat × Nat × Nat) => (x.1, x.2.2))))

/-- The location of an offset in a window that this module exports. -/
def exportLoc (s : State) (f : PeerFrame) (n : Nat) : Option Nat :=
  match s.links.get? f.link with
  | some l => match l.exports.find? fun x => x.1 = f.window with
    | some x => if f.offset + n ≤ x.2.2 then some (x.2.1 + f.offset) else none
    | none => none
  | none => none

/-- RDREQ: a peer reads an exported window, as a strict access of the link's party (R458). -/
def execRdreq (f : PeerFrame) (s : State) : Out :=
  match peerFrame s f.link with
  | none => .next s
  | some s => match exportLoc s f f.len with
    | none => .next (s.tellHost (.peerData f.link f.tag true []))
    | some loc => .next (outsideRequest s .linkRd (.link f.link) loc f.len f.link f.tag 0 [])

/-- WRREQ: a peer writes an exported window; WRACK follows the performance (R458). -/
def execWrreq (f : PeerFrame) (s : State) : Out :=
  match peerFrame s f.link with
  | none => .next s
  | some s => match exportLoc s f f.bytes.length with
    | none => .next (s.tellHost (.peerAck f.link f.tag true))
    | some loc => .next (outsideRequest s .linkWr (.link f.link) loc f.bytes.length f.link f.tag 0 f.bytes)

/-- A peer has answered a piece of a copy: the value, or a refusal, which stops the copy with PEER (R201, R458). -/
def peerAnswered (s : State) (f : PeerFrame) : State :=
  match s.links.get? f.link with
  | none => s
  | some l => match l.pending.find? fun p => p.1 = f.tag with
    | none => s
    | some p =>
      let s := { s with links := s.links.set f.link { l with pending := l.pending.erase p } }
      match findCopy s p.2.1 p.2.2 with
      | none => s
      | some (_, c) => copyReply s p.2.1 p.2.2 c.curAddr (if f.refused then .inr 5 else .inl (BitVec.ofNat 128 (valueOf f.bytes)))

/-- RDRSP (R457). -/
def execRdrsp (f : PeerFrame) (s : State) : Out :=
  match peerFrame s f.link with
  | none => .next s
  | some s => .next (peerAnswered s f)

/-- WRACK (R458). -/
def execWrack (f : PeerFrame) (s : State) : Out :=
  match peerFrame s f.link with
  | none => .next s
  | some s => .next (peerAnswered s { f with bytes := [] })

/-- HB: a heartbeat of a peer (R457, R460). -/
def execHb (link : Nat) (seq : BitVec 16) (s : State) : Out :=
  match peerFrame s link with
  | none => .next s
  | some s => .next (noteBeat s (.peerLink link) seq.toNat)

end Sys2Proof.Machine
end

