-- ==== Sys2Proof/Machine/Fence.lean ====
section
/-! DEFINITION. Withdrawn granules (R88 to R90), fencing (R137, R138, R460, R463, R465), migration (R68), replica comparison
(R166). -/

namespace Sys2Proof.Machine

/-! ## The end of every launch (R465) -/

/-- Every unfinished accepted launch comes to its kernel boundary with its unfinished skeins in NFAIL, so that it completes with STATUS
1. -/
def failAll (s : State) : State :=
  let s := { s with launches := List.map (fun (l : Nat × Launch) => (l.1, killLaunch s l.2)) s.launches }
  s.ctxs.keys.foldl clearContext s

/-! ## Withdrawn granules (R88, R89, R90) -/

/-- Remove every cached translation whose page contains a location. -/
def dropTranslations (s : State) (loc : Nat) : State :=
  let keeps (e : TlbEnt) : Bool := !decide (e.loc ≤ loc ∧ loc < e.loc + 2 ^ e.log2 * 4096)
  { s with
    ats := s.ats.filter keeps
    dieTlbs := List.map (fun (x : Nat × List TlbEnt) => (x.1, x.2.filter keeps)) s.dieTlbs
    cores := List.map (fun (c : Nat × CoreMem) => (c.1, { c.2 with tlb := c.2.tlb.filter keeps })) s.cores }

/-- The bytes and the keys of a range go: it reads 0. -/
def clearRange (s : State) (loc n : Nat) : State :=
  { s with
    mem := s.mem.filter fun (c : Host.Cell) => !decide (loc ≤ c.1 ∧ c.1 < loc + n)
    keyed := s.keyed.filter fun k _ => !decide (loc / 32 ≤ k ∧ k < (loc + n) / 32) }

/-- Withdraw a granule (R88): its content is lost, and its monitors wake (R185). A full list is a package failure (R89). -/
def withdraw (s : State) (loc : Nat) : State :=
  let g := granuleOf loc
  if s.withdrawn.contains g then s
  else if 1024 ≤ s.withdrawn.length then failAll s
  else
    let s := clearRange (dropCopies (dropTranslations s g) g) g 4096
    let s := { s with
      withdrawn := s.withdrawn ++ [g]
      classes := s.classes.set g { s.classes.getD g ClassEntry.zero with wd := true } }
    (monWake s g 4096).pumpAll

/-- GRANULE_WITHDRAWAL (R88). -/
def execGranuleWithdrawal (loc : Nat) (s : State) : Out := .next (withdraw s loc)

/-- GRANULE_CLEAR (R90): the granule leaves the list and its class is UNSEEN. -/
def execGranuleClear (loc : Nat) (s : State) : Out :=
  let g := granuleOf loc
  if s.withdrawn.contains g then
    .next { s with withdrawn := s.withdrawn.erase g, classes := s.classes.erase g }
  else .next s

/-! ## Fencing (R137, R465) -/

/-- The answers that a fenced core owes are absent: homes go on without them. -/
def withoutCore (s : State) (c : Nat) : State :=
  let drop (t : Txn) : Txn :=
    if (t.stage = .probes ∨ t.stage = .drains) ∧ t.owed.contains c = true then
      { t with owed := t.owed.erase c, clean := t.clean && decide (t.stage ≠ .drains) }
    else t
  { s with txns := s.txns.map drop }

/-- Flits addressed to an endpoint are discarded (R137). -/
def discardTo (s : State) (e : Endpoint) : State :=
  let keeps (i : Instr) : Bool := decide ((flitHdr? i).map (·.dst) ≠ some e)
  { s with net := s.net.filter keeps, flits := s.flits.filter fun f => keeps f.instr }

/-- The partials that a core holds in a grain are combined and gone (R134). -/
def takePartials (s : State) (core grain : Nat) (e : DirEntry) : State :=
  let n := grainBytes grain e.gcode
  let parts := partialsIn (s.core core) grain n
  let s := combineParts s e.ukey (List.map (fun (x : Nat × Partial) => (core, x.1, x.2.op, x.2.val)) parts) e.gcode
  s.modCore core fun m => { m with
    partials := m.partials.filter fun k _ => !decide (grain ≤ k ∧ k < grain + n)
    ugrains := m.ugrains.erase grain }

/-- The walk of the directories for a dead core (R137): what it owns or may hold for update is withdrawn, the latter after its partner's
partials have been collected. -/
def walkCore (s : State) (c : Nat) : State :=
  let owned (g : Nat) (e : DirEntry) : Bool := decide (e.st = .m) && decide (32 * homeDie g + e.own = c)
  let upd (e : DirEntry) : Bool := decide (e.st = .u) && e.uoh.getLsbD (c / 2)
  let own := (s.dir.filter owned).keys
  let held := s.dir.filter fun _ e => upd e
  let s := held.foldl (fun s x =>
    let s := takePartials s (c ^^^ 1) x.1 x.2
    let uoh := x.2.uoh &&& ~~~(pairOf c)
    withdraw (s.setDir x.1 { s.dirOf x.1 with uoh := uoh, st := if uoh = 0 then .i else .u }) x.1) s
  own.foldl (fun s g => withdraw (s.setDir g { s.dirOf g with st := .i, shr := 0 }) g) s

/-- The misses of a dead core's die go on for the other cores that wait (R72, R137): what the dead core had asked for is asked for again. -/
def missesWithout (s : State) (c : Nat) : State :=
  let d := coreDie c
  let without (m : DieMiss) : DieMiss := { m with cores := m.cores.erase c }
  let mine := (s.dieMisses.getD d []).filter fun m => m.cores.contains c
  let left := ((s.dieMisses.getD d []).map without).filter fun m => !m.cores.isEmpty
  let again := (mine.map without).filter fun m => m.sent && !m.cores.isEmpty
  let s := { s with
    dieMisses := if left.isEmpty then s.dieMisses.erase d else s.dieMisses.set d left
    misses := s.misses.map fun (m : AtsMiss) => { m with cores := m.cores.filter fun x => decide (x ≠ c) } }
  again.foldl (fun s m => s.send (m.request s)) s

/-- Deal a queued TCB again from the cursor; deterministic skeins and saved ones held to the core by a tree are failed (R115,
R465). -/
def redeal (s : State) (dead : Nat) (t : Tcb) : State :=
  let key := t.ctx * 64 + t.lid
  let tied := t.saved.isSome && s.trees.any fun x => decide (x.2.ctx = t.ctx) && (treeMask x.2.words).getLsbD dead
  if t.det || tied then
    let a := s.awayOf (asideKey t.ctx t.lid t.skein)
    let s := { s with aside := s.aside.erase (asideKey t.ctx t.lid t.skein) }
    let s := match a.skein with
      | some k => s.modCtx t.ctx fun c => { c with saves := c.saves.filter fun x => decide (x ≠ k.save.toNat) }
      | none => s
    s.modLaunch key fun l => l.count t.skein true
  else
    let places := ((List.range 128).map fun i => (s.cursor + i) % 128).filter fun i => s.alive (dealCore i)
    match (places.find? fun i => decide (queueLen s (dealCore i) t.pcls < 64)).orElse fun _ => places.head? with
    | some i => enqueue { s with cursor := (i + 1) % 128 } (dealCore i) t
    | none => s.modLaunch key fun l => l.count t.skein true

/-- A skein that was running on a dead core is failed (R465). -/
def failSkein (s : State) (sk : Nat) (k : Skein) : State :=
  let s := { s with
    plies := s.plies.filter fun _ p => decide (p.skeinKey ≠ sk)
    mons := s.mons.filter fun m => decide (m.1 / 32 ≠ sk)
    skeins := s.skeins.erase sk }
  let s := skipTickets s sk k
  let s := s.modCtx k.ctx fun c => { c with saves := c.saves.filter fun a => decide (a ≠ k.save.toNat) }
  s.modLaunch (k.ctx * 64 + k.lid) fun l => l.count k.index true

/-- A dead core (R137, R465). -/
def fenceCore (s : State) (c : Nat) : State :=
  let queued := (s.hwOf c).queues.reverse.flatten
  let bound := s.launches.filterMap fun (x : Nat × Launch) => match x.2.bound with
    | some (core, t) => if core = c then some (x.1, t) else none
    | none => none
  let mine := skeinsOn s c
  let s := mine.foldl (fun s k => failSkein s k.1 k.2) s
  let s := missesWithout s c
  let s := { discardTo (withoutCore s c) (.core c) with
    faults := s.faults.map fun (f : FRec) => { f with wait := f.wait &&& ~~~(1#128 <<< c) } }
  let s := { s with
    hw := s.hw.erase c
    parts := s.parts.filter fun k _ => decide (k / 4 ≠ c)
    launches := List.map (fun (x : Nat × Launch) => (x.1, { x.2 with held := if x.2.held.contains c then [] else x.2.held })) s.launches }
  let s := walkCore s c
  let s := { s with cores := s.cores.erase c }
  let s := queued.foldl (fun s t => redeal s c t) s
  (bound.foldl (fun s x => dealtOne (redeal s c x.2) x.1) s).pumpAll

/-- A dead L2 slice: its partner takes over; what the class table knew of is withdrawn (R137). Requests on their way to it go to the
partner, so that no access waits (R138). -/
def fenceSlice (s : State) (n : Nat) : State :=
  let home (l : Nat) : Bool := decide (homeSlice l = n)
  let partner := n ^^^ 1
  let turn (e : Endpoint) : Endpoint := if e = .slice n then .slice partner else e
  let hdr (h : Hdr) : Hdr := { h with src := turn h.src, dst := turn h.dst }
  let again (i : Instr) : Instr := match i with
    | .rd f => .rd { f with hdr := hdr f.hdr }
    | .rdo f => .rdo { f with hdr := hdr f.hdr }
    | .upg f => .upg { f with hdr := hdr f.hdr }
    | .arm f => .arm { f with hdr := hdr f.hdr }
    | .renew f => .renew { f with hdr := hdr f.hdr }
    | .wr f => .wr { f with hdr := hdr f.hdr }
    | .wb f => .wb { f with hdr := hdr f.hdr }
    | .atomq f => .atomq { f with hdr := hdr f.hdr }
    | .redp f => .redp { f with hdr := hdr f.hdr }
    | .drainack f => .drainack { f with hdr := hdr f.hdr }
    | .ack f => .ack { f with hdr := hdr f.hdr }
    | i => i
  let credits (t : Table Nat) : Table Nat :=
    if t.getD n 0 = 0 then t else (t.erase n).set partner (t.getD partner 0 + t.getD n 0)
  let lost := (s.classes.filter fun g e => home g && decide (e.cls ≠ .unseen)).keys
  let woken := s.mons.filter fun m => home m.2.1
  let s := { s with
    sliceHold := s.sliceHold.set n (s.tick + 1025)
    dir := s.dir.filter fun g _ => !home g
    tags := s.tags.filter fun g _ => !home g
    net := s.net.map again
    flits := s.flits.map fun f => { f with instr := again f.instr }
    txns := s.txns.map fun t => if t.slice = n then { t with slice := partner } else t
    cores := List.map (fun (x : Nat × CoreMem) => (x.1, { x.2 with credits := credits x.2.credits })) s.cores }
  let s := woken.foldl (fun s m => monWake s m.2.1 m.2.2) s
  (lost.foldl withdraw s).pumpAll

/-- A dead RDC slice: its neighbour takes its requests, and the answers on their way (R137). -/
def fenceRdc (s : State) (r : Nat) : State :=
  let turn (e : Endpoint) : Endpoint := if e = .rdc r then .rdc (r ^^^ 1) else e
  let again (i : Instr) : Instr := match i with
    | .rdata f => .rdata { f with hdr := { f.hdr with dst := turn f.hdr.dst } }
    | i => i
  { s with
    rdc := s.rdc.erase r
    net := s.net.map again
    flits := s.flits.map fun f => { f with instr := again f.instr }
    txns := s.txns.map fun t => { t with src := turn t.src } }

/-- A dead host port: everything outstanding on it is sent again on the next live port (R454, R456). -/
def fencePort (s : State) (p : Nat) (before : Nat → Nat) : State :=
  let s := (s.misses.filter fun m => m.sent && decide (before (s.ctx m.ctx).port = p)).foldl (fun s m =>
    s.tellHost (.atsRequest (s.livePort p) m.pasid m.vpage m.exec)) s
  let groups := ((s.faults.filter fun f => decide (f.port = p ∧ f.st = .sent)).map (·.prgi)).eraseDups
  let s := groups.foldl (fun s i =>
    let g := s.faults.filter fun f => decide (f.port = p ∧ f.st = .sent ∧ f.prgi = i)
    sendGroup s g) s
  (s.txns.filter fun t => decide (t.stage = .host ∧ dieOfSlice t.slice = p)).foldl (fun s t =>
    ((hostNeed s (s.entryFor t) t).filter fun m => t.lines.contains m.1).foldl (fun s m => s.tellHost m.2) s) s

/-- What follows the fence of an agent (R137, R462, R465). -/
def fenceAgent (s : State) (a : Agent) : State :=
  if s.fenced.contains a then s
  else
    let before := s.livePort
    let s := { s with fenced := s.fenced ++ [a] }
    match a with
    | .core c => fenceCore s c
    | .slice n => fenceSlice s n
    | .rdc r => fenceRdc s r
    | .hostPort p => fencePort s p before
    | .peerLink l => dropLink s l
    | .router _ => failAll s
    | .serviceCore _ | .optical _ => s

/-- Whether an agent has missed four heartbeats (R463): its last one is 20 µs old. -/
def missedBeats (s : State) (a : Agent) : Bool :=
  !s.fenced.contains a && s.beats.any fun (b : Agent × Nat × Nat) => decide (b.1 = a ∧ b.2.2 + 2000 ≤ s.tick)

/-- AGENT_FENCE (R137): an agent that has missed four heartbeats is fenced. The event for an agent that is not late says that the
agent has failed: its heartbeats stop, and the fence follows when four are missed. A router sends none and fails at once (log 28). -/
def execAgentFence (a : Agent) (s : State) : Out :=
  let router : Bool := match a with
    | .router _ => true
    | _ => false
  if router || missedBeats s a then .next (fenceAgent s a)
  else if (s.beats.any fun (b : Agent × Nat × Nat) => decide (b.1 = a)) && !s.silent.contains a && !s.fenced.contains a then
    .next { s with silent := s.silent ++ [a] }
  else .next s

/-- HEARTBEAT (R463). -/
def execHeartbeat (a : Agent) (seq : BitVec 16) (s : State) : Out :=
  if s.fenced.contains a || !(s.beats.any fun (b : Agent × Nat × Nat) => decide (b.1 = a)) then .next s
  else .next (noteBeat s a seq.toNat)

/-- AUTHENTICATION_FAILURE (R457): the frame is dropped; after 16 in a row the link end is fenced. -/
def execAuthenticationFailure (link : Nat) (s : State) : Out :=
  match s.links.get? link with
  | none => .next s
  | some l =>
    if !l.up || s.fenced.contains (.peerLink link) then .next s
    else
      let s := { s with links := s.links.set link { l with fails := l.fails + 1 } }
      if 16 ≤ l.fails + 1 then .next (fenceAgent s (.peerLink link)) else .next s

/-- FIBRE_LOSS (R456): the port runs at the width that remains. -/
def execFibreLoss (port fibres : Nat) (s : State) : Out :=
  .next { s with fibres := s.fibres.modify port fun n => n - fibres }

/-! ## Migration (R68) -/

/-- A region of 2 MiB as a location: in one of the decoders. -/
def regionLoc (s : State) (hpa : Nat) : Option Nat :=
  let l := s.hpaLoc hpa
  if hpa % 2 ^ 21 = 0 ∧ tierOf l ≤ 1 then some l else none

/-- Whether a cached translation still leads into a region. -/
def mapped (s : State) (loc : Nat) : Bool :=
  let meets (e : TlbEnt) : Bool := decide (e.loc < loc + 2 ^ 21 ∧ loc < e.loc + 2 ^ e.log2 * 4096)
  s.ats.any meets || s.dieTlbs.any (fun (x : Nat × List TlbEnt) => x.2.any meets) || s.cores.any fun (c : Nat × CoreMem) => c.2.tlb.any meets

/-- Whether an access, a request or a copy of a translation that leads into a region is still under way (R68, R84). -/
def underWay (s : State) (loc : Nat) : Bool :=
  let inside (k : Nat) : Bool := decide (loc ≤ k ∧ k < loc + 2 ^ 21)
  mapped s loc || !s.invals.isEmpty || (s.txns.any fun t => inside t.loc) ||
    s.cores.any fun (c : Nat × CoreMem) => c.2.trans.any fun t => inside t.2.acc.loc

/-- REGION_MIGRATION (R68): the region at one host physical address is copied to another; its pages are unmapped, and what used the old
translations is done. A replicated range does not migrate (R65). Every sector keeps the key it was written under, and the new region takes
the old one's byte of the host key map (DESIGN CHOICE, log 88: the rule names no key). -/
def execRegionMigration (src dst : Nat) (s : State) : Out :=
  match regionLoc s src, regionLoc s dst with
  | some a, some b =>
    let inside (l : Nat) (k : Nat) : Bool := decide (l ≤ k ∧ k < l + 2 ^ 21)
    if tierOf a = tierOf b || underWay s a || underWay s b || s.replicated.any fun x => inside a x.1 || inside b x.1 then .next s
    else
      let held := s.dir.filter fun g e => decide (e.st = .u) && inside a g
      let s := held.foldl (fun s x => (x.2.holders.foldl (fun s c => takePartials s c x.1 x.2) s).setDir x.1 { x.2 with st := .i, uoh := 0 }) s
      let fresh (g : Nat) : Bool := inside a g || inside b g
      let bytes := s.mem.filter fun (c : Host.Cell) => inside a c.1
      let keys := s.keyed.filter fun k _ => inside a (32 * k)
      let s := clearRange s b (2 ^ 21)
      let s := { s with
        mem := bytes.foldl (fun m (c : Host.Cell) => Memory.write m (c.1 - a + b) c.2) s.mem
        keyed := List.foldl (fun (t : Table Nat) (x : Nat × Nat) => t.set (x.1 - a / 32 + b / 32) x.2) s.keyed keys
        classes := List.filterMap (fun (x : Nat × ClassEntry) =>
          if !fresh x.1 then some x
          else if x.2.wd then some (x.1, { ClassEntry.zero with wd := true, lid := 64 }) else none) s.classes
        cores := List.map (fun (c : Nat × CoreMem) => (c.1, { c.2 with
          cls := c.2.cls.filter fun g _ => !fresh g
          l1 := c.2.l1.filter fun x _ => !inside b x })) s.cores
        rdc := List.map (fun (x : Nat × Table RdcBlock) => (x.1, x.2.filter fun y _ => !inside b y)) s.rdc
        tags := s.tags.filter fun x _ => !inside b x
        dir := s.dir.filter fun x _ => !inside b x
        hostKeys := match s.hostKeys.get? (hostRegion a) with
          | some k => s.hostKeys.set (hostRegion b) k
          | none => s.hostKeys }
      .next s
  | _, _ => .next s

/-! ## Replicas (R166) -/

/-- The replicas of a location, if a context's table makes it a master of a replicated range. -/
def replicasAt (s : State) (loc : Nat) : Option Nat :=
  s.ats.findSome? fun e =>
    if e.loc ≤ loc ∧ loc < e.loc + 2 ^ e.log2 * 4096 ∧ tierOf loc = 0 then
      let va := BitVec.ofNat 64 (e.vpage * 4096 + (loc - e.loc))
      (s.ctxs.find? fun (c : Nat × Ctx) => decide (c.2.pasid = e.pasid)).bind fun (c : Nat × Ctx) =>
        let a := attrOf c.2.rat c.2.tenant va
        if a.repl && !replBad a loc then some a.repmask else none
    else none

/-- The bytes of a granule, by offset. -/
def granuleCells (s : State) (g : Nat) : List (Nat × Byte) :=
  (s.mem.filter fun (c : Host.Cell) => decide (granuleOf c.1 = g)).map fun (c : Host.Cell) => (c.1 - g, c.2)

/-- REPLICA_COMPARE (R166): each replicated granule whose replicas differ is recorded, once every 2^21 ticks; those that have been
accessed as such, and those that a cached translation shows (log 69). A granule of which no replica holds a byte other than 0 cannot
differ. -/
def execReplicaCompare (s : State) : Out :=
  let seen := ((s.mem.filter fun (c : Host.Cell) => decide (tierOf c.1 = 0)).map fun (c : Host.Cell) => granuleOf c.1).eraseDups
  let masters := (seen.flatMap fun g => (List.range 4).map fun d => replicaLoc d g).eraseDups
  let bad := masters.filter fun g => match (s.replicated.get? g).orElse fun _ => replicasAt s g with
    | some m => (List.range 4).any fun d => m.testBit d && decide (granuleCells s (replicaLoc d g) ≠ granuleCells s g)
    | none => false
  .next { s with replicaLog := s.replicaLog ++ bad.filter fun g => !s.replicaLog.contains g }

end Sys2Proof.Machine
end

