-- ==== Sys2Proof/Machine/Module.lean ====
section
/-! DEFINITION. The module as a whole: wheel registers (R104, R513), the service cores' gates (R461), boot, recovery and attestation
(R466 to R470), watch units (R474 to R477), the power manager (R478), contexts (R462), keys (R63) and configuration (R52, R77). -/

namespace Sys2Proof.Machine

/-! ## The wheel (R103, R104, R513) -/

/-- WHEEL_REGISTER_WRITE: any value is taken; it waits for slot 0. The sixth word is the wheel turn of the write. -/
def execWheelRegisterWrite (reg : Nat) (value : DWord) (s : State) : Out :=
  if 5 ≤ reg then .next s
  else
    let now := if s.wheelNext.isEmpty then s.wheel else s.wheelNext.take 5
    .next { s with wheelNext := now.set reg (if reg = 4 then value &&& 0xFF else value) ++ [BitVec.ofNat 64 (s.mesh / 64)] }

/-- Whether slot 0 of a later wheel turn has come. -/
def wheelDue (s : State) : Bool := !s.wheelNext.isEmpty && decide ((s.wheelNext.getD 5 0).toNat < s.mesh / 64)

/-- WHEEL_SETTING_EFFECT. -/
def execWheelSettingEffect (s : State) : Out :=
  if wheelDue s then .next { s with wheel := s.wheelNext.take 5, wheelNext := [] } else .next s

/-! ## Gates of a service core (R461) -/

/-- GATE_ENTRY: a jump to an address on a service core. A trap on the service core leaves CURDOM and the stack. -/
def execGateEntry (svc : Nat) (target : DWord) (s : State) : Out :=
  match s.svcs.get? svc with
  | none => .next s
  | some c =>
    match c.gates.find? fun g => g.1 = target with
    | none => .next s
    | some (_, dom, ret) =>
      if ret then
        match c.stack with
        | [] => .next s
        | d :: rest => .next { s with svcs := s.svcs.set svc { c with curdom := d, stack := rest } }
      else if 16 ≤ c.stack.length then .next s
      else .next { s with svcs := s.svcs.set svc { c with curdom := dom % 256, stack := c.curdom :: c.stack } }

/-- The span check (R461): one span covers every byte of an access, belongs to the domain or to all, and has the right. -/
def spanAllows (c : SvcCore) (addr n right : Nat) : Bool :=
  c.spans.any fun x =>
    let f (lo w : Nat) : Nat := x.toNat / 2 ^ lo % 2 ^ w
    let base := f 76 52 * 4096
    decide (base ≤ addr ∧ addr + n ≤ base + f 56 20 * 4096) && (decide (f 48 8 = c.curdom) || decide (f 48 8 = 0)) &&
      (f 44 4).testBit right

/-! ## The firmware image (R466, R467) -/

/-- Byte of an image; what is missing is erased. -/
def imgByte (img : List Byte) (i : Nat) : Byte := img.getD i 0xFF
def imgBytes (img : List Byte) (a n : Nat) : List Byte := (img.drop a).take n ++ List.replicate (n - (img.drop a).length) 0xFF
def imgWord (img : List Byte) (n : Nat) : DWord := BitVec.ofNat 64 (valueOf (imgBytes img (8 * n) 8))
def imgBody (img : List Byte) : List Byte := imgBytes img 5376 (fieldOf (imgWord img 2) 32 32)
def imgSvn (img : List Byte) : Nat := (imgWord img 1).toNat

/-- Header bytes 0 to 63 and the body. -/
def imgSigned (img : List Byte) : List Byte := imgBytes img 0 64 ++ imgBody img

/-- MAGIC, the reserved fields, and a body length that is a multiple of 64. -/
def imgHeaderOk (img : List Byte) : Bool :=
  decide (imgWord img 0 = 0x494C563936304657#64 ∧ fieldOf (imgWord img 2) 1 31 = 0 ∧ fieldOf (imgWord img 2) 32 32 % 64 = 0) &&
  (List.range 5).all (fun i => decide (imgWord img (3 + i) = 0)) && (imgBytes img 5325 51).all fun b => decide (b = 0)

/-- The checks of R467, in order. -/
def imageOk (f : Fuses) (img : List Byte) : Bool :=
  imgHeaderOk img && decide (shake256 32 (imgBytes img 64 1952) = f.keyHash) && decide (f.svn ≤ imgSvn img) &&
    Config.mlDsaVerifies (imgBytes img 64 1952) (shake256 64 (imgSigned img)) (imgBytes img 2016 3309)

/-- The fuses after an image has passed: COMMIT raises the counter. -/
def commitFuses (f : Fuses) (img : List Byte) : Fuses := if (imgWord img 2).getLsbD 0 then { f with svn := imgSvn img } else f

/-- Whether an action comes from outside the mesh: everything but flits. -/
def outside (i : Instr) : Bool :=
  match i with
  | .rd _ | .rdo _ | .upg _ | .arm _ | .renew _ | .atsreq _ | .steal _ | .rdata _ | .wr _ | .wb _ | .atomq _ | .atomr _ | .redp _
  | .tcb _ | .nup _ | .ndown _ | .atsrsp _ | .inv _ | .down _ | .drain _ | .drainack _ | .ack _ | .wake _ | .fbwake _ | .tlbinv _
  | .answer _ | .nflush _ | .watchEvent _ _ _ _ | .preemptRequest _ _ => false
  | _ => true

/-- The agents that send heartbeats from bring-up on (R463, R468): those the defect map does not disable. Peer-link ends begin
when their link comes up. -/
def agentsAtStart (f : Fuses) : List Agent :=
  let dead (byte i : Nat) : Bool := (f.defect.getD (byte + i / 8) 0).getLsbD (i % 8)
  ((List.range 128).filter fun c => !dead 8 c).map .core ++ ((List.range 128).filter fun c => !dead 24 c).map .slice ++
    ((List.range 32).filter fun c => !dead 40 c).map .rdc ++ (List.range 8).map .serviceCore ++ (List.range 12).map .optical ++
    (List.range 4).map .hostPort

/-- BRING_UP (R468): every register at its reset value, the service cores on the firmware, the first heartbeats, READY. Actions
of the outside that were waiting still wait. -/
def bringUp (s : State) (f : Fuses) (flash : List Byte) : State :=
  { State.reset with
    phase := .running
    descAt := Config.descriptorTable
    flash := flash
    fuses := f
    free := s.free
    net := s.net.filter outside
    hostOut := s.hostOut ++ [.ready]
    beats := (agentsAtStart f).map fun a => (a, 0, 0)
    svcs := (List.range 8).map fun i => (i, ⟨0, [], (Config.firmwareSpans i).take 64, (Config.firmwareGates i).take 32⟩) }

/-- The module after its boot ROM has checked an image. -/
def boot (s : State) (flash : List Byte) : State :=
  if imageOk s.fuses flash then bringUp s (commitFuses s.fuses flash) flash
  else { State.reset with
    phase := .recovery
    flash := flash
    fuses := s.fuses
    free := s.free
    net := s.net.filter outside
    hostOut := s.hostOut }

/-- MODULE_RESET (R467). -/
def execModuleReset (s : State) : Out := .next (boot s s.flash)

/-- RECOVERY_IMAGE (R469): in recovery an image that passes is written to flash, and the module is reset. -/
def execRecoveryImage (image : List Byte) (s : State) : Out :=
  if s.phase = .recovery ∧ imageOk s.fuses image = true then .next (boot s image) else .next s

/-- The report of R470: nonce, four measurements, SVN. -/
def attestation (s : State) (nonce : List Byte) : List Byte :=
  padTo 32 nonce ++ padTo 32 Config.romMeasurement ++ shake256 32 (imgSigned s.flash) ++ shake256 32 s.fuses.defect ++
    shake256 32 (s.fuses.keyHash ++ n64 s.fuses.svn) ++ n64 (imgSvn s.flash)

/-- ATTESTATION_REQUEST (R470). -/
def execAttestationRequest (nonce : List Byte) (s : State) : Out :=
  if s.phase = .running then
    let r := attestation s nonce
    .next (s.tellHost (.report (r ++ Config.mlDsaSign (shake256 32 s.fuses.secret) r)))
  else .next s

/-! ## Watch units (R474 to R477) -/

def WatchUnit.start (cfg : DWord) : WatchUnit := ⟨cfg, 2 ^ 64 - 1, 0, 0, 0, List.replicate 16 0⟩

/-- The key of a unit, none for a unit that does not exist. -/
def unitKey (w : WatchId) : Option Nat :=
  match w with
  | .core c u => if c < 128 ∧ u < 4 then some (4 * c + u) else none
  | .die d u => if d < 4 ∧ u < 16 then some (512 + 16 * d + u) else none

/-- WCFG_WRITE (R474). -/
def execWcfgWrite (unit : WatchId) (value : DWord) (s : State) : Out :=
  match unitKey unit with
  | some k => .next { s with watch := s.watch.set k (WatchUnit.start value) }
  | none => .next s

/-- Whether a stream arises in a scope (R475). -/
def streamIn (stream : Nat) (scope : WatchScope) : Bool :=
  match scope with
  | .core _ => decide (1 ≤ stream ∧ stream ≤ 5)
  | .die _ => decide (stream = 6 ∨ stream = 8)
  | .module => decide (stream = 7 ∨ stream = 9)

/-- Whether a unit hears events of a scope. -/
def unitHears (key : Nat) (scope : WatchScope) : Bool :=
  match scope with
  | .core c => decide (key / 4 = c)
  | .die d => decide (512 ≤ key ∧ (key - 512) / 16 = d)
  | .module => decide (512 ≤ key)

/-- One event at a unit (R476). -/
def WatchUnit.take (w : WatchUnit) (v : Nat) : WatchUnit :=
  let shift := fieldOf w.cfg 39 6
  let base := fieldOf w.cfg 0 39
  let b := if !w.cfg.getLsbD 45 then Nat.log2 (v + 1) - shift else (v - base) / 2 ^ shift
  { w with
    cnt := (w.cnt + 1) % 2 ^ 64
    sum := Nat.min (w.sum + v) (2 ^ 64 - 1)
    min := Nat.min w.min v
    max := Nat.max w.max v
    bins := w.bins.modify (Nat.min b 15) fun n => Nat.min (n + 1) (2 ^ 32 - 1) }

/-- WATCH_EVENT (R475, R476). -/
def execWatchEvent (scope : WatchScope) (stream ctx v : Nat) (s : State) : Out :=
  if !streamIn stream scope then .next s
  else
    let hit (k : Nat) (w : WatchUnit) : Bool :=
      w.cfg.getLsbD 63 && unitHears k scope && decide (fieldOf w.cfg 46 8 = stream) &&
        (!w.cfg.getLsbD 62 || decide (fieldOf w.cfg 54 8 = ctx))
    .next { s with watch := List.map (fun (x : Nat × WatchUnit) => (x.1, if hit x.1 x.2 then x.2.take v else x.2)) s.watch }

/-- The record of a unit on the watch page (R477). -/
def watchRecord (s : State) (w : WatchId) : List Byte :=
  let u := match unitKey w with
    | some k => s.watch.getD k (WatchUnit.start 0)
    | none => WatchUnit.start 0
  let id := match w with
    | .core c u => c * 256 + u
    | .die d u => d * 256 + u
  w64 u.cfg ++ n64 u.min ++ n64 u.max ++ n64 u.cnt ++ n64 u.sum ++ n64 id ++ n64 0 ++ n64 0 ++ u.bins.flatMap (bytesOf 4)

/-- The watch page of a context. -/
def watchPage (c : Ctx) : DWord := c.word 13 &&& ~~~0xFFF

/-- WATCH_PAGE_WRITE (R477): SEQ odd, the records, SEQ even. -/
def execWatchPageWrite (ctx : Nat) (s : State) : Out :=
  match s.ctxs.get? ctx with
  | none => .next s
  | some c =>
    let va := watchPage c
    if !c.watchen.getLsbD 0 || decide (va = 0) || c.killed then .next s
    else match svcNeed s ctx 64 true [(va, 4096)] with
      | some s => .next s
      | none =>
        let s1 := svcPut s ctx 64 va (n64 (c.watchSeq + 1))
        let recs := c.watchUnits.flatMap (watchRecord s)
        let s2 := svcPut s1 ctx 64 (va + 64) recs
        let s3 := svcPut s2 ctx 64 va (n64 (c.watchSeq + 2))
        .next (s3.modCtx ctx fun c => { c with watchSeq := c.watchSeq + 2 })

/-! ## Power (R478) -/

/-- Degrees Celsius as a value of stream 8. -/
def celsius (t : Nat) : Nat := (t + 256) * 16

/-- POWER_WINDOW (R478): the module's watts in a window of 10 µs and each die's temperature as a value of stream 8. -/
def execPowerWindow (watts : Nat) (temps : List Nat) (s : State) : Out :=
  let s := s.send (.watchEvent .module 9 256 watts)
  let s := if s.tick % 100000 < 1000 then (temps.zipIdx).foldl (fun s x => s.send (.watchEvent (.die x.2) 8 256 x.1)) s else s
  let cut : Nat := (if 3000 < watts ∧ s.refilled < s.drawn then 100 else 0) + (if temps.any fun t => celsius 105 < t then 100 else 0)
  let calm := decide (watts < 2900) && temps.all (fun t => decide (t < celsius 100)) && decide (cut = 0)
  .next { s with
    clock := max 1800 (s.clock - cut)
    drawn := 0
    refilled := 0
    raiseAt := if calm then s.raiseAt else s.tick }

/-- Whether the clock may be raised: 1 ms of calm has passed. -/
def raiseDue (s : State) : Bool := decide (s.clock < 2700 ∧ s.raiseAt + 100000 ≤ s.tick)

/-- CLOCK_RAISE (R478). -/
def execClockRaise (s : State) : Out :=
  if raiseDue s then .next { s with clock := min 2700 (s.clock + 100), raiseAt := s.tick } else .next s

/-! ## Contexts, keys, configuration (R52, R60, R63, R64, R77, R462) -/

/-- Pad a table to its size. -/
def padList (n : Nat) (x : α) (l : List α) : List α := (l ++ List.replicate (n - l.length) x).take n

/-- Whether a context has an accepted, unfinished launch. -/
def hasLaunches (s : State) (ctx : Nat) : Bool := s.launches.any fun l => decide (l.2.ctx = ctx)

/-- A context's descriptor and tables as Bruvik writes them; a rate counter restarts where its entry is written. -/
def writeTables (c : Ctx) (x : ContextSpec) : Ctx :=
  let perms := padList 64 (0, 0) x.perms
  { c with
    desc := (List.range 32).map fun i => x.desc.getD i (descReset i)
    rat := padList 256 ⟨0, 0, 4, 0⟩ x.rat
    perms := perms
    rates := (List.range 64).map fun i =>
      if perms[i]? = c.perms[i]? then c.rates.getD i 0 else fieldOf (perms.getD i (0, 0)).1 32 16
    vectors := padList 64 0 x.vectors
    mailPasid := x.mailboxPasid
    watchUnits := x.watchUnits.take 16 }

/-- CONTEXT_CREATION (R60, R462): Bruvik writes a descriptor and the tables it names, for a new context or for one that exists. It
marks none valid before PRIEN is 1 (R79), and changes no tenant or PASID under an unfinished launch (R60). -/
def execContextCreation (x : ContextSpec) (s : State) : Out :=
  let w0 := recWord x.desc 0
  let n := fieldOf w0 56 8
  let old := s.ctx n
  let same := decide (fieldOf w0 0 20 = old.pasid ∧ fieldOf w0 53 3 = old.tenant)
  if w0.getLsbD 20 && !s.fbcfg.getLsbD 16 then .next s
  else if s.ctxs.has n && hasLaunches s n && !same then .next s
  else
    let c := if s.ctxs.has n then old else { Ctx.zero with xvec := x.xvec &&& ~~~0x7FF }
    let moved (q : Nat) : Bool := !s.ctxs.has n || decide (recWord x.desc (4 + q) ≠ old.word (4 + q))
    .next { s with
      ctxs := s.ctxs.set n (writeTables c x)
      lqs := s.lqs.filter fun k _ => !(decide (k / 8 = n) && moved (k % 8))
      hostKeys := List.foldl (fun (t : Table Nat) (y : Nat × BitVec 8) => t.set y.1 y.2.toNat) s.hostKeys x.hostKeys }

/-- CONTEXT_TEARDOWN (R462): the context goes with everything that names it, once no launch of it is unfinished or it has been
killed. -/
def execContextTeardown (ctx : Nat) (s : State) : Out :=
  if !s.ctxs.has ctx || (hasLaunches s ctx && !(s.ctx ctx).killed) then .next s
  else
    let gone := (s.trees.filter fun _ t => decide (t.ctx = ctx)).keys
    let s := clearContext s ctx
    let core (h : CoreHw) : CoreHw := { h with
      energy := h.energy.erase ctx
      trees := h.trees.filter fun t _ => !gone.contains t }
    .next { s with
      ctxs := s.ctxs.erase ctx
      launches := s.launches.filter fun _ l => decide (l.ctx ≠ ctx)
      lqs := s.lqs.filter fun k _ => decide (k / 8 ≠ ctx)
      trees := s.trees.filter fun _ t => decide (t.ctx ≠ ctx)
      nodes := s.nodes.filter fun k _ => !gone.contains (k / 64)
      faults := s.faults.map fun f => if f.ctx ≠ ctx ∨ f.st = .sent then f else { f with st := .free }
      hw := List.map (fun (h : Nat × CoreHw) => (h.1, core h.2)) s.hw }

/-- TENANT_KEY_LOAD (R63, R462): key material takes the place of what the key held before. -/
def execTenantKeyLoad (key : Nat) (s : State) : Out :=
  if key < 64 then .next { s with tenantKeys := s.tenantKeys.set key (s.tenantKeys.getD key 0 + 1) } else .next s

/-- CONFIGURATION_SPACE_WRITE (R52, R77): a decoder base aligned to the decoder's size, the page request allocation. -/
def execConfigurationSpaceWrite (w : CfgWrite) (s : State) : Out :=
  match w with
  | .decoderBase 0 b => if b % 2 ^ 38 = 0 then .next { s with dec0 := some b } else .next s
  | .decoderBase 1 b => if b % 2 ^ 41 = 0 then .next { s with dec1 := some b } else .next s
  | .decoderBase _ _ => .next s
  | .pageRequestAllocation n => .next { s with prgAlloc := n }

end Sys2Proof.Machine
end

