-- ==== Sys2Proof/Machine/Quantum.lean ====
section
/-! DEFINITION. Deterministic execution (R388 to R392): who has stopped, the serial phase, the quantum boundary. -/

namespace Sys2Proof.Machine

/-- Waits that hold a ply until a quantum boundary (R391): for other plies of the context, or for a message. Waits for a page, for
room or for a cycle end by themselves. -/
def stopKind (c : Cond) : Bool :=
  match c with
  | .phase _ _ | .queueRoom _ | .queueToken _ | .ticket _ _ | .timeline _ _ | .tile _ _ _ _ | .tileEntry | .batch _ | .spindle | .vacq
  | .monitor _ | .poll _ _ | .ui _ | .tree _ => true
  | _ => false

/-- A trap that waits for a context bank that another ply holds: only others can end it. -/
def haltsQuantum (s : State) (key : Nat) (p : Ply) : Bool :=
  match p.park with
  | .trap _ _ _ => p.landable && (bankFor s (s.part p.partKey) key (p.tl + 1)).isNone
  | _ => false

/-- The quantum of a ply's launch (R388, R391). -/
def State.quantumOf (s : State) (p : Ply) : Nat := recDetq (s.launchRec p) + 1

/-- The plies of a context that run in deterministic mode, in ascending logical index (R389). -/
def detPlies (s : State) (ctx : Nat) : List (Nat × Ply) :=
  let mine := List.filter (fun (x : Nat × Ply) => decide (x.2.ctx = ctx) && s.det x.2) s.plies
  let insert (x : Nat × Ply) (l : List (Nat × Ply)) : List (Nat × Ply) :=
    l.takeWhile (fun y => decide (y.2.logic ≤ x.2.logic)) ++ [x] ++ l.dropWhile fun y => decide (y.2.logic ≤ x.2.logic)
  mine.foldr insert []

/-- A ply has come to a serial action: it stops, and takes its place in the serial phase by its logical index (R391). -/
def noteSerial (s : State) (ctx key : Nat) (p : Ply) : State :=
  let before (k : Nat) : Bool := match s.plies.get? k with
    | some q => decide (q.logic < p.logic)
    | none => true
  (s.modPly key fun p => { p with stopped := true }).modCtx ctx fun c =>
    { c with serial := c.serial.takeWhile before ++ [key] ++ c.serial.dropWhile before }

/-- Whether the head of the serial phase has finished its action: it has issued or parked, its accesses are performed, its copies
whole. -/
def serialDone (s : State) (key : Nat) : Bool :=
  match s.plies.get? key with
  | none => true
  | some p => (p.stopped || haltsQuantum s key p) && decide (p.strict = 0) && p.work.isNone &&
    match s.skein? p with
    | some k => !k.eng.copies.any fun c => decide (c.issuer = p.plyid)
    | none => true

/-- Whether a quantum boundary step is due for a context: the parallel phase is over (the stops
are counted over the mesh, R391, so that it ends in a later cycle than it began, log 46), the head of the serial phase has finished, or
the serial phase is over. -/
def quantumDue (s : State) (ctx : Nat) : Bool :=
  let c := s.ctx ctx
  let ps := detPlies s ctx
  !ps.isEmpty && !c.killed && !c.suspended &&
    (if !c.inSerial then decide (c.quantAt < s.cycle) && ps.all fun x => x.2.stopped || haltsQuantum s x.1 x.2
     else match c.serial with
      | [] => true
      | h :: _ => serialDone s h)

/-- Let the next ply of the serial phase run. -/
def startSerial (s : State) (l : List Nat) : State :=
  match l with
  | [] => s
  | h :: _ => s.modPly h fun p => { p with stopped := false }

/-- The next quantum: every count is 0, every wait is evaluated, and POLL has no back-off (R391). -/
def nextQuantum (s : State) (ctx : Nat) : State :=
  let s := (detPlies s ctx).foldl (fun s x => s.modPly x.1 fun p => { p with
    quant := 0
    park := match p.park with
      | .wait (.poll _ h) => .wait (.poll 0 h)
      | k => k
    stopped := match x.2.park with
      | .wait (.poll _ _) => false
      | .wait c => stopKind c && !waitOver s x.1 x.2 c
      | _ => false }) s
  s.modCtx ctx fun c => { c with inSerial := false, serial := [], quantum := c.quantum + 1, quantAt := s.cycle }

/-- QUANTUM_BOUNDARY (R391). -/
def execQuantumBoundary (ctx : Nat) (s : State) : Out :=
  if !quantumDue s ctx then .next s
  else
    let c := s.ctx ctx
    if !c.inSerial then
      .next (startSerial (s.modCtx ctx fun c => { c with inSerial := true }) c.serial)
    else match c.serial with
      | [] => .next (nextQuantum s ctx)
      | h :: rest =>
        let s := s.modPly h fun p => { p with stopped := true }
        .next (startSerial (s.modCtx ctx fun c => { c with serial := rest }) rest)

end Sys2Proof.Machine
end

