-- ==== Sys2Proof/Machine/Fetch.lean ====
section
/-! DEFINITION. Instruction fetch (R18 to R22, R73): the parcels at the PC, their translation and its traps. -/

namespace Sys2Proof.Machine

/-- What the fetch of one parcel gives: the parcel, a trap, a page to wait for, a page held that is present for no access, an entry to
bring into the core TLB, or a line that its home has to get from the host. -/
inductive Parcel1 where
  | ok (p : Parcel)
  | trap (cause : Nat) (val : DWord)
  | miss (page : Nat)
  | denied (page : Nat)
  | fill (e : TlbEnt)
  | line (va : DWord) (loc : Nat)
deriving DecidableEq, Repr

/-- What a ply asks of a home for a line of code. -/
def codeTxn (s : State) (key : Nat) (p : Ply) (a : Attr) (loc : Nat) : Txn :=
  { Txn.blank s .code (loc / 64 * 64) a.grain with
    who := .ply key, core := p.core, ten := (s.ctx p.ctx).tenant, size := 64, key := a.key, aux := a.cls }

/-- Whether the module has the bytes at a location: no line of host memory is missing, no line of device memory is the host's (R135,
R136). -/
def codeHere (s : State) (p : Ply) (a : Attr) (loc : Nat) : Bool :=
  let t := codeTxn s 0 p a loc
  (hostNeed s (s.entryFor t) t).isEmpty

/-- The parcel at a location (R21): what the core's instruction cache holds for the launch, or what memory holds where the module has it;
which of the two is free when they differ. None while the host has to give it. -/
def parcelAt (s : State) (p : Ply) (a : Attr) (loc : Nat) : Option Parcel :=
  let now : Parcel := BitVec.ofNat 16 (s.readLoc a.key loc 2)
  let kept : Option Parcel := match (s.core p.core).code.get? loc with
    | some x => if x.launch = p.ctx * 64 + p.lid ∧ x.key = a.key then some x.parcel else none
    | none => none
  if codeHere s p a loc then
    match kept with
    | some x => some (if x ≠ now ∧ Config.staleCode p.core s.cycle loc = true then x else now)
    | none => some now
  else kept

/-- Fetch the parcel at an address (R20). -/
def fetchParcel (s : State) (p : Ply) (va : DWord) : Parcel1 :=
  let page := pageOf va
  let a := s.attrAt p.core p.ctx p.lid va
  let bad (loc : Nat) : Bool :=
    attrBad a || replBad a loc || (decide (tierOf loc ≤ 1) && decide (a.key / 8 ≠ (s.ctx p.ctx).tenant))
  let mine := decide (p.waited = some (page, true))
  if mine && decide (p.verdict = .prot) then .trap causePROT va
  else if !canonical va then .trap causePROT va
  else if mine && decide (p.verdict = .xlate) then .trap causeXLATE va
  else if a.target ≠ 0 then .trap causePROT va
  else match lookup s p.core (s.ctx p.ctx).pasid va false false true with
    | .ok loc =>
      if bad loc then .trap causePROT va
      else match parcelAt s p a loc with
        | some q => .ok q
        | none => .line va loc
    | .prot => .trap causePROT va
    | .lost loc => if bad loc then .trap causePROT va else .trap causeMEMLOST (va &&& ~~~0xFFF)
    | .fill e => .fill (e.forLaunch s p.ctx p.lid)
    | .miss => .miss page
    | .denied => if 1 ≤ p.tl then .trap causeXLATE va else .denied page

/-- What the fetch of an instruction gives: the instruction, an encoding that is none, or what stopped a parcel. -/
inductive Fetched where
  | ok (i : Instr)
  | illegal (enc : DWord)
  | stop (r : Parcel1)
deriving DecidableEq, Repr

/-- The bytes of a parcel, lowest address first. -/
def parcelBytes (p : Parcel) : List Byte := [p.extractLsb' 0 8, p.extractLsb' 8 8]

/-- Decode bytes; an encoding that is not an instruction is kept for XVAL (R40). -/
def decodeOr (bytes : List Byte) (enc : DWord) : Fetched :=
  match decodeBytes bytes with
  | .ok (i, _) => .ok i
  | .error _ => .illegal enc

/-- Fetch the instruction at a ply's PC: one parcel, or two when bit 0 of the first is set (R18). -/
def fetch (s : State) (p : Ply) : Fetched :=
  match fetchParcel s p p.pc with
  | .ok lo =>
    if lo.getLsbD 0 then
      match fetchParcel s p (p.pc + 2) with
      | .ok hi => decodeOr (parcelBytes lo ++ parcelBytes hi) ((hi ++ lo).setWidth 64)
      | r => .stop r
    else decodeOr (parcelBytes lo) (lo.setWidth 64)
  | r => .stop r

/-- The instruction cache holds a parcel that has been fetched from memory (R12). -/
def keepParcel (s : State) (p : Ply) (va : DWord) : State :=
  match lookup s p.core (s.ctx p.ctx).pasid va false false true with
  | .ok loc =>
    let a := s.attrAt p.core p.ctx p.lid va
    if parcelAt s p a loc = some (BitVec.ofNat 16 (s.readLoc a.key loc 2)) then s.cacheParcel p.core (p.ctx * 64 + p.lid) a.key loc else s
  | _ => s

/-- The parcels of an instruction that has been fetched are kept. -/
def keepCode (s : State) (p : Ply) (i : Instr) : State :=
  let s1 := keepParcel s p p.pc
  if (encode i).size = 4 then keepParcel s1 p (p.pc + 2) else s1

/-- A ply whose instruction could not be fetched: it traps, or parks until its page is translated or its line has come
(R20, R73). -/
def fetchStopped (s : State) (key : Nat) (p : Ply) (r : Parcel1) : State :=
  match r with
  | .ok _ => s
  | .trap cause val => takeTrap (if cause = causeMEMLOST then markLost s p else s) key cause val p.pc
  | .miss page =>
    (sendAts s p.core p.ctx page true).modPly key fun q =>
      { q.waitOn (.page page false false true false) q.stage q.held with verdict := .retry }
  | .denied page =>
    (faultPage s p.core p.ctx page false false true).modPly key fun q =>
      { q.waitOn (.page page false false true true) q.stage q.held with verdict := .retry }
  | .fill e => (s.fillCore p.core e).modPly key Ply.dropLatches
  | .line va loc =>
    let t := codeTxn s key p (s.attrAt p.core p.ctx p.lid va) loc
    let asked := s.txns.any fun o => decide (o.kind = .code ∧ o.core = p.core ∧ o.loc = t.loc)
    (if asked then s else (addTxn s t).pumpAll).modPly key fun q => q.waitOn (.code t.loc) q.stage q.held

end Sys2Proof.Machine
end

