-- ==== Sys2Proof/Machine/Schedule.lean ====
section
/-! DEFINITION. What happens next: the choice of a ply (R384 to R387, R390), the internal steps that are due, and time (R5, R14,
R15). -/

namespace Sys2Proof.Machine

/-! ## Ready plies (R384) -/

/-- The cycle from which a ply that is not parked can issue its next instruction. -/
def readyTime (s : State) (key : Nat) (p : Ply) : Option Nat :=
  if awake s key p then
    some (match fetch s p with
      | .ok i => p.readyAt i
      | _ => p.nextAt)
  else none

/-- A ply that can issue at the current cycle. -/
def readyNow (s : State) (x : Nat × Ply) : Bool :=
  match readyTime s x.1 x.2 with
  | some t => decide (t ≤ s.cycle)
  | none => false

/-- Cycles for which the next instruction of a ply holds the issue stage. -/
def holdOf (s : State) (p : Ply) : Nat :=
  match fetch s p with
  | .ok i => p.hold i
  | _ => 1

/-- Age order: resident longer, ties to the lower plyid; a ply that has just yielded comes last (R384, R364). -/
def older (a b : Nat × Ply) : Bool :=
  if a.2.yielded ≠ b.2.yielded then b.2.yielded
  else decide (a.2.residentAt < b.2.residentAt ∨ (a.2.residentAt = b.2.residentAt ∧ a.2.plyid < b.2.plyid))

def oldest (l : List (Nat × Ply)) : Option (Nat × Ply) :=
  l.foldl (fun (a : Option (Nat × Ply)) x => match a with
    | none => some x
    | some y => if older x y then some x else some y) none

/-! ## Packing (R386, R387) -/

/-- Quarters that an instruction of a ply could take, lowest first: none when it cannot be packed. -/
def quarterSets (s : State) (p : Ply) : List (BitVec 4) :=
  match fetch s p with
  | .ok i =>
    if i.shape.uniform || !(decide (i.shape.pipe = .x) || decide (i.shape.pipe = .y)) then []
    else if p.width = 8 then [1, 2, 4, 8]
    else if p.width = 16 then [3, 12]
    else []
  | _ => []

/-- The quarters a ply takes beside those in use. -/
def takeQuarters (s : State) (p : Ply) (used : BitVec 4) : Option (BitVec 4) := (quarterSets s p).find? fun q => q &&& used = 0

/-- Whether an instruction can be packed: its conflict count is 0. -/
def packable (s : State) (p : Ply) : Bool :=
  match fetch s p with
  | .ok i => decide (p.conflicts i = 0)
  | _ => false

/-! ## The choice (R384, R390) -/

/-- How a chosen ply issues: as the current ply, or beside it. -/
inductive Turn where
  | current | beside
deriving DecidableEq, Repr

/-- The choice in normal mode. -/
def chooseNormal (s : State) (pt : Part) (l : List (Nat × Ply)) : Option (Nat × Turn) :=
  let ready := l.filter (readyNow s)
  if pt.stageFree ≤ s.cycle then
    match oldest (ready.filter fun x => x.2.aged) with
    | some x => some (x.1, .current)
    | none =>
      let cur := match pt.current with
        | some k => l.find? fun x => x.1 = k
        | none => none
      match cur with
      | some c =>
        if readyNow s c then some (c.1, .current)
        else match readyTime s c.1 c.2 with
          | some r =>
            match oldest (ready.filter fun x => decide (s.cycle + holdOf s x.2 ≤ r)) with
            | some x => some (x.1, .beside)
            | none => (oldest ready).map fun (x : Nat × Ply) => (x.1, Turn.current)
          | none => (oldest ready).map fun (x : Nat × Ply) => (x.1, Turn.current)
      | none => (oldest ready).map fun (x : Nat × Ply) => (x.1, Turn.current)
  else if pt.packAt = s.cycle ∧ pt.packQuarters ≠ 0 then
    (oldest (ready.filter fun x => packable s x.2 && (takeQuarters s x.2 pt.packQuarters).isSome)).map fun (x : Nat × Ply) => (x.1, Turn.beside)
  else none

/-- The lowest logical index. -/
def lowest (l : List (Nat × Ply)) : Option (Nat × Ply) :=
  l.foldl (fun (a : Option (Nat × Ply)) x => match a with
    | none => some x
    | some y => if y.2.yielded ≠ x.2.yielded then (if y.2.yielded then some x else some y)
      else if x.2.logic < y.2.logic then some x else some y) none

/-- The choice in deterministic mode (R390, R391): in the serial phase only the ply whose turn it is. -/
def chooseDet (s : State) (pt : Part) (ctx : Nat) (l : List (Nat × Ply)) : Option (Nat × Turn) :=
  let c := s.ctx ctx
  if s.cycle < pt.stageFree then none
  else if c.inSerial then
    match c.serial.head? with
    | some h => ((l.find? fun x => x.1 = h).filter (readyNow s)).map fun (x : Nat × Ply) => (x.1, Turn.current)
    | none => none
  else
    let cur := match pt.current with
      | some k => l.find? fun x => decide (x.1 = k) && !x.2.stopped && !haltsQuantum s x.1 x.2
      | none => none
    match cur with
    | some x => if readyNow s x then some (x.1, .current) else none
    | none => (lowest (l.filter (readyNow s))).map fun (x : Nat × Ply) => (x.1, Turn.current)

/-- The choice of a partition. -/
def choosePart (s : State) (pk : Nat) : Option (Nat × Turn) :=
  let l := List.filter (fun (x : Nat × Ply) => decide (x.2.partKey = pk)) s.plies
  match l.find? fun x => s.det x.2 with
  | some d => chooseDet s (s.part pk) d.2.ctx l
  | none => chooseNormal s (s.part pk) l

/-- The least of a list by a measure, the first of equals. -/
def leastBy (f : α → Nat) (l : List α) : Option α :=
  l.foldl (fun (a : Option α) x => match a with
    | none => some x
    | some y => if f x < f y then some x else some y) none

/-- Whether what a ply does next is ordered by partition among the plies of its core: it may open a batch (R327), append a launch
(R394), or kill its context by a trap at TL2 (R437). -/
def byPartition (s : State) (key : Nat) : Bool :=
  match s.plies.get? key with
  | some p => decide (p.tl = 2) || (match fetch s p with
    | .ok (.mma ..) | .ok (.mcloseResume ..) | .ok (.spawn ..) => true
    | _ => false)
  | none => false

/-- The ply that issues next, of those that the partitions have chosen for this cycle: core after core, on a core in ascending ply index
(R190, R366), and by partition where the rules say so (R327, R394, R437). -/
def chooseTurn (s : State) : Option (Nat × Turn) :=
  let l := ((List.map (fun (x : Nat × Ply) => x.2.partKey) s.plies).eraseDups).filterMap (choosePart s)
  match leastBy (fun x => x.1 / 512 * 32 + x.1 % 32) l with
  | none => none
  | some x =>
    if byPartition s x.1 then leastBy (fun y => y.1 % 4) (l.filter fun y => decide (y.1 / 512 = x.1 / 512) && byPartition s y.1)
    else some x

/-! ## Messages (R91 to R105) -/

/-- The message that is delivered next, and the state without it: the oldest flit that its sink has taken, else the oldest message
that crosses no mesh (an action of the outside, an event of a unit). -/
def takeNet (s : State) : Option (Instr × State) :=
  match takeFlit s with
  | some x => some x
  | none => match s.net.find? fun i => !crosses i with
    | some i => some (i, { s with net := s.net.erase i })
    | none => none

/-- An encoded instruction is no message. -/
def isMessage (i : Instr) : Bool := decide (encode i = .none)

/-- What recovery answers (R469). -/
def inRecovery (i : Instr) : Bool :=
  match i with
  | .recoveryImage _ | .moduleReset => true
  | _ => false

/-! ## Steps that are due -/

/-- Whether a parked trap entry can go on (R249, R433). -/
def entryDue (s : State) (key : Nat) (p : Ply) : Bool :=
  p.landable && decide (p.strict = 0) &&
    ((bankFor s (s.part p.partKey) key (p.tl + 1)).isSome || !(s.part p.partKey).bankWait.contains key)

/-- Whether a ply may be diverted now: a deterministic one only at the end of a serial phase (R391, R420). -/
def divertDue (s : State) (key : Nat) (p : Ply) : Bool :=
  (divertVector s key p).isSome && (!s.det p || ((s.ctx p.ctx).inSerial && (s.ctx p.ctx).serial.isEmpty))

/-- A ply that has been ready for 512 cycles without issuing (R385); deterministic plies do not age (R390). -/
def ageDue (s : State) (key : Nat) (p : Ply) : Bool :=
  awake s key p && !p.aged && !s.det p && decide (max p.wakeAt p.nextAt + 512 ≤ s.cycle)

/-- The step that is due for a ply. -/
def plyDue (s : State) (key : Nat) (p : Ply) : Option Out :=
  let age := if ageDue s key p then some (execPlyAging key s) else none
  if p.frozen then none
  else if (asyncCause p).isSome then some (execTrapEntry key s)
  else match p.park with
    | .trap _ _ _ => if entryDue s key p then some (execTrapEntry key s) else none
    | .retire => if retireDue s key p then some (execPlyRetirement key s) else none
    | .none => age
    | k =>
      if divertDue s key p then some (execUserInterruptDiversion key s)
      else if landingDue p then some (execSwitchPointLanding key s)
      else match k with
        | .wait (.monitor (some t)) => if t ≤ s.tick ∧ p.stage ≠ 2 then some (execWaitmTimeout key s) else age
        | .wait (.ui (some t)) => if t ≤ s.tick ∧ p.stage ≠ 2 then some (execUiwaitTimeout key s) else age
        | .wait (.poll t _) => if t ≠ 0 ∧ t ≤ s.cycle ∧ !s.det p then some (execPollRetry key s) else age
        | _ => age

/-- The step that is due for a skein. -/
def skeinDue (s : State) (sk : Nat) (k : Skein) : Option Out :=
  match k.eng.copies.find? fun c => c.phase = .done with
  | some c => some (execCopyDone sk c.n s)
  | none => match (List.range 16).find? (phaseDue s sk k) with
    | some b => some (execBarrierPhaseCompletion sk b s)
    | none => if orphanNow s sk k then some (execOrphanDetection sk s) else none

/-- Whether the copy engine of a core has a chunk to serve (R204). -/
def copyDue (s : State) (core : Nat) (h : CoreHw) : Bool :=
  match h.serving with
  | some (sk, n) => match findCopy s sk n with
    | some (_, c) => !c.waiting && !c.portWaits s sk
    | none => true
  | none => !(eligible s core).isEmpty

/-- A batch whose last unit has been written (R326). -/
def batchDue (s : State) (core : Nat) : Option Nat :=
  (List.range 4).find? fun i =>
    (s.spindle core i).drained

/-- Whether a step has asked for a page, or written to the host or to a queue. -/
def moved (s s' : State) : Bool :=
  decide (s'.hostOut.length ≠ s.hostOut.length) || decide (s'.misses.length ≠ s.misses.length) || decide (s'.lqs ≠ s.lqs) ||
    decide (s'.launches.length ≠ s.launches.length) || decide (s'.skeins.length ≠ s.skeins.length) ||
    decide (s'.faults.length ≠ s.faults.length ∨ s'.nextTxn ≠ s.nextTxn)

/-- Keep a step only if a test says that it has changed something. -/
def onlyIf (f : State → Bool) (o : Out) : Option Out :=
  match o with
  | .next s' => if f s' then some o else none
  | _ => none

/-- The step that is due for a core. -/
def coreDue (s : State) (core : Nat) (h : CoreHw) : Option Out :=
  if copyDue s core h then some (execCopyChunkServe core s)
  else match batchDue s core with
    | some i => some (execBatchComplete core i s)
    | none =>
      match (if (nextStart s core).isSome then onlyIf (moved s) (execSkeinStart core s) else none) with
      | some o => some o
      | none => match h.steal.backoff with
        | some t => if t ≤ s.mesh then some (execStealBackoffExpiry core s) else none
        | none => none

/-- An idle core asks a victim while some core has TCBs to give (R380). -/
def stealDue (s : State) : Option Out :=
  if s.hw.any fun (h : Nat × CoreHw) => !(donation s h.1).isEmpty then
    ((List.range 128).find? (stealReady s)).map fun c => .next (askVictim s c)
  else none

/-- The step that is due for a launch. -/
def launchDue (s : State) (l : Launch) : Option Out :=
  if dealReady s l then some (execSkeinDeal l.ctx l.lid s)
  else if gangs s l && ((gangPlace s l).isSome || l.gangAt.isNone) then onlyIf (fun s' => moved s s' || decide (s'.launches ≠ s.launches)) (execGangPlacement l.ctx l.lid s)
  else if reservationDue s l && (gangCores s l).isSome then some (execGangReservation l.ctx l.lid s)
  else if starveDue s l then some (execStarveCount l.ctx l.lid s)
  else match (List.range 8).find? fun c => (l.chains.getD c Chain.zero).done.has (l.chains.getD c Chain.zero).h with
    | some c => some (execTicketChainAdvance l.ctx l.lid c s)
    | none =>
      if l.st = .dealt ∧ l.ended = recNskein l.lrec ∧ boundaryMoves s l = true then
        some (execKernelBoundary l.ctx l.lid s)
      else none

/-- Whether a kill still has something to do (R437). -/
def killMoves (s : State) (ctx : Nat) (s' : State) : Bool :=
  let c := s.ctx ctx
  let c' := s'.ctx ctx
  moved s s' || decide (c'.killRec ≠ c.killRec ∨ c'.killStep ≠ c.killStep) || decide (s'.plies.length ≠ s.plies.length) ||
    decide (s'.launches ≠ s.launches)

/-- The step that is due for a context. -/
def ctxDue (s : State) (ctx : Nat) (c : Ctx) : Option Out :=
  match (if c.killRec.isSome then onlyIf (killMoves s ctx) (execKillRecordWrite ctx s) else none) with
  | some o => some o
  | none =>
    if quantumDue s ctx then some (execQuantumBoundary ctx s)
    else if watchdogDue s ctx then some (execWatchdogExpiry ctx s)
    else (List.range 8).findSome? fun q =>
      match (if (nextToComplete s ctx q).isSome then onlyIf (moved s) (execCompletionRecordWrite ctx q s) else none) with
      | some o => some o
      | none => if accepts s ctx q then onlyIf (moved s) (execLaunchAcceptance ctx q s) else none

/-- The step that is due at the homes and on the service die. -/
def memoryDue (s : State) : Option Out :=
  if (firstMove s [] s.txns).isSome then some (.next s.pumpAll)
  else if !(batchOf s).isEmpty then some (execFaultBatchClose s)
  else match s.faults.find? fun f => f.st = .wake with
  | some f => some (.next (wakeRecord s f))
  | none =>
    match s.invals.find? fun x => !(invalCollects s x).isEmpty || !invalBusy s x.1 x.2.1 x.2.2 with
    | some x => some (execInvalidateCompletion x.1 x.2.1 s)
    | none => match s.trees.keys.find? (treeLate s) with
      | some t => some (execTreeTimeout t s)
      | none =>
        if wheelDue s then some (execWheelSettingEffect s)
        else if raiseDue s then some (execClockRaise s)
        else match s.beats.find? fun (b : Agent × Nat × Nat) => missedBeats s b.1 with
          | some b => some (execAgentFence b.1 s)
          | none => none

/-! ## Time -/

/-- Arithmetic cycles in a tick (R14). -/
def tickLen (s : State) : Nat := s.clock / 100

def tickDue (s : State) : Bool := decide (s.tickAt + tickLen s ≤ s.cycle)

/-- A state's next, for the steps that always have one. -/
def nextOr (s : State) (o : Out) : State :=
  match o with
  | .next s' => s'
  | _ => s

/-- The heartbeats of the agents that live (R463). -/
def beatAll (s : State) : State :=
  { s with beats := List.map (fun (b : Agent × Nat × Nat) =>
      let ext : Bool := match b.1 with
        | .peerLink _ => true
        | _ => false
      if ext || s.silent.contains b.1 || s.fenced.contains b.1 then b else (b.1, (b.2.1 + 1) % 2 ^ 16, s.tick)) s.beats }

/-- What falls on a tick: the watchdog counts (R410), the refills and reloads of every microsecond (R333, R413), quiescent skeins (R407), heartbeats (R463),
watch pages (R477), the sweep of leases and the comparison of replicas (R124, R166). -/
def atTick (s : State) : State :=
  let s := s.ctxs.keys.foldl watchdogTick s
  let s := if s.tick % 100 = 0 then nextOr s (execRateCounterReload (nextOr s (execBudgetRefill s))) else s
  let s := if s.tick % 50 = 0 then s.skeins.keys.foldl (fun s k => nextOr s (execOrphanDetection k s)) s else s
  let s := if s.tick % 500 = 0 then beatAll s else s
  let s := if s.tick % 1024 = 0 then s.ctxs.keys.foldl (fun s c => nextOr s (execWatchPageWrite c s)) s else s
  if s.tick % 2 ^ 21 = 0 then nextOr s (execReplicaCompare (nextOr s (execBurnisherSweep s))) else s

/-- One lease-clock tick. -/
def tickStep (s : State) : State := atTick { s with tick := s.tick + 1, tickAt := s.tickAt + tickLen s }

/-- A spindle's slot that has come (R214, R328): the core, the partition, the slot. -/
def spinDue (s : State) : Option (Nat × Nat × Nat) :=
  s.hw.findSome? fun (h : Nat × CoreHw) => (h.2.spindles.zipIdx).findSome? fun x => match x.1.nextSlot x.2 with
    | some t => if t ≤ s.cycle then some (h.1, x.2, t) else none
    | none => none

/-- The step that is due, if any. The slots of port A come before what else happens in their cycle, so that an instruction which issues in
the last slot of a window finds it served (R330). -/
def dueStep (s : State) : Option Out :=
  if tickDue s then some (.next (tickStep s))
  else if meshDue s then some (.next (meshStep s))
  else if let some (c, i, t) := spinDue s then some (.next (serveSpindle s c i t))
  else match s.plies.findSome? fun (x : Nat × Ply) => plyDue s x.1 x.2 with
    | some o => some o
    | none => match s.parts.keys.find? fun k => (grantDue s k).isSome with
      | some k => some (execVacqGrant (k / 4) (k % 4) s)
      | none => match s.skeins.findSome? fun (x : Nat × Skein) => skeinDue s x.1 x.2 with
        | some o => some o
        | none => match s.hw.findSome? fun (x : Nat × CoreHw) => coreDue s x.1 x.2 with
          | some o => some o
          | none => match s.launches.findSome? fun (x : Nat × Launch) => launchDue s x.2 with
            | some o => some o
            | none => match s.ctxs.findSome? fun (x : Nat × Ctx) => ctxDue s x.1 x.2 with
              | some o => some o
              | none => match memoryDue s with
                | some o => some o
                | none => stealDue s

/-- Cycles at which something of a ply may become possible. -/
def plyTimes (p : Ply) : List Nat :=
  [p.nextAt, p.drainAt, p.tileAt, p.spinAt] ++ p.slotTimes ++ match p.park with
    | .wait (.cycle t) => [t]
    | .wait (.poll t _) => [t]
    | _ => []

/-- The next cycle at which something may happen: the end of the tick at the latest. -/
def nextTime (s : State) : Nat :=
  let plies := s.plies.flatMap fun (x : Nat × Ply) => plyTimes x.2
  let parts := List.map (fun (x : Nat × Part) => x.2.stageFree) s.parts
  let spins := s.hw.flatMap fun (h : Nat × CoreHw) => h.2.spindles.flatMap fun x => [x.window]
  let spinSlots := s.hw.flatMap fun (h : Nat × CoreHw) => (h.2.spindles.zipIdx).filterMap fun x => x.1.nextSlot x.2
  let ports := List.filterMap (fun (h : Nat × CoreHw) => match h.2.serving with
    | some (sk, n) => match findCopy s sk n with
      | some (_, c) => if !c.waiting && c.portWaits s sk then some (max (s.cycle + 1 + s.cycle % 2) (h.2.clearTo + 2)) else none
      | none => none
    | none => none) s.hw
  let mesh := if s.flits.isEmpty && !(s.hw.any fun x => decide (s.meshBy 1 ≤ x.2.startAt)) then [] else [s.cycle + 1]
  ((plies ++ parts ++ spins ++ spinSlots ++ ports ++ mesh).filter fun t => decide (s.cycle < t)).foldl min (s.tickAt + tickLen s)

/-- Streams 2 and 3 of a core (R475): the landing entries in use and the eligible copies. -/
def sampleCore (s : State) (core : Nat) : State :=
  let used := s.plies.foldl (fun n x => if x.2.core = core then n + (x.2.out.map (·.blocks)).sum else n) 0
  (s.noteCore core 2 256 used).noteCore core 3 256 (eligible s core).length

/-- Whether a thread's slot of port B has come in this cycle or before (R214, R221). -/
def slotDue (s : State) : Bool := s.plies.any fun p => p.2.slotTimes.any fun t => decide (t ≤ s.cycle)

/-- Nothing can happen in the cycles up to the next time; a multiple of 64 among them is a time of sampling (R475). The plies that
cannot issue are ready no earlier than then (R385). -/
def idle (s : State) : State :=
  let t := max (s.cycle + 1) (nextTime s)
  let cores := ((s.watch.keys.filter fun k => decide (k < 512)).map (· / 4)).eraseDups
  let s := if s.cycle / 64 = t / 64 then s else cores.foldl sampleCore s
  { s with
    cycle := t
    plies := List.map (fun (x : Nat × Ply) => (x.1, if readyNow s x then x.2 else { x.2 with wakeAt := t })) s.plies }

/-! ## A turn -/

/-- The ply's partition before an issue: standings of earlier YIELDs end (R364), the ply becomes current unless it issues beside the current
one, and the quarters in use are noted, those of a fill as well (R384, R387). -/
def takeTurn (s : State) (key : Nat) (p : Ply) (turn : Turn) : State :=
  let s := { s with
    cur := some key
    plies := List.map (fun (x : Nat × Ply) => (x.1, if x.2.partKey = p.partKey ∧ x.2.yielded = true then { x.2 with yielded := false } else x.2))
      s.plies }
  let used := (s.part p.partKey).packQuarters
  s.modPart p.partKey fun pt => match turn with
    | .current => { pt with current := some key, packAt := s.cycle, packQuarters := (takeQuarters s p 0).getD 0 }
    | .beside =>
      if pt.packAt = s.cycle ∧ s.cycle < pt.stageFree then { pt with packQuarters := pt.packQuarters ||| (takeQuarters s p used).getD 0 }
      else { pt with packAt := s.cycle, packQuarters := (takeQuarters s p 0).getD 0 }

/-- Waits proper: an instruction of these that retires is no progress for the watchdog (R410). -/
def isWait (i : Instr) : Bool :=
  match i with
  | .bar .. | .barw .. | .qpop .. | .qpush .. | .twait .. | .tlwait .. | .mwait .. | .tktTake .. | .tktWaitp .. | .vacq .. | .waitm ..
  | .poll .. | .uiwait .. | .waitf .. => true
  | _ => false

/-- The deterministic ply's standing after an instruction (R391): it stops at its quota and in a wait for others; in the serial phase
its turn ends with the instruction. -/
def settleDet (s : State) (key : Nat) (before : Ply) (p : Ply) : State :=
  let halts := match p.park with
    | .wait c => stopKind c
    | _ => false
  let serial := (s.ctx p.ctx).inSerial
  let ended := decide (p.retired ≠ before.retired) || (match p.park with
    | .wait c => stopKind c
    | .none => decide (p.tl ≠ before.tl)
    | _ => true)
  s.modPly key fun p => { p with stopped := p.stopped || halts || decide (s.quantumOf p ≤ p.quant) || (serial && ended) }

/-- After an instruction: nobody holds the turn, a ply that waits is not asked again in the same cycle, a YIELD ends the standing as
the current ply, and work that was done restarts the watchdog (R364, R384, R410). -/
def settle (s0 : State) (key : Nat) (before : Ply) (i : Instr) (s : State) : State :=
  let s := { s with cur := none }
  match s.plies.get? key with
  | none => if isWait i then s else madeProgress s before.ctx
  | some p =>
    let s := if decide (p.retired ≠ before.retired) && !isWait i then madeProgress s p.ctx else s
    let s := match p.park with
      | .wait _ => s.modPly key fun q => { q with nextAt := max q.nextAt (s0.cycle + 1) }
      | _ => s
    let s := if p.yielded then s.modPart p.partKey fun pt => { pt with current := none } else s
    if s.det p then settleDet s key before p else s

end Sys2Proof.Machine
end

