-- ==== Sys2Proof/Machine/Dispatch.lean ====
section
/-! DEFINITION. The dispatch: one arm for each constructor of `Instr`, each a call of its meaning. -/

namespace Sys2Proof.Machine

def exec (i : Instr) (s : State) : Host.Outcome State Fault Refusal :=
  match i with
  | .iadd d a b sw => Sys2Proof.Machine.execIadd d a b sw s
  | .isub d a b sw => Sys2Proof.Machine.execIsub d a b sw s
  | .imul d a b sw => Sys2Proof.Machine.execImul d a b sw s
  | .imad d a b sw => Sys2Proof.Machine.execImad d a b sw s
  | .imulh d a b sw => Sys2Proof.Machine.execImulh d a b sw s
  | .imulhn d a b sw => Sys2Proof.Machine.execImulhn d a b sw s
  | .imin d a b sw => Sys2Proof.Machine.execImin d a b sw s
  | .iminn d a b sw => Sys2Proof.Machine.execIminn d a b sw s
  | .imax d a b sw => Sys2Proof.Machine.execImax d a b sw s
  | .imaxn d a b sw => Sys2Proof.Machine.execImaxn d a b sw s
  | .and d a b sw => Sys2Proof.Machine.execAnd d a b sw s
  | .or d a b sw => Sys2Proof.Machine.execOr d a b sw s
  | .xor d a b sw => Sys2Proof.Machine.execXor d a b sw s
  | .andn d a b sw => Sys2Proof.Machine.execAndn d a b sw s
  | .shl d a b sw => Sys2Proof.Machine.execShl d a b sw s
  | .shr d a b sw => Sys2Proof.Machine.execShr d a b sw s
  | .sar d a b sw => Sys2Proof.Machine.execSar d a b sw s
  | .rotl d a b sw => Sys2Proof.Machine.execRotl d a b sw s
  | .iadd64 d a b sw => Sys2Proof.Machine.execIadd64 d a b sw s
  | .isub64 d a b sw => Sys2Proof.Machine.execIsub64 d a b sw s
  | .lea d a b sw => Sys2Proof.Machine.execLea d a b sw s
  | .sel d a b sw => Sys2Proof.Machine.execSel d a b sw s
  | .bfe d a b sw => Sys2Proof.Machine.execBfe d a b sw s
  | .bfi d a b sw => Sys2Proof.Machine.execBfi d a b sw s
  | .iaddi d a im sw => Sys2Proof.Machine.execIaddi d a im sw s
  | .andi d a im sw => Sys2Proof.Machine.execAndi d a im sw s
  | .ori d a im sw => Sys2Proof.Machine.execOri d a im sw s
  | .xori d a im sw => Sys2Proof.Machine.execXori d a im sw s
  | .shli d a im sw => Sys2Proof.Machine.execShli d a im sw s
  | .shri d a im sw => Sys2Proof.Machine.execShri d a im sw s
  | .sari d a im sw => Sys2Proof.Machine.execSari d a im sw s
  | .movi d im sw => Sys2Proof.Machine.execMovi d im sw s
  | .movhi d im sw => Sys2Proof.Machine.execMovhi d im sw s
  | .icmp a b p c sw => Sys2Proof.Machine.execIcmp a b p c sw s
  | .iun d a f sw => Sys2Proof.Machine.execIun d a f sw s
  | .idiv d a b sw => Sys2Proof.Machine.execIdiv d a b sw s
  | .idivn d a b sw => Sys2Proof.Machine.execIdivn d a b sw s
  | .irem d a b sw => Sys2Proof.Machine.execIrem d a b sw s
  | .iremn d a b sw => Sys2Proof.Machine.execIremn d a b sw s
  | .elseI o sw => Sys2Proof.Machine.execElse o sw s
  | .fadd d a b sw => Sys2Proof.Machine.execFadd d a b sw s
  | .fsub d a b sw => Sys2Proof.Machine.execFsub d a b sw s
  | .fmul d a b sw => Sys2Proof.Machine.execFmul d a b sw s
  | .ffma d a b sw => Sys2Proof.Machine.execFfma d a b sw s
  | .fmin d a b sw => Sys2Proof.Machine.execFmin d a b sw s
  | .fmax d a b sw => Sys2Proof.Machine.execFmax d a b sw s
  | .fdiv d a b sw => Sys2Proof.Machine.execFdiv d a b sw s
  | .fadd2 d a b sw => Sys2Proof.Machine.execFadd2 d a b sw s
  | .fmul2 d a b sw => Sys2Proof.Machine.execFmul2 d a b sw s
  | .ffma2 d a b sw => Sys2Proof.Machine.execFfma2 d a b sw s
  | .fdot2 d a b sw => Sys2Proof.Machine.execFdot2 d a b sw s
  | .fcmp a b p c sw => Sys2Proof.Machine.execFcmp a b p c sw s
  | .funI d a f m sw => Sys2Proof.Machine.execFun d a f m sw s
  | .cvtF2bf d a m sw => Sys2Proof.Machine.execCvtF2bf d a m sw s
  | .cvtBf2f d a m sw => Sys2Proof.Machine.execCvtBf2f d a m sw s
  | .cvtF2i d a m sw => Sys2Proof.Machine.execCvtF2i d a m sw s
  | .cvtF2n d a m sw => Sys2Proof.Machine.execCvtF2n d a m sw s
  | .cvtI2f d a m sw => Sys2Proof.Machine.execCvtI2f d a m sw s
  | .cvtN2f d a m sw => Sys2Proof.Machine.execCvtN2f d a m sw s
  | .cvtF2i64 d a m sw => Sys2Proof.Machine.execCvtF2i64 d a m sw s
  | .cvtI642f d a m sw => Sys2Proof.Machine.execCvtI642f d a m sw s
  | .loop o sw => Sys2Proof.Machine.execLoop o sw s
  | .endloop o sw => Sys2Proof.Machine.execEndloop o sw s
  | .shfl d a b sw => Sys2Proof.Machine.execShfl d a b sw s
  | .shflx d a im sw => Sys2Proof.Machine.execShflx d a im sw s
  | .rdlane d a im sw => Sys2Proof.Machine.execRdlane d a im sw s
  | .wrlane d a im sw => Sys2Proof.Machine.execWrlane d a im sw s
  | .voteAny d p sw => Sys2Proof.Machine.execVoteAny d p sw s
  | .voteAll d p sw => Sys2Proof.Machine.execVoteAll d p sw s
  | .voteBallot d p sw => Sys2Proof.Machine.execVoteBallot d p sw s
  | .voteCount d p sw => Sys2Proof.Machine.execVoteCount d p sw s
  | .scan d a f e sw => Sys2Proof.Machine.execScan d a f e sw s
  | .reduce d a f sw => Sys2Proof.Machine.execReduce d a f sw s
  | .matchI d a b sw => Sys2Proof.Machine.execMatch d a b sw s
  | .hash d a b sw => Sys2Proof.Machine.execHash d a b sw s
  | .hash64 d a b sw => Sys2Proof.Machine.execHash64 d a b sw s
  | .crc d a b sw => Sys2Proof.Machine.execCrc d a b sw s
  | .part d a b sw => Sys2Proof.Machine.execPart d a b sw s
  | .hist d a b sw => Sys2Proof.Machine.execHist d a b sw s
  | .scmp d a b sw => Sys2Proof.Machine.execScmp d a b sw s
  | .shash d a sw => Sys2Proof.Machine.execShash d a sw s
  | .spfx d a sw => Sys2Proof.Machine.execSpfx d a sw s
  | .slen d a sw => Sys2Proof.Machine.execSlen d a sw s
  | .sfind d a b sw => Sys2Proof.Machine.execSfind d a b sw s
  | .ld d b v c w sw => Sys2Proof.Machine.execLd d b v c w sw s
  | .st d b v c w sw => Sys2Proof.Machine.execSt d b v c w sw s
  | .ldq d b v c sw => Sys2Proof.Machine.execLdq d b v c sw s
  | .stq d b v c sw => Sys2Proof.Machine.execStq d b v c sw s
  | .ldcv d b v c w sw => Sys2Proof.Machine.execLdcv d b v c w sw s
  | .stcv d b v c w sw => Sys2Proof.Machine.execStcv d b v c w sw s
  | .atom d b v o sw => Sys2Proof.Machine.execAtom d b v o sw s
  | .red d b v o sw => Sys2Proof.Machine.execRed d b v o sw s
  | .tld d b v c w sw => Sys2Proof.Machine.execTld d b v c w sw s
  | .tst d b v c w sw => Sys2Proof.Machine.execTst d b v c w sw s
  | .tldt d b v c w sw => Sys2Proof.Machine.execTldt d b v c w sw s
  | .tatom d b v o sw => Sys2Proof.Machine.execTatom d b v o sw s
  | .pref b v c w sw => Sys2Proof.Machine.execPref b v c w sw s
  | .mona d b v c w sw => Sys2Proof.Machine.execMona d b v c w sw s
  | .waitm a sw => Sys2Proof.Machine.execWaitm a sw s
  | .poll d b v c w sw => Sys2Proof.Machine.execPoll d b v c w sw s
  | .cpyin d t k l h sw => Sys2Proof.Machine.execCpyin d t k l h sw s
  | .cpyout d t k l h sw => Sys2Proof.Machine.execCpyout d t k l h sw s
  | .cpygg d t k l h sw => Sys2Proof.Machine.execCpygg d t k l h sw s
  | .gather d t k l h sw => Sys2Proof.Machine.execGather d t k l h sw s
  | .scatter d t k l h sw => Sys2Proof.Machine.execScatter d t k l h sw s
  | .pscat d t k l h sw => Sys2Proof.Machine.execPscat d t k l h sw s
  | .defarr a f sw => Sys2Proof.Machine.execDefarr a f sw s
  | .cpyqStatus d a sw => Sys2Proof.Machine.execCpyqStatus d a sw s
  | .cpyqTl d sw => Sys2Proof.Machine.execCpyqTl d sw s
  | .cpyqDrop d a sw => Sys2Proof.Machine.execCpyqDrop d a sw s
  | .tbind d a h sw => Sys2Proof.Machine.execTbind d a h sw s
  | .tsetEmpty a sw => Sys2Proof.Machine.execTsetEmpty a sw s
  | .tsetFilling a sw => Sys2Proof.Machine.execTsetFilling a sw s
  | .tsetReady a sw => Sys2Proof.Machine.execTsetReady a sw s
  | .tsetDraining a sw => Sys2Proof.Machine.execTsetDraining a sw s
  | .twait a k sw => Sys2Proof.Machine.execTwait a k sw s
  | .tfree a sw => Sys2Proof.Machine.execTfree a sw s
  | .mma d a b f e sw => Sys2Proof.Machine.execMma d a b f e sw s
  | .mclose d sw => Sys2Proof.Machine.execMclose d sw s
  | .mcloseResume d a sw => Sys2Proof.Machine.execMcloseResume d a sw s
  | .mwait d sw => Sys2Proof.Machine.execMwait d sw s
  | .mabort d sw => Sys2Proof.Machine.execMabort d sw s
  | .mepi d a b f e sw => Sys2Proof.Machine.execMepi d a b f e sw s
  | .gset a g sw => Sys2Proof.Machine.execGset a g sw s
  | .gget d im sw => Sys2Proof.Machine.execGget d im sw s
  | .bar d a b m sw => Sys2Proof.Machine.execBar d a b m sw s
  | .bara a b m sw => Sys2Proof.Machine.execBara a b m sw s
  | .barw d b sw => Sys2Proof.Machine.execBarw d b sw s
  | .tktTake d a c sw => Sys2Proof.Machine.execTktTake d a c sw s
  | .tktWaitp d c sw => Sys2Proof.Machine.execTktWaitp d c sw s
  | .tktPut a c sw => Sys2Proof.Machine.execTktPut a c sw s
  | .tktSkip c sw => Sys2Proof.Machine.execTktSkip c sw s
  | .qpush a q sw => Sys2Proof.Machine.execQpush a q sw s
  | .qpop d q sw => Sys2Proof.Machine.execQpop d q sw s
  | .tlwait d a f sw => Sys2Proof.Machine.execTlwait d a f sw s
  | .tlrd d f sw => Sys2Proof.Machine.execTlrd d f sw s
  | .nred d a t m sw => Sys2Proof.Machine.execNred d a t m sw s
  | .bra o sw => Sys2Proof.Machine.execBra o sw s
  | .brq p o sw => Sys2Proof.Machine.execBrq p o sw s
  | .ifp p o sw => Sys2Proof.Machine.execIfp p o sw s
  | .call o sw => Sys2Proof.Machine.execCall o sw s
  | .endif sw => Sys2Proof.Machine.execEndif sw s
  | .brk sw => Sys2Proof.Machine.execBrk sw s
  | .cont sw => Sys2Proof.Machine.execCont sw s
  | .ret a sw => Sys2Proof.Machine.execRet a sw s
  | .jmpi a sw => Sys2Proof.Machine.execJmpi a sw s
  | .calli d a sw => Sys2Proof.Machine.execCalli d a sw s
  | .elect d sw => Sys2Proof.Machine.execElect d sw s
  | .yield sw => Sys2Proof.Machine.execYield sw s
  | .exit sw => Sys2Proof.Machine.execExit sw s
  | .nop sw => Sys2Proof.Machine.execNop sw s
  | .spawn d a q sw => Sys2Proof.Machine.execSpawn d a q sw s
  | .uisend d a sw => Sys2Proof.Machine.execUisend d a sw s
  | .uimask d a sw => Sys2Proof.Machine.execUimask d a sw s
  | .uipend d a sw => Sys2Proof.Machine.execUipend d a sw s
  | .uiack d a sw => Sys2Proof.Machine.execUiack d a sw s
  | .uiret sw => Sys2Proof.Machine.execUiret sw s
  | .uiwait a sw => Sys2Proof.Machine.execUiwait a sw s
  | .vacq sw => Sys2Proof.Machine.execVacq sw s
  | .vrel sw => Sys2Proof.Machine.execVrel sw s
  | .vkill a sw => Sys2Proof.Machine.execVkill a sw s
  | .rdlive d a sw => Sys2Proof.Machine.execRdlive d a sw s
  | .uprd d a sw => Sys2Proof.Machine.execUprd d a sw s
  | .upwr d a sw => Sys2Proof.Machine.execUpwr d a sw s
  | .trap a sw => Sys2Proof.Machine.execTrap a sw s
  | .tret sw => Sys2Proof.Machine.execTret sw s
  | .halt sw => Sys2Proof.Machine.execHalt sw s
  | .classq d a sw => Sys2Proof.Machine.execClassq d a sw s
  | .evict sw => Sys2Proof.Machine.execEvict sw s
  | .faultreq d a sw => Sys2Proof.Machine.execFaultreq d a sw s
  | .waitf d a sw => Sys2Proof.Machine.execWaitf d a sw s
  | .rdsr d im sw => Sys2Proof.Machine.execRdsr d im sw s
  | .wrsr a im sw => Sys2Proof.Machine.execWrsr a im sw s
  | .movH d b sw => Sys2Proof.Machine.execMovH d b sw s
  | .movi5H d im sw => Sys2Proof.Machine.execMovi5H d im sw s
  | .iaddH d b sw => Sys2Proof.Machine.execIaddH d b sw s
  | .iaddi5H d im sw => Sys2Proof.Machine.execIaddi5H d im sw s
  | .isubH d b sw => Sys2Proof.Machine.execIsubH d b sw s
  | .imulH d b sw => Sys2Proof.Machine.execImulH d b sw s
  | .andH d b sw => Sys2Proof.Machine.execAndH d b sw s
  | .orH d b sw => Sys2Proof.Machine.execOrH d b sw s
  | .xorH d b sw => Sys2Proof.Machine.execXorH d b sw s
  | .shli5H d im sw => Sys2Proof.Machine.execShli5H d im sw s
  | .shri5H d im sw => Sys2Proof.Machine.execShri5H d im sw s
  | .sari5H d im sw => Sys2Proof.Machine.execSari5H d im sw s
  | .faddH d b sw => Sys2Proof.Machine.execFaddH d b sw s
  | .fmulH d b sw => Sys2Proof.Machine.execFmulH d b sw s
  | .ffmaH d b sw => Sys2Proof.Machine.execFfmaH d b sw s
  | .fmaxH d b sw => Sys2Proof.Machine.execFmaxH d b sw s
  | .rd f => Sys2Proof.Machine.execRd f s
  | .rdo f => Sys2Proof.Machine.execRdo f s
  | .upg f => Sys2Proof.Machine.execUpg f s
  | .arm f => Sys2Proof.Machine.execArm f s
  | .renew f => Sys2Proof.Machine.execRenew f s
  | .atsreq f => Sys2Proof.Machine.execAtsreq f s
  | .steal f => Sys2Proof.Machine.execSteal f s
  | .rdata f => Sys2Proof.Machine.execRdata f s
  | .wr f => Sys2Proof.Machine.execWr f s
  | .wb f => Sys2Proof.Machine.execWb f s
  | .atomq f => Sys2Proof.Machine.execAtomq f s
  | .atomr f => Sys2Proof.Machine.execAtomr f s
  | .redp f => Sys2Proof.Machine.execRedp f s
  | .tcb f => Sys2Proof.Machine.execTcb f s
  | .nup f => Sys2Proof.Machine.execNup f s
  | .ndown f => Sys2Proof.Machine.execNdown f s
  | .atsrsp f => Sys2Proof.Machine.execAtsrsp f s
  | .inv f => Sys2Proof.Machine.execInv f s
  | .down f => Sys2Proof.Machine.execDown f s
  | .drain f => Sys2Proof.Machine.execDrain f s
  | .drainack f => Sys2Proof.Machine.execDrainack f s
  | .ack f => Sys2Proof.Machine.execAck f s
  | .wake f => Sys2Proof.Machine.execWake f s
  | .fbwake f => Sys2Proof.Machine.execFbwake f s
  | .tlbinv f => Sys2Proof.Machine.execTlbinv f s
  | .answer f => Sys2Proof.Machine.execAnswer f s
  | .nflush f => Sys2Proof.Machine.execNflush f s
  | .watchEvent scope stream ctx v => Sys2Proof.Machine.execWatchEvent scope stream ctx v s
  | .preemptRequest skein gang => Sys2Proof.Machine.execPreemptRequest skein gang s
  | .birspi loc => Sys2Proof.Machine.execBirspi loc s
  | .switchPointLanding ply => Sys2Proof.Machine.execSwitchPointLanding ply s
  | .vacqGrant core part => Sys2Proof.Machine.execVacqGrant core part s
  | .plyAging ply => Sys2Proof.Machine.execPlyAging ply s
  | .plyRetirement ply => Sys2Proof.Machine.execPlyRetirement ply s
  | .trapEntry ply => Sys2Proof.Machine.execTrapEntry ply s
  | .killRecordWrite ctx => Sys2Proof.Machine.execKillRecordWrite ctx s
  | .watchdogExpiry ctx => Sys2Proof.Machine.execWatchdogExpiry ctx s
  | .orphanDetection skein => Sys2Proof.Machine.execOrphanDetection skein s
  | .contextResume ctx => Sys2Proof.Machine.execContextResume ctx s
  | .launchAcceptance ctx q => Sys2Proof.Machine.execLaunchAcceptance ctx q s
  | .skeinDeal ctx lid => Sys2Proof.Machine.execSkeinDeal ctx lid s
  | .gangPlacement ctx lid => Sys2Proof.Machine.execGangPlacement ctx lid s
  | .gangReservation ctx lid => Sys2Proof.Machine.execGangReservation ctx lid s
  | .starveCount ctx lid => Sys2Proof.Machine.execStarveCount ctx lid s
  | .skeinStart core => Sys2Proof.Machine.execSkeinStart core s
  | .stealBackoffExpiry core => Sys2Proof.Machine.execStealBackoffExpiry core s
  | .quantumBoundary ctx => Sys2Proof.Machine.execQuantumBoundary ctx s
  | .kernelBoundary ctx lid => Sys2Proof.Machine.execKernelBoundary ctx lid s
  | .completionRecordWrite ctx q => Sys2Proof.Machine.execCompletionRecordWrite ctx q s
  | .copyChunkServe core => Sys2Proof.Machine.execCopyChunkServe core s
  | .copyDone skein n => Sys2Proof.Machine.execCopyDone skein n s
  | .batchComplete core part => Sys2Proof.Machine.execBatchComplete core part s
  | .budgetRefill => Sys2Proof.Machine.execBudgetRefill s
  | .barrierPhaseCompletion skein b => Sys2Proof.Machine.execBarrierPhaseCompletion skein b s
  | .ticketChainAdvance ctx lid c => Sys2Proof.Machine.execTicketChainAdvance ctx lid c s
  | .waitmTimeout ply => Sys2Proof.Machine.execWaitmTimeout ply s
  | .pollRetry ply => Sys2Proof.Machine.execPollRetry ply s
  | .uiwaitTimeout ply => Sys2Proof.Machine.execUiwaitTimeout ply s
  | .userInterruptDiversion ply => Sys2Proof.Machine.execUserInterruptDiversion ply s
  | .mailboxMsgWrite ctx control payload => Sys2Proof.Machine.execMailboxMsgWrite ctx control payload s
  | .mailboxOtherWrite ctx => Sys2Proof.Machine.execMailboxOtherWrite ctx s
  | .rateCounterReload => Sys2Proof.Machine.execRateCounterReload s
  | .treeTimeout slot => Sys2Proof.Machine.execTreeTimeout slot s
  | .heldWritePerformance slice => Sys2Proof.Machine.execHeldWritePerformance slice s
  | .burnisherSweep => Sys2Proof.Machine.execBurnisherSweep s
  | .replicaCompare => Sys2Proof.Machine.execReplicaCompare s
  | .granuleWithdrawal loc => Sys2Proof.Machine.execGranuleWithdrawal loc s
  | .granuleClear loc => Sys2Proof.Machine.execGranuleClear loc s
  | .regionMigration src dst => Sys2Proof.Machine.execRegionMigration src dst s
  | .atsTranslationCompletion c => Sys2Proof.Machine.execAtsTranslationCompletion c s
  | .faultBatchClose => Sys2Proof.Machine.execFaultBatchClose s
  | .prgResponse port prgi code => Sys2Proof.Machine.execPrgResponse port prgi code s
  | .atsInvalidateRequest pasid vpage log2Pages => Sys2Proof.Machine.execAtsInvalidateRequest pasid vpage log2Pages s
  | .invalidateCompletion pasid vpage => Sys2Proof.Machine.execInvalidateCompletion pasid vpage s
  | .fbcfgWrite value => Sys2Proof.Machine.execFbcfgWrite value s
  | .snpinv loc => Sys2Proof.Machine.execSnpinv loc s
  | .snpdata loc => Sys2Proof.Machine.execSnpdata loc s
  | .snpcur loc => Sys2Proof.Machine.execSnpcur loc s
  | .memrd hpa size cached => Sys2Proof.Machine.execMemrd hpa size cached s
  | .memwr hpa bytes => Sys2Proof.Machine.execMemwr hpa bytes s
  | .biconflict loc => Sys2Proof.Machine.execBiconflict loc s
  | .windesc link windows exports => Sys2Proof.Machine.execWindesc link windows exports s
  | .rdreq f => Sys2Proof.Machine.execRdreq f s
  | .rdrsp f => Sys2Proof.Machine.execRdrsp f s
  | .wrreq f => Sys2Proof.Machine.execWrreq f s
  | .wrack f => Sys2Proof.Machine.execWrack f s
  | .uimsg f => Sys2Proof.Machine.execUimsg f s
  | .uistat f => Sys2Proof.Machine.execUistat f s
  | .hb link seq => Sys2Proof.Machine.execHb link seq s
  | .heartbeat agent seq => Sys2Proof.Machine.execHeartbeat agent seq s
  | .agentFence agent => Sys2Proof.Machine.execAgentFence agent s
  | .wheelRegisterWrite reg value => Sys2Proof.Machine.execWheelRegisterWrite reg value s
  | .wheelSettingEffect => Sys2Proof.Machine.execWheelSettingEffect s
  | .gateEntry svc target => Sys2Proof.Machine.execGateEntry svc target s
  | .moduleReset => Sys2Proof.Machine.execModuleReset s
  | .recoveryImage image => Sys2Proof.Machine.execRecoveryImage image s
  | .attestationRequest nonce => Sys2Proof.Machine.execAttestationRequest nonce s
  | .wcfgWrite unit value => Sys2Proof.Machine.execWcfgWrite unit value s
  | .watchPageWrite ctx => Sys2Proof.Machine.execWatchPageWrite ctx s
  | .powerWindow watts temps => Sys2Proof.Machine.execPowerWindow watts temps s
  | .clockRaise => Sys2Proof.Machine.execClockRaise s
  | .contextSuspend ctx => Sys2Proof.Machine.execContextSuspend ctx s
  | .contextCreation spec => Sys2Proof.Machine.execContextCreation spec s
  | .contextTeardown ctx => Sys2Proof.Machine.execContextTeardown ctx s
  | .configurationSpaceWrite w => Sys2Proof.Machine.execConfigurationSpaceWrite w s
  | .cxlCacheCompletion loc excl bytes => Sys2Proof.Machine.execCxlCacheCompletion loc excl bytes s
  | .fibreLoss port fibres => Sys2Proof.Machine.execFibreLoss port fibres s
  | .authenticationFailure link => Sys2Proof.Machine.execAuthenticationFailure link s
  | .tenantKeyLoad key => Sys2Proof.Machine.execTenantKeyLoad key s

end Sys2Proof.Machine
end

