-- ==== Sys2Proof/Machine/Run.lean ====
section
/-! DEFINITION. One step of the module: a message that is delivered, a step that is due, the instruction of the chosen ply, or
time (R91, R384 to R391, R467), and the placing of a program. -/

namespace Sys2Proof.Machine

/-! ## Running a ply -/

/-- Instructions that are serial actions of deterministic mode by themselves (R391). -/
def serialKind (i : Instr) : Bool :=
  match i with
  | .atom .. | .red .. | .mona .. | .poll .. | .cpyin .. | .cpyout .. | .cpygg .. | .gather .. | .scatter .. | .pscat .. | .uisend ..
  | .spawn .. => true
  | _ => false

/-- The state of a core without its lines of class SHARED: a shared access of it goes to its home. -/
def withoutShared (s : State) (core : Nat) : State :=
  s.modCore core fun m => { m with cls := m.cls.filter fun _ (l : ClsLine) => decide (l.cls ≠ .shared) }

/-- Whether an instruction makes a memory access that is not overlapped (R149). -/
def strictAccess (s : State) (key : Nat) (p : Ply) (turn : Turn) (i : Instr) : Bool :=
  match exec i (takeTurn (withoutShared s p.core) key p turn) with
  | .next s' => match s'.plies.get? key with
    | some _ => strictOut s' p.core key
    | none => false
  | _ => false

/-- Whether a ply stops before its next instruction, a serial action, in the parallel phase of deterministic mode (R391). -/
def stopsFor (s : State) (key : Nat) (p : Ply) (turn : Turn) (i : Instr) : Bool :=
  s.det p && !(s.ctx p.ctx).inSerial && (serialKind i || strictAccess s key p turn i)

/-- What follows an instruction that could not be issued: the deterministic ply's standing (R391). -/
def settleStop (s : State) (key : Nat) (p : Ply) : State := if s.det p then settleDet s key p p else s

/-- The turn of a ply: fetch, and issue what was fetched (R18 to R22, R41). -/
def runPly (s : State) (key : Nat) (turn : Turn) : Out :=
  match s.plies.get? key with
  | none => .next (idle s)
  | some p => match fetch s p with
    | .ok i =>
      if stopsFor s key p turn i then .next (noteSerial s p.ctx key p)
      else match exec i (takeTurn (keepCode s p i) key p turn) with
        | .next s' => .next (settle s key p i s')
        | o => o
    | .illegal enc => .next (settleStop (takeTrap s key causeILLEGAL enc p.pc) key p)
    | .stop r => .next (settleStop (fetchStopped s key p r) key p)

/-! ## The step -/

/-- A message, while the module runs or when it is one that recovery answers (R467, R469); others find nobody. -/
def deliver (s : State) (i : Instr) : Out :=
  if isMessage i && (decide (s.phase = .running) || inRecovery i) then exec i { s with cur := none } else .next s

/-- One step: a message that has arrived, what is due, the ply that issues, the tile slots of the cycle (R214), else time. The actions of the
outside that precede the boot keep their place (R467). -/
def stepOf (s : State) : Out :=
  match s.phase with
  | .reset => execModuleReset s
  | ph =>
    match takeNet s with
    | some (i, s') => deliver s' i
    | none =>
      if ph = .recovery then .next (idle s)
      else match dueStep s with
        | some o => o
        | none => match chooseTurn s with
          | some (key, turn) => runPly s key turn
          | none => .next (if slotDue s then tileSlots s else idle s)

/-! ## A program in place -/

/-- Where `placeProgram` puts the code: page 1 of the context, at near DRAM location 0x1000. -/
def codeBase : Nat := 0x1000

/-- The launch record of the program: two plies of 8 threads, a producer and a consumer, every barrier, queue and ticket
chain declared (R373). -/
def programRecord : List DWord :=
  [BitVec.ofNat 64 codeBase, 0, fieldAt 32 1 ||| fieldAt 26 2 ||| fieldAt 20 1 ||| fieldAt 17 6 ||| fieldAt 14 6 ||| fieldAt 13 1, 4096,
    BitVec.ofNat 64 ((List.range 10).foldl (fun a k => a + 33 * 64 ^ k) 0), BitVec.ofNat 64 ((List.range 6).foldl (fun a k => a + 33 * 64 ^ k) 0),
    BitVec.ofNat 64 ((List.range 8).foldl (fun a k => a + 16 * 32 ^ k) 0) ||| fieldAt 40 0xFF] ++ List.replicate 9 0

def programTcb : Tcb := ⟨0, 0, 0, false, false, 1, 0, none⟩

def programLaunch : Launch :=
  { ctx := 0, lid := 0, queue := 0, seq := 0, lrec := programRecord, rat := [], chains := [], st := .dealt, next := 1, ended := 0, nfail := 0,
    ffirst := none, starve := 0, bound := none, gangAt := none, held := [], plist := [], gmask := none, draining := 0, killed := false, desc := [fieldAt 63 1], ran := 1 }

/-- The module running, with one context, one launch and one skein of it whose first ply stands before the code; nothing else is
going on. -/
def placeProgram (s : State) (code : List Byte) : State :=
  let s := { s with
    phase := .running, net := [], cur := none, tickAt := s.cycle, wheelNext := [], txns := [], misses := [], faults := [], invals := [],
    withdrawn := [], flits := [], dieMisses := [], hw := [], parts := [], aside := [], trees := [], beats := [], raiseAt := 0
    ctxs := [(0, { Ctx.zero with desc := [fieldAt 63 1], xvec := 0x8000 })]
    launches := [(0, programLaunch)]
    skeins := [(0, freshSkein programTcb programRecord 0 0)]
    cores := [(0, { CoreMem.empty with tlb := [⟨0, 1, 0, codeBase, true, true, true, 16384, []⟩] })]
    keyed := (s.keyed.erase (codeBase / 32))
    mem := s.mem.writeBytes codeBase code }
  { s with plies := [(0, freshPly s 0 0 0 programTcb programRecord)] }

end Sys2Proof.Machine
end

