-- ==== Sys2Proof/Machine/Step.lean ====
section
/-! DEFINITION. The step of the machine, and the placing of one instruction where the next step fetches. -/

namespace Sys2Proof.Machine

/-- One step of the module. -/
def step (s : State) : Host.Outcome State Fault Refusal := stepOf s

/-- The state in which the next step fetches the instruction whose bits are `w`: a module that runs one ply, with the
instruction's words at its PC and zeros after them. -/
def State.withFetchWord (s : State) (nbits w : Nat) : State := placeProgram s (bytesOf 4 (w % 2 ^ nbits))

end Sys2Proof.Machine
end

