-- ==== Sys2Proof/Safety.lean ====
section
/-! DEFINITION. The terms in which statements about the machine are made: when an instruction issues without a trap or a wait
(R41), what it sees at issue, what completing it may change, and the invariants. -/

namespace Sys2Proof.Machine

/-! ## Invariants -/

/-- The memory of the module is in canonical form: equal memories are equal lists. -/
def State.MemOk (s : State) : Prop := s.mem.wf = true

/-! ## What an instruction sees at issue -/

/-- The cycle at which the ply issues the instruction (R236, R239). -/
def issueAt (i : Instr) (s : State) (p : Ply) : Nat := max s.cycle (p.readyAt i)

/-- The ply at the issue cycle, every write that is due made (R242). -/
def issuePly (i : Instr) (s : State) (p : Ply) : Ply := p.commit (issueAt i s p) (readsBeats i)

/-- The operands and predicates of the instruction: those it read at its first issue when the ply stands in a wait of it, and
those read now otherwise (R28 to R30, R283). -/
def heldOf (i : Instr) (s : State) (p : Ply) : Held :=
  match p.held with
  | some hl => hl
  | none => ((issuePly i s p).readAll (issueAt i s p) i s.free).1

/-- The count of free values after the reads (R241). -/
def freeOf (i : Instr) (s : State) (p : Ply) : Nat :=
  match p.held with
  | some _ => s.free
  | none => ((issuePly i s p).readAll (issueAt i s p) i s.free).2

/-- The ply as its instruction runs: a wait of the instruction is over. -/
def issued (i : Instr) (s : State) (p : Ply) : Ply :=
  match p.held with
  | some _ => { issuePly i s p with park := .none }
  | none => issuePly i s p

/-- What the meaning of an instruction sees. -/
def envOf (i : Instr) (s : State) (key : Nat) (p : Ply) : Env :=
  ⟨key, issuePly i s p, issueAt i s p, (heldOf i s p).ops, (heldOf i s p).preds, p.stage, p.pc + BitVec.ofNat 64 (encode i).size,
    (encode i).value⟩

/-- The state in which the meaning runs: the ply at its issue cycle, and the free values of early reads drawn (R241). -/
def baseOf (i : Instr) (s : State) (key : Nat) (p : Ply) : State :=
  { s with plies := s.plies.set key (issued i s p), cycle := issueAt i s p, free := freeOf i s p }

/-- No trap of R41 before execution is due at the first issue, and the ply waits for no strict access (R150) and for no room
among its eight results (R245). -/
structure Fresh (i : Instr) (s : State) (p : Ply) : Prop where
  declared : dynIllegal s p i = false
  level : levelOf i ≤ p.tl
  pool : p.regpool i = none
  strict : afterStrict i = true → p.strict = 0
  room : landsOf i = true → p.out.length < 8
  plain : s.debug p = true → (i.shape.thread = true ∧ p.em = 0) ∨ (issuePly i s p).debugTrap (issueAt i s p) i = none

/-- The ply whose turn it is issues the instruction, for the first time or after a wait of it. -/
structure Ready (i : Instr) (s : State) (key : Nat) (p : Ply) : Prop where
  turn : s.cur = some key
  here : s.plies.get? key = some p
  legal : i.legal = true
  fresh : p.held = none → Fresh i s p

/-! ## What completing an instruction does -/

/-- The fields of a ply that completing an instruction changes, besides vacated sources; every other keeps its value. -/
def IssueOnly (p q : Ply) : Prop :=
  q = { p with
    stat := q.stat, lx := q.lx, ly := q.ly, lyNew := q.lyNew, pend := q.pend, out := q.out, drainAt := q.drainAt, pc := q.pc
    nextAt := q.nextAt, wakeAt := q.wakeAt, aged := q.aged, held := q.held, stage := q.stage, verdict := q.verdict
    waited := q.waited, retired := q.retired, quant := q.quant, park := q.park }

/-- Outside the plies, the issue stages, the cycle count and the count of free values, the states are equal; other plies are
too, and every byte of memory reads as before. -/
structure OnlyPly (key : Nat) (s t : State) : Prop where
  rest : t = { s with plies := t.plies, parts := t.parts, cycle := t.cycle, free := t.free }
  others : ∀ k, k ≠ key → t.plies.get? k = s.plies.get? k
  memory : ∀ a, t.mem.read a = s.mem.read a

/-- lx after an instruction of a ply that stood as `c` at issue: an X-pipe vector instruction with an active thread writes it
at once (R243). -/
def lxAfter (i : Instr) (c : Ply) : Option (List DWord) → Latch
  | some vals => if i.shape.uniform = false ∧ c.em ≠ 0 ∧ i.shape.pipe = .x then c.lx.write c.width c.em vals else c.lx
  | none => c.lx

/-- ly after an instruction: the value the instruction before made becomes readable (R243). -/
def lyAfter (c : Ply) : Latch :=
  match c.lyNew with
  | some w => c.ly.write c.width w.mask w.vals
  | none => c.ly

/-- The value that a Y-pipe vector instruction makes for ly, readable from the second instruction on (R243). -/
def lyNewAfter (i : Instr) (c : Ply) : Option (List DWord) → Option Write
  | some vals => if i.shape.uniform = false ∧ c.em ≠ 0 ∧ i.shape.pipe = .y then some ⟨.ly, c.em, vals⟩ else none
  | none => none

/-- The latches after an instruction (R243); a switch point drops both (R248). `c` is the ply at issue. -/
def LatchAfter (i : Instr) (c : Ply) (lt : Option (List DWord)) (q : Ply) : Prop :=
  if i.sw then q.lx = Latch.off ∧ q.ly = Latch.off ∧ q.lyNew = none
  else q.lx = lxAfter i c lt ∧ q.ly = lyAfter c ∧ q.lyNew = lyNewAfter i c lt

/-- A lane instruction completed: the results `ws` are pending for the cycles of their pipe, the PC is past the instruction,
dead sources are vacant, nothing waits unless the switch marker is set, and nothing else of the ply, of other plies, of
memory or of the module has changed (R31, R236 to R243, R281). -/
structure LaneDone (i : Instr) (s : State) (key : Nat) (p : Ply) (ws : List Write) (lt : Option (List DWord)) (fl : FFlags)
    (t : State) (q : Ply) : Prop where
  here : t.plies.get? key = some q
  pc : q.pc = p.pc + BitVec.ofNat 64 (encode i).size
  pend : q.pend = pendWith (issueAt i s p) (latency (pipeOf i)) ws (issuePly i s p).pend
  out : q.out = p.out
  park : q.park = if i.sw then .switch else .none
  latch : LatchAfter i (issuePly i s p) lt q
  retired : q.retired = p.retired + 1
  stat : q.stat = p.stat ||| fl.setWidth 64 |||
    (if i.shape.thread ∧ p.em = 0 then 0 else fieldAt 8 (heldOf i s p).vacrd.toNat ||| fieldAt 9 (heldOf i s p).upinv.toNat)
  rest : IssueOnly (vacated i (issuePly i s p)) q
  frame : OnlyPly key s t

/-- The register results of a lane instruction: for each destination register the values of every thread, written for the
active threads, or one value for a uniform instruction; an instruction without an active thread writes nothing (R281). -/
def laneWrites (i : Instr) (p : Ply) (d : Name) (w : Width) (g : Nat → QWord) : List Write :=
  if i.shape.uniform then dstWrites d w 1 [g 0]
  else if p.em = 0 then [] else dstWrites d w p.em ((List.range p.width).map g)

/-- The value a lane instruction leaves for its latch: the low 32 bits of each thread's result (R243, R282). -/
def laneLatch (i : Instr) (p : Ply) (g : Nat → QWord) : Option (List DWord) :=
  some ((if i.shape.uniform then [g 0] else (List.range p.width).map g).map fun x => (x.extractLsb' 0 32).setWidth 64)

/-- The instruction completes with the value `g` of its operands in each thread. -/
def Yields (i : Instr) (d : Name) (w : Width) (g : Env → Nat → QWord) : Prop :=
  ∀ s key p, Ready i s key p → ∃ t q, exec i s = .next t ∧
    LaneDone i s key p (laneWrites i p d w (g (envOf i s key p))) (laneLatch i p (g (envOf i s key p))) 0 t q

/-- The threads for which a lane instruction computes: the active ones, or thread 0 alone when it is uniform (R281). -/
def laneThreads (i : Instr) (p : Ply) : List Nat := if i.shape.uniform then [0] else threadsOf p.width p.em

/-- The flags that the threads raise together (R268). -/
def raised (l : List Nat) (fl : Nat → FFlags) : FFlags := l.foldl (fun a k => a ||| fl k) 0

/-- When no thread raises a flag that FRM enables, the instruction completes with the value `g` of its operands in each thread,
and the flags it raises become sticky (R268). -/
def YieldsFlags (i : Instr) (d : Name) (w : Width) (g : Env → Nat → QWord × FFlags) : Prop :=
  ∀ s key p, Ready i s key p → (∀ k ∈ laneThreads i p, (g (envOf i s key p) k).2 &&& frmEnables p.frm = 0) →
    ∃ t q, exec i s = .next t ∧ LaneDone i s key p (laneWrites i p d w fun k => (g (envOf i s key p) k).1)
      (laneLatch i p fun k => (g (envOf i s key p) k).1) (raised (laneThreads i p) fun k => (g (envOf i s key p) k).2) t q

/-- When thread `k` is the first that raises a flag FRM enables, the instruction traps with FPX, and XVAL holds the flags and
the thread (R268). -/
def FpxTraps (i : Instr) (g : Env → Nat → QWord × FFlags) : Prop :=
  ∀ s key p k, Ready i s key p →
    (laneThreads i p).find? (fun k => decide ((g (envOf i s key p) k).2 &&& frmEnables p.frm ≠ 0)) = some k →
    exec i s = .next (takeTrap (baseOf i s key p) key 0x04 ((g (envOf i s key p) k).2.setWidth 64 ||| fieldAt 8 k) p.pc)

/-- The mask of the threads of a list for which a test holds. -/
def maskWhere (l : List Nat) (f : Nat → Bool) : DWord := l.foldl (fun m k => if f k then m ||| (1#64 <<< k) else m) 0

/-- What a compare writes: q once when both sources are uniform, else the bits of the active threads of p (R290). -/
def cmpWrites (i : Instr) (p : Ply) (n : Nat) (f : Nat → Bool) : List Write :=
  if i.shape.uniform then [⟨.q n, 1, [if f 0 then 1 else 0]⟩]
  else if p.em = 0 then [] else [⟨.p n, p.em, [maskWhere (threadsOf p.width p.em) f]⟩]

/-- The latch value of a compare: 1 where the predicate is set (R282). -/
def cmpLatch (i : Instr) (p : Ply) (f : Nat → Bool) : Option (List DWord) :=
  if i.shape.uniform then none else some ((List.range p.width).map fun k => if f k then 1 else 0)

/-- The compare completes with predicate `n` set in the threads where `f` holds. -/
def Compares (i : Instr) (n : Nat) (f : Env → Nat → Bool) : Prop :=
  ∀ s key p, Ready i s key p → ∃ t q, exec i s = .next t ∧
    LaneDone i s key p (cmpWrites i p n (f (envOf i s key p))) (cmpLatch i p (f (envOf i s key p))) 0 t q

/-- An FP32 value as an integer, in units of 2^-149; an infinity lies beyond every finite value, and a NaN has no place. -/
def scaleF32 : FVal → Int
  | .fin s m e => (if s then -1 else 1) * (m * 2 ^ (e + 149).toNat : Nat)
  | .inf s => if s then -(2 ^ 300) else 2 ^ 300
  | .nan => 0

/-- The writes of a result that lands: those of a lane result (R245). -/
def landOf (i : Instr) (v : Env) (d : Name) (g : Nat → QWord) : Option Landing :=
  some ⟨0, true, 0, laneWrites i v.p d .one g⟩

/-- Operand `n` of a thread, 32 bits. -/
def Env.w (v : Env) (n k : Nat) : Word := (v.op n).at32 k
/-- Operand `n` of a thread, 64 bits. -/
def Env.dw (v : Env) (n k : Nat) : DWord := (v.op n).at64 k

/-- A result of 32 bits. -/
def r32 (x : Word) : QWord := x.setWidth 128
/-- A result of 64 bits. -/
def r64 (x : DWord) : QWord := x.setWidth 128

/-- Under `c`, which speaks of the operands and the state at issue, the instruction completes: the full next state is that of
completing it (R31, R236 to R243) with effect `e` on the state `st`. -/
def Does (i : Instr) (c : Env → State → Prop) (st : Env → State → State) (e : Env → State → Effect) : Prop :=
  ∀ s key p, Ready i s key p → c (envOf i s key p) (baseOf i s key p) →
    exec i s = .next (finish i (envOf i s key p) (heldOf i s p) (e (envOf i s key p) (baseOf i s key p))
      (st (envOf i s key p) (baseOf i s key p)))

/-- Under `c` the instruction takes a trap, with nothing of it done (R9, R432). -/
def Traps (i : Instr) (c : Env → State → Prop) (cause : Nat) (val : Env → State → DWord) : Prop :=
  ∀ s key p, Ready i s key p → c (envOf i s key p) (baseOf i s key p) →
    exec i s = .next (takeTrap (baseOf i s key p) key cause (val (envOf i s key p) (baseOf i s key p)) p.pc)

/-- Under `c` the ply waits in the instruction (R408), in the state `st`; it keeps the operands it read unless it will try again from
its checks (stage 0, log 91). -/
def Waits (i : Instr) (c : Env → State → Prop) (st : Env → State → State) (w : Env → State → Cond) (stage : Env → Nat) : Prop :=
  ∀ s key p, Ready i s key p → c (envOf i s key p) (baseOf i s key p) →
    exec i s = .next ((st (envOf i s key p) (baseOf i s key p)).modPly key fun q =>
      q.waitOn (w (envOf i s key p) (baseOf i s key p)) (stage (envOf i s key p))
        (if stage (envOf i s key p) = 0 then none else some (heldOf i s p)))

/-! ## Memory instructions -/

/-- The fields of a ply that a memory instruction changes, besides vacated sources. -/
def AccessOnly (p q : Ply) : Prop :=
  q = { p with
    stat := q.stat, lx := q.lx, ly := q.ly, lyNew := q.lyNew, pend := q.pend, out := q.out, drainAt := q.drainAt, pc := q.pc
    nextAt := q.nextAt, wakeAt := q.wakeAt, aged := q.aged, held := q.held, stage := q.stage, verdict := q.verdict
    waited := q.waited, retired := q.retired, quant := q.quant, park := q.park, work := q.work, strict := q.strict, overlapped := q.overlapped }

/-- A memory instruction has issued: the PC is past it, no register is written at issue, the flags `fl` are sticky, and other
plies, skeins, contexts, launches and tile memories stay as they were. -/
structure Accessed (i : Instr) (s : State) (key : Nat) (p : Ply) (fl : FFlags) (t : State) (q : Ply) : Prop where
  here : t.plies.get? key = some q
  pc : q.pc = p.pc + BitVec.ofNat 64 (encode i).size
  pend : q.pend = (issuePly i s p).pend
  retired : q.retired = p.retired + 1
  stat : q.stat = p.stat ||| fl.setWidth 64 |||
    (if i.shape.thread ∧ p.em = 0 then 0 else fieldAt 8 (heldOf i s p).vacrd.toNat ||| fieldAt 9 (heldOf i s p).upinv.toNat)
  kept : AccessOnly (vacated i (issuePly i s p)) q
  others : ∀ k, k ≠ key → t.plies.get? k = s.plies.get? k
  shared : t.skeins = s.skeins ∧ t.ctxs = s.ctxs ∧ t.launches = s.launches ∧ t.hw = s.hw

/-- The lanes of a memory instruction: the active threads, or one when it is uniform (R173). -/
def lanesOf (i : Instr) (v : Env) : List Nat := if i.shape.thread then threadsOf v.p.width v.p.em else [0]

/-- The addresses of the lanes of a memory instruction (R171): operand `b` the base, operand `o` the offset. -/
def addresses (i : Instr) (v : Env) (b o sc : Nat) : List (Nat × DWord) :=
  (lanesOf i v).map fun k => (k, v.dw b 0 + ((v.w o k).signExtend 64 <<< sc))

/-- The instruction issues with at least one lane, its addresses pass the checks of R174 and give the targets `l`, and its landing
entries and slots have room (R175). -/
structure Reaches (i : Instr) (s : State) (key : Nat) (p : Ply) (r w lands : Bool) (size b o sc : Nat) (l : List Target) : Prop where
  ready : Ready i s key p
  lanes : addresses i (envOf i s key p) b o sc ≠ []
  go : planAccess (envOf i s key p) (baseOf i s key p) (addresses i (envOf i s key p) b o sc) size r w true = .go l
  room : lands = true → blocksOf l ≤ landingFree (baseOf i s key p) p
  slots : w = true → (l.map fun x => x.loc / 32).eraseDups.length ≤ slotsFree (baseOf i s key p) p.core

/-- The look-up of the instruction's addresses in the core TLB, four distinct entries a cycle, takes no cycle of its own, or has been
made (R74). -/
def Looked (i : Instr) (s : State) (key : Nat) (p : Ply) (vas : List DWord) : Prop :=
  p.stage ≠ 0 ∨ (tlbEntries (baseOf i s key p) p vas).length ≤ 4

/-- An instruction that would issue (under `c`), and whose addresses use `n` distinct core-TLB entries, more than four, waits ⌈n/4⌉ − 1
cycles first (R74). -/
def LooksUp (i : Instr) (r w lands : Bool) (size b o sc : Nat) (c : Env → List Target → Prop) : Prop :=
  ∀ s key p l, Reaches i s key p r w lands size b o sc l → c (envOf i s key p) l → ¬ Looked i s key p (l.map (·.va)) →
    exec i s = .next ((baseOf i s key p).modPly key fun q => q.waitOn
      (.cycle (issueAt i s p + (((tlbEntries (baseOf i s key p) p (l.map (·.va))).length + 3) / 4 - 1))) 1 (some (heldOf i s p)))

/-- Every access of the instruction was performed when it issued: none is strict and none is overlapped and outstanding (R149 to R151). -/
def Performed (p q : Ply) : Prop := q.strict = 0 ∧ q.overlapped = p.overlapped

/-- Where a core reads the data of a target: its own die's replica in a replicated range (R65, R165). -/
def Target.readPlace (core : Nat) (x : Target) : Nat :=
  if x.attr.repl && x.attr.repmask.testBit (coreDie core) then replicaLoc (coreDie core) x.loc else x.loc

/-- What a load of `n` bytes at a target reads when it is performed at issue: the data of the party's own store, where that is its latest
outstanding access to one of the bytes and covers them all, and what memory holds otherwise (R151, R178). -/
def loadValue (s : State) (key core n : Nat) (x : Target) : QWord :=
  let mem : QWord := BitVec.ofNat 128 (s.readLoc x.attr.key (x.readPlace core) n)
  match (pendingAt s (.ply key) core x.loc n).head? with
  | some t =>
    if t.acc.kind = .store ∧ t.acc.loc ≤ x.loc ∧ x.loc + n ≤ t.acc.loc + t.acc.bytes then
      BitVec.ofNat 128 (t.acc.data.toNat / 2 ^ (8 * (x.loc - t.acc.loc)) % 2 ^ (8 * n))
    else mem
  | none => mem

/-- Where a write to a target goes: its location, or every replica (R165). -/
def Target.places (x : Target) : List Nat :=
  if x.attr.repl && decide (x.attr.repmask ≠ 0) then
    ((List.range 4).filter fun d => x.attr.repmask.testBit d).map fun d => replicaLoc d x.loc
  else [x.loc]

/-- The registers that the values of a memory instruction land in: one value for an s-name, the values of the lanes otherwise
(R178 to R180). -/
def landed (d : Name) (wd : Width) (width : Nat) (l : List Target) (val : Target → QWord) : List Write :=
  if d.isS then dstWrites d wd 1 ((l.take 1).map val)
  else dstWrites d wd (maskWhere (l.map (·.thread)) fun _ => true)
    ((List.range width).map fun k => ((l.find? fun x => x.thread = k).map val).getD 0)

/-- `n` bytes at `a` and `n` bytes at `b` have none in common. -/
def Apart (n a b : Nat) : Prop := a + n ≤ b ∨ b + n ≤ a

/-- Memory outside the `n` bytes at each place of the targets is unchanged: a sector that no place meets reads as before under
every key, and where the targets have one key, every other byte reads as before under that key (R63, R177). -/
def Frame (n : Nat) (l : List Target) (s t : State) : Prop :=
  (∀ a key, (∀ x ∈ l, ∀ c ∈ x.places, a / 32 * 32 + 32 ≤ c ∨ c + n ≤ a / 32 * 32) →
    t.readByte key a = s.readByte key a) ∧
  ∀ a key, (∀ x ∈ l, x.attr.key = key) → (∀ x ∈ l, ∀ c ∈ x.places, a < c ∨ c + n ≤ a) → t.readByte key a = s.readByte key a

/-- What the access `x` of the list stores is `v`, read under the key of the targets, unless a later one meets its places
(R140, R177). -/
def Stores (n : Nat) (l : List Target) (v : Target → Nat) (t : State) : Prop :=
  ∀ key before x after, l = before ++ x :: after → (∀ y ∈ l, y.attr.key = key) →
    ∀ c ∈ x.places, (∀ y ∈ after, ∀ c' ∈ y.places, Apart n c c') →
      ∀ j < n, t.readByte key (c + j) = BitVec.ofNat 8 (v x / 2 ^ (8 * j))

/-! ## Strings -/

/-- The unit of 16 bytes at an address of a text. -/
def unitOf (text : DWord → Byte) (a : DWord) : QWord :=
  BitVec.ofNat 128 (valueOf ((List.range 16).map fun j => text (a + BitVec.ofNat 64 j)))

/-- `n` bytes of a text. -/
def textOf (text : DWord → Byte) (a : DWord) (n : Nat) : List Byte := (List.range n).map fun j => text (a + BitVec.ofNat 64 j)

/-- The ply stands in its string instruction, a landing entry is free, and its unit reads have been made: those of the strings
`strs`, address and length, in the order of R312. -/
def HasRead (text : DWord → Byte) (i : Instr) (strs : Env → List (DWord × Nat)) (v : Env) (s : State) : Prop :=
  v.stage = 1 ∧ lanesOf i v ≠ [] ∧ landingFree s v.p ≠ 0 ∧ ∃ w, v.p.work = some w ∧ w.use ≠ .lost ∧
    w.got.map (·.2) = ((strs v).flatMap fun x => unitsOf x.1 x.2).map (unitOf text)

/-! ## Tiles -/

/-- A tile instruction passes the checks of R224 with tile `e` of skein `k`: reference, alignment, range and state; the partition's
earlier tile instructions have had their slots (R221). -/
def OnTile (i : Instr) (b size mask : Nat) (off : Env → Nat → DWord) (k : Skein) (e : TileEnt) (v : Env) (s : State) : Prop :=
  s.skein? v.p = some k ∧ lanesOf i v ≠ [] ∧ resolveRef (s.hwOf v.p.core) v.p.slot (v.dw b 0) = .inl e ∧
    (∀ j ∈ lanesOf i v, (off v j).toNat % size = 0) ∧
    (∀ j ∈ lanesOf i v, 0 ≤ (off v j).toInt ∧ (off v j).toNat + size ≤ 512 * e.size) ∧ e.inStates mask = true ∧ partTileAt s v.p ≤ v.t

/-- The physical address of a lane's byte (R217). -/
def tileAt (off : Env → Nat → DWord) (k : Skein) (e : TileEnt) (v : Env) (j : Nat) : Nat :=
  (k.wbase + 512 * e.base + (off v j).toNat) % 2 ^ 21

/-- The last slot of a tile instruction (R221). -/
def tileEnd (i : Instr) (off : Env → Nat → DWord) (k : Skein) (e : TileEnt) (v : Env) : Nat :=
  lastSlot v.t (v.p.plyid % 4) (slotCount ((lanesOf i v).map fun j => tileAt off k e v j / 16))

/-- The value of `n` bytes of tile memory, addresses modulo 2 MiB (R213, R217). -/
def tileValue (s : State) (core a n : Nat) : Nat := valueOf ((List.range n).map fun j => (s.hwOf core).tile.read ((a + j) % 2 ^ 21))

/-- The job of a tile instruction: each lane's access at its physical address, laid out over the partition's slots, readable eight
cycles after the last (R221). -/
def tileJob (i : Instr) (act : TileAct) (size : Nat) (use : TileUse) (off : Env → Nat → DWord) (data : Env → Nat → QWord × DWord)
    (k : Skein) (e : TileEnt) (v : Env) : TileJob :=
  let lanes := (lanesOf i v).map fun j => (⟨j, tileAt off k e v j, (data v j).1, (data v j).2⟩ : TileLane)
  ⟨act, size, use, v.p.em, planSlots lanes.length (firstSlot v.t (v.p.plyid % 4)) lanes, [], tileEnd i off k e v + 8⟩

/-- The ply after a tile instruction has issued: its job is in flight and its last slot noted (R221). -/
def tileNoted (i : Instr) (j : TileJob) (off : Env → Nat → DWord) (k : Skein) (e : TileEnt) (v : Env) (s : State) : State :=
  s.modPly v.key fun p => { p with tileAt := tileEnd i off k e v, tiles := p.tiles ++ [j] }

/-- The place kept for the result of a tile instruction: its value comes in the slots (R221). -/
def tilePlaces (i : Instr) (d : Name) (wd : Width) (off : Env → Nat → DWord) (k : Skein) (e : TileEnt) (v : Env) : Effect :=
  { writes := dstWrites d wd (if d.isS then 1 else v.p.em) [], lat := some (tileEnd i off k e v + 8 - v.t) }

/-- The lane accesses of a job's slots, in the order in which they are served (R222). -/
def TileJob.order (j : TileJob) : List TileLane := j.slots.flatMap (·.2)

/-- The machine stands past every slot of the one job in flight of its one ply. -/
structure SlotsPassed (s : State) (key : Nat) (p : Ply) (j : TileJob) : Prop where
  only : s.plies = [(key, p)]
  job : p.tiles = [j]
  passed : ∀ x ∈ j.slots, x.1 ≤ s.cycle
  fresh : j.got = []

/-- What the ply holds when the job's result, the values `vals` by thread, has taken its place (R221). -/
def tileDelivered (p : Ply) (j : TileJob) (vals : List (Nat × QWord)) : Ply :=
  { p.tileDone j.due (j.use.writes j.size p.width j.mask vals) with tiles := [] }

/-! ## Spindles -/

/-- The next slot of a spindle reads the last units of its window: no two of them lie in one bank (R328). -/
structure ReadsLast (s : State) (core part : Nat) : Prop where
  four : (s.hwOf core).spindles.length = 4
  mine : part < 4
  some : (s.spindle core part).reads ≠ []
  apart : (s.spindle core part).reads.Pairwise fun u w => u % 128 ≠ w % 128
  tile : (s.hwOf core).tile.wf = true
  image : (s.spindle core part).image.wf = true

/-- `m` holds what the window has read: the units of the slot as tile memory has them now, every other byte as read before. -/
def ImageRead (s : State) (core part : Nat) (m : Memory) : Prop :=
  (∀ u ∈ (s.spindle core part).reads, ∀ j < 16, m.read (16 * u + j) = (s.hwOf core).tile.read (16 * u + j)) ∧
  ∀ a, a / 16 ∉ (s.spindle core part).reads → m.read a = (s.spindle core part).image.read a

/-! ## Homes -/

/-- The home of a location has nothing else to do for it (R122 to R147): no request is under way, its granule is SHARED and not
withdrawn, its grain has no directory entry, the slice is not held back by a fence, and the directory has room. -/
structure HomeQuiet (s : State) (loc : Nat) (g : BitVec 2) : Prop where
  idle : s.txns = []
  device : tierOf loc ≤ 1
  kept : granuleOf loc ∉ s.withdrawn
  shared : ∃ e, s.classes.get? (granuleOf loc) = some e ∧ e.cls = .shared ∧ e.wd = false
  nobody : s.dir.get? (grainBase s loc g) = none
  room : dirCount s (s.homeOf loc) + 16 ≤ 65536
  free : s.sliceHold.get? (homeSlice loc) = none

/-- A request flit names the strict access `a` of its core, outside replicated ranges. -/
structure Names (s : State) (f : ReqFlit) (a : Acc) : Prop where
  strict : f.strict = true
  known : ∃ t, transOf s f.owner f.hdr = some t ∧ t.acc = a
  block : f.loc = blockOf a.loc
  plain : a.attr.repl = false

/-- A message leaves: the network holds it behind what it held before. -/
def Sends (s t : State) (i : Instr) : Prop := ∃ more, t.net = s.net ++ more ∧ i ∈ more

/-- The home has answered with data: where the request came from, with the bytes and the ownership given, and memory is as before. -/
def Answers (i : Instr) (s : State) (dst : Endpoint) (own : Bool) (bytes : List Byte) (p : State → Prop) : Prop :=
  ∃ t d, exec i s = .next t ∧ Sends s t (.rdata d) ∧ d.hdr.dst = dst ∧ d.stat = .done ∧ d.own = own ∧ d.bytes = bytes ∧
    t.txns = [] ∧ t.mem = s.mem ∧ t.keyed = s.keyed ∧ p t

/-- The host and the peers meet nothing at the line or block of a location: no request is under way, the directory and the class
table hold nothing, the block has no tag, and the granule is not withdrawn. -/
structure OutsideQuiet (s : State) (loc : Nat) : Prop where
  idle : s.txns = []
  dir : s.dir = []
  unclassed : s.classes.get? (granuleOf loc) = none
  untagged : s.tags.get? (blockOf loc) = none
  kept : granuleOf loc ∉ s.withdrawn
  free : s.sliceHold.get? (homeSlice loc) = none

/-! ## Parts that stay -/

/-- The parts of every core, skein and context that the spec fixes: the tile memory and what a spindle has read of it in canonical form, four
spindles (R325), sixteen barriers (R397), sixty-four vectors (R414). -/
structure Formed (s : State) : Prop where
  tiles : ∀ x ∈ s.hw, x.2.tile.wf = true
  spindles : ∀ x ∈ s.hw, x.2.spindles.length = 4
  images : ∀ x ∈ s.hw, ∀ y ∈ x.2.spindles, y.image.wf = true
  barriers : ∀ x ∈ s.skeins, x.2.bars.length = 16
  vectors : ∀ x ∈ s.ctxs, x.2.vecs.length = 64

end Sys2Proof.Machine
end

