-- ==== Sys2Proof/WellFormed.lean ====
section
/-! DEFINITION. Well-formed instructions: the encodings that R40 leaves as instructions. The checks themselves stand
beside the operand descriptions in `Machine/Shape.lean`. -/

namespace Sys2Proof

/-- An instruction whose operand names, widths and minors R40 accepts. A step without an encoding is always well formed. -/
def Instr.WellFormed (i : Instr) : Prop := i.legal = true

end Sys2Proof
end

