-- ==== Sys2Proof/Certificates/Slice0/Obligations.lean ====
section
/-! DEFINITION. The statements about the machine. -/

open Sys2Proof Sys2Proof.Machine

/-! ## Lane instructions -/

/-- R286: the sums, products, minima and maxima of the F3 integer instructions, for every operand; each instruction completes,
and nothing but its destination, its latch and what its dead bits name changes. R286, R288: the bitwise operations, the shifts (an amount of 32 or more clears, or fills with the sign), the rotation, the
choice by p0 or q0, and the field instructions. -/
def Obligations.IntegerOperationsYield : Prop :=
  (∀ (d : Name) (a b : Src) (sw : Bool),
    Yields (.iadd d a b sw) d .one (fun v k => r32 (BitVec.ofNat 32 ((v.w 0 k).toNat + (v.w 1 k).toNat))) ∧
    Yields (.isub d a b sw) d .one (fun v k => r32 (BitVec.ofInt 32 ((v.w 0 k).toNat - (v.w 1 k).toNat))) ∧
    Yields (.imul d a b sw) d .one (fun v k => r32 (BitVec.ofNat 32 ((v.w 0 k).toNat * (v.w 1 k).toNat))) ∧
    Yields (.imad d a b sw) d .one (fun v k =>
      r32 (BitVec.ofNat 32 ((v.w 1 k).toNat * (v.w 2 k).toNat + (v.w 0 k).toNat))) ∧
    Yields (.imulh d a b sw) d .one (fun v k => r32 (BitVec.ofInt 32 ((v.w 0 k).toInt * (v.w 1 k).toInt / 2 ^ 32))) ∧
    Yields (.imulhn d a b sw) d .one (fun v k => r32 (BitVec.ofNat 32 ((v.w 0 k).toNat * (v.w 1 k).toNat / 2 ^ 32))) ∧
    Yields (.imin d a b sw) d .one (fun v k => r32 (BitVec.ofInt 32 (min (v.w 0 k).toInt (v.w 1 k).toInt))) ∧
    Yields (.iminn d a b sw) d .one (fun v k => r32 (BitVec.ofNat 32 (min (v.w 0 k).toNat (v.w 1 k).toNat))) ∧
    Yields (.imax d a b sw) d .one (fun v k => r32 (BitVec.ofInt 32 (max (v.w 0 k).toInt (v.w 1 k).toInt))) ∧
    Yields (.imaxn d a b sw) d .one (fun v k => r32 (BitVec.ofNat 32 (max (v.w 0 k).toNat (v.w 1 k).toNat))) ∧
    Yields (.iadd64 d a b sw) d .pair (fun v k => r64 (BitVec.ofNat 64 ((v.dw 0 k).toNat + (v.dw 1 k).toNat))) ∧
    Yields (.isub64 d a b sw) d .pair (fun v k => r64 (BitVec.ofInt 64 ((v.dw 0 k).toNat - (v.dw 1 k).toNat))) ∧
    Yields (.lea d a b sw) d .pair (fun v k => r64 (BitVec.ofInt 64 ((v.dw 0 k).toNat + (v.w 1 k).toInt)))) ∧
  ∀ (d : Name) (a b : Src) (sw : Bool),
    Yields (.and d a b sw) d .one (fun v k => r32 (v.w 0 k &&& v.w 1 k)) ∧
    Yields (.or d a b sw) d .one (fun v k => r32 (v.w 0 k ||| v.w 1 k)) ∧
    Yields (.xor d a b sw) d .one (fun v k => r32 (v.w 0 k ^^^ v.w 1 k)) ∧
    Yields (.andn d a b sw) d .one (fun v k => r32 (v.w 0 k &&& ~~~(v.w 1 k))) ∧
    Yields (.shl d a b sw) d .one (fun v k => r32 (BitVec.ofNat 32 ((v.w 0 k).toNat * 2 ^ (v.w 1 k).toNat))) ∧
    Yields (.shr d a b sw) d .one (fun v k => r32 (BitVec.ofNat 32 ((v.w 0 k).toNat / 2 ^ (v.w 1 k).toNat))) ∧
    Yields (.sar d a b sw) d .one (fun v k => r32 (BitVec.ofInt 32 ((v.w 0 k).toInt / 2 ^ (v.w 1 k).toNat))) ∧
    Yields (.rotl d a b sw) d .one (fun v k => r32 ((v.w 0 k).rotateLeft ((v.w 1 k).toNat % 32))) ∧
    Yields (.sel d a b sw) d .one (fun v k => r32 (if v.pred.getLsbD k then v.w 0 k else v.w 1 k)) ∧
    Yields (.bfe d a b sw) d .one (fun v k =>
      let pos := (v.w 1 k).toNat % 32
      let n := min (min ((v.w 1 k).toNat / 256 % 64) 32) (32 - pos)
      let f := (v.w 0 k).toNat / 2 ^ pos % 2 ^ n
      r32 (if (v.w 1 k).getLsbD 16 ∧ 0 < n ∧ 2 ^ n ≤ 2 * f then BitVec.ofInt 32 (f - 2 ^ n) else BitVec.ofNat 32 f)) ∧
    Yields (.bfi d a b sw) d .one (fun v k =>
      let pos := (v.w 1 k).toNat % 32
      let n := min (min ((v.w 1 k).toNat / 256 % 64) 32) (32 - pos)
      let m : Word := BitVec.ofNat 32 ((2 ^ n - 1) * 2 ^ pos)
      r32 ((v.w 2 k &&& ~~~m) ||| ((v.w 0 k <<< pos) &&& m)))

/-- R287: the immediate forms, the immediate sign-extended where R287 says so. R289: IUN, minor by minor; counts of zeros are 32 for zero, and MOV64 copies a pair. -/
def Obligations.IntegerImmediateYields : Prop :=
  (∀ (d : Name) (a : Src) (sw : Bool),
      (∀ im : BitVec 8,
        Yields (.iaddi d a im sw) d .one (fun v k => r32 (BitVec.ofInt 32 ((v.w 0 k).toInt + im.toInt))) ∧
        Yields (.andi d a im sw) d .one (fun v k => r32 (v.w 0 k &&& BitVec.ofInt 32 im.toInt)) ∧
        Yields (.ori d a im sw) d .one (fun v k => r32 (v.w 0 k ||| BitVec.ofInt 32 im.toInt)) ∧
        Yields (.xori d a im sw) d .one (fun v k => r32 (v.w 0 k ^^^ BitVec.ofInt 32 im.toInt))) ∧
      (∀ im : BitVec 7,
        Yields (.shli d a im sw) d .one (fun v k => r32 (BitVec.ofNat 32 ((v.w 0 k).toNat * 2 ^ im.toNat))) ∧
        Yields (.shri d a im sw) d .one (fun v k => r32 (BitVec.ofNat 32 ((v.w 0 k).toNat / 2 ^ im.toNat))) ∧
        Yields (.sari d a im sw) d .one (fun v k => r32 (BitVec.ofInt 32 ((v.w 0 k).toInt / 2 ^ im.toNat)))) ∧
      (∀ im : BitVec 16,
        Yields (.movi d im sw) d .one (fun _ _ => r32 (BitVec.ofNat 32 im.toNat)) ∧
        Yields (.movhi d im sw) d .one (fun _ _ => r32 (BitVec.ofNat 32 (im.toNat * 2 ^ 16))))) ∧
  (∀ (d : Name) (a : Src) (sw : Bool),
      Yields (.iun d a 0 sw) d .one (fun v k => r32 (if (v.w 0 k).toInt < 0 then - v.w 0 k else v.w 0 k)) ∧
      Yields (.iun d a 1 sw) d .one (fun v k => r32 (- v.w 0 k)) ∧
      Yields (.iun d a 2 sw) d .one (fun v k => r32 (~~~ v.w 0 k)) ∧
      Yields (.iun d a 3 sw) d .one (fun v k => r32 (BitVec.ofNat 32 ((List.range 32).countP (v.w 0 k).getLsbD))) ∧
      Yields (.iun d a 4 sw) d .one (fun v k =>
        r32 (BitVec.ofNat 32 (32 - if v.w 0 k = 0 then 0 else Nat.log2 (v.w 0 k).toNat + 1))) ∧
      Yields (.iun d a 5 sw) d .one (fun v k =>
        r32 (BitVec.ofNat 32 (((List.range 32).find? (v.w 0 k).getLsbD).getD 32))) ∧
      (∀ g : Word → Word, (∀ x i, i < 32 → (g x).getLsbD i = x.getLsbD (31 - i)) →
        Yields (.iun d a 6 sw) d .one (fun v k => r32 (g (v.w 0 k)))) ∧
      Yields (.iun d a 7 sw) d .one (fun v k => r32 (BitVec.ofInt 32 ((v.w 0 k).setWidth 8).toInt)) ∧
      Yields (.iun d a 8 sw) d .one (fun v k => r32 (BitVec.ofInt 32 ((v.w 0 k).setWidth 16).toInt)) ∧
      Yields (.iun d a 9 sw) d .one (fun v k => r32 (BitVec.ofNat 32 ((v.w 0 k).toNat % 2 ^ 8))) ∧
      Yields (.iun d a 10 sw) d .one (fun v k => r32 (BitVec.ofNat 32 ((v.w 0 k).toNat % 2 ^ 16))) ∧
      Yields (.iun d a 11 sw) d .pair (fun v k => r64 (v.dw 0 k)))

/-- R38, R303: the 16-bit integer forms compute as their 32-bit counterparts; `d` is the first operand where it is a source. -/
def Obligations.ShortIntegerYields : Prop :=
  ∀ (d b : Short) (im : BitVec 5) (sw : Bool),
    Yields (.movH d b sw) d.name .one (fun v k => r32 (v.w 0 k)) ∧
    Yields (.movi5H d im sw) d.name .one (fun _ _ => r32 (BitVec.ofInt 32 im.toInt)) ∧
    Yields (.iaddH d b sw) d.name .one (fun v k => r32 (BitVec.ofNat 32 ((v.w 0 k).toNat + (v.w 1 k).toNat))) ∧
    Yields (.iaddi5H d im sw) d.name .one (fun v k => r32 (BitVec.ofInt 32 ((v.w 0 k).toInt + im.toInt))) ∧
    Yields (.isubH d b sw) d.name .one (fun v k => r32 (BitVec.ofInt 32 ((v.w 0 k).toNat - (v.w 1 k).toNat))) ∧
    Yields (.imulH d b sw) d.name .one (fun v k => r32 (BitVec.ofNat 32 ((v.w 0 k).toNat * (v.w 1 k).toNat))) ∧
    Yields (.andH d b sw) d.name .one (fun v k => r32 (v.w 0 k &&& v.w 1 k)) ∧
    Yields (.orH d b sw) d.name .one (fun v k => r32 (v.w 0 k ||| v.w 1 k)) ∧
    Yields (.xorH d b sw) d.name .one (fun v k => r32 (v.w 0 k ^^^ v.w 1 k)) ∧
    Yields (.shli5H d im sw) d.name .one (fun v k => r32 (BitVec.ofNat 32 ((v.w 0 k).toNat * 2 ^ im.toNat))) ∧
    Yields (.shri5H d im sw) d.name .one (fun v k => r32 (BitVec.ofNat 32 ((v.w 0 k).toNat / 2 ^ im.toNat))) ∧
    Yields (.sari5H d im sw) d.name .one (fun v k => r32 (BitVec.ofInt 32 ((v.w 0 k).toInt / 2 ^ im.toNat)))

/-! ## Compares and division -/

/-- R290, R295: ICMP sets the predicate where the condition holds, on 32 or 64 bits, signed or unsigned; FCMP where the relation of
the model's ordering function holds. Only the named predicate and the latch change. R295: the relations of FCMP. A NaN is unordered with
everything; zeros of both signs are equal; otherwise the finite and infinite values are in their order, compared as integers on a
common scale on which every finite value lies between those of the infinities. -/
def Obligations.ComparesWritePredicate : Prop :=
  (∀ (a : Src) (b : Name) (n : BitVec 3) (sw : Bool),
      (∀ c : BitVec 5, c.toNat < 10 → Compares (.icmp a b n c sw) n.toNat (fun v k =>
        let x := v.w 0 k
        let y := v.w 1 k
        (c = 0 && x == y) || (c = 1 && x != y) || (c = 2 && x.toInt < y.toInt) || (c = 3 && x.toInt ≤ y.toInt) ||
          (c = 4 && x.toInt > y.toInt) || (c = 5 && x.toInt ≥ y.toInt) || (c = 6 && x.toNat < y.toNat) ||
          (c = 7 && x.toNat ≤ y.toNat) || (c = 8 && x.toNat > y.toNat) || (c = 9 && x.toNat ≥ y.toNat))) ∧
      (∀ c : BitVec 5, 16 ≤ c.toNat → c.toNat < 26 → Compares (.icmp a b n c sw) n.toNat (fun v k =>
        let x := v.dw 0 k
        let y := v.dw 1 k
        (c = 16 && x == y) || (c = 17 && x != y) || (c = 18 && x.toInt < y.toInt) || (c = 19 && x.toInt ≤ y.toInt) ||
          (c = 20 && x.toInt > y.toInt) || (c = 21 && x.toInt ≥ y.toInt) || (c = 22 && x.toNat < y.toNat) ||
          (c = 23 && x.toNat ≤ y.toNat) || (c = 24 && x.toNat > y.toNat) || (c = 25 && x.toNat ≥ y.toNat))) ∧
      (∀ c : BitVec 5, c.toNat < 8 → Compares (.fcmp a b n c sw) n.toNat (fun v k =>
        fCmp c.toNat (v.w 0 k).toNat (v.w 1 k).toNat))) ∧
  (∀ x y : Nat, x < 2 ^ 32 → y < 2 ^ 32 →
      (Fmt.f32.unpack x = .nan ∨ Fmt.f32.unpack y = .nan →
        fCmp 0 x y = false ∧ fCmp 1 x y = true ∧ fCmp 2 x y = false ∧ fCmp 3 x y = false ∧ fCmp 4 x y = false ∧
          fCmp 5 x y = false ∧ fCmp 6 x y = true ∧ fCmp 7 x y = false) ∧
      (Fmt.f32.unpack x ≠ .nan → Fmt.f32.unpack y ≠ .nan →
        let i := scaleF32 (Fmt.f32.unpack x)
        let j := scaleF32 (Fmt.f32.unpack y)
        fCmp 0 x y = decide (i = j) ∧ fCmp 1 x y = decide (i ≠ j) ∧ fCmp 2 x y = decide (i < j) ∧ fCmp 3 x y = decide (i ≤ j) ∧
          fCmp 4 x y = decide (i > j) ∧ fCmp 5 x y = decide (i ≥ j) ∧ fCmp 6 x y = false ∧ fCmp 7 x y = true))

/-- R291: with no active zero divisor the divide family completes, and the truncated quotient or the remainder of each thread
lands at a switch point. R291: an active zero divisor traps with IDIV0, XVAL holding the threads whose divisor is zero, and nothing is divided. -/
def Obligations.DivisionLands : Prop :=
  (∀ (d : Name) (a b : Src) (sw : Bool),
      let ok : Instr → Env → State → Prop := fun i v _ => ∀ k ∈ v.threads i, v.w 1 k ≠ 0
      Does (.idiv d a b sw) (ok (.idiv d a b sw)) (fun _ s => s) (fun v _ => { land := landOf (.idiv d a b sw) v d (fun k =>
        r32 (BitVec.ofInt 32 ((v.w 0 k).toInt.tdiv (v.w 1 k).toInt))) }) ∧
      Does (.irem d a b sw) (ok (.irem d a b sw)) (fun _ s => s) (fun v _ => { land := landOf (.irem d a b sw) v d (fun k =>
        r32 (BitVec.ofInt 32 ((v.w 0 k).toInt - (v.w 1 k).toInt * (v.w 0 k).toInt.tdiv (v.w 1 k).toInt))) }) ∧
      Does (.idivn d a b sw) (ok (.idivn d a b sw)) (fun _ s => s) (fun v _ => { land := landOf (.idivn d a b sw) v d (fun k =>
        r32 (BitVec.ofNat 32 ((v.w 0 k).toNat / (v.w 1 k).toNat))) }) ∧
      Does (.iremn d a b sw) (ok (.iremn d a b sw)) (fun _ s => s) (fun v _ => { land := landOf (.iremn d a b sw) v d (fun k =>
        r32 (BitVec.ofNat 32 ((v.w 0 k).toNat % (v.w 1 k).toNat))) })) ∧
  (∀ (d : Name) (a b : Src) (sw : Bool), ∀ i ∈ [Instr.idiv d a b sw, .idivn d a b sw, .irem d a b sw, .iremn d a b sw],
      Traps i (fun v _ => ∃ k ∈ v.threads i, v.w 1 k = 0) 0x03 (fun v _ => maskWhere (v.threads i) fun k => v.w 1 k == 0))

/-! ## Floating point -/

/-- R284, R292: FADD, FSUB, FMUL, FFMA and FDIV, and their 16-bit forms, yield the exact result rounded once under FRM, with the
flags of R268; FMIN and FMAX raise none. Nothing else of the ply changes but the sticky flags. R293, R294: the packed forms round each BF16 element on its own and OR the flags; FDOT2 rounds the exact sum of two products
once to FP32. -/
def Obligations.FloatArithmeticYields : Prop :=
  (∀ (d : Name) (a b : Src) (sw : Bool) (d5 b5 : Short),
      let y (i : Instr) (d : Name) (pre : Env → Nat → Pre) : Prop := YieldsFlags i d .one (fun v k =>
        let r := roundLane i .f32 v (pre v) k 0
        (BitVec.ofNat 128 r.1, r.2))
      let rm (v : Env) : Rm := frmMode v.p.frm
      y (.fadd d a b sw) d (fun v k => fAddPre .f32 (rm v) (v.f32 0 k) (v.f32 1 k)) ∧
      y (.fsub d a b sw) d (fun v k => fAddPre .f32 (rm v) (v.f32 0 k) (v.f32 1 k).neg) ∧
      y (.fmul d a b sw) d (fun v k => fMulPre .f32 (rm v) (v.f32 0 k) (v.f32 1 k)) ∧
      y (.ffma d a b sw) d (fun v k => fFmaPre .f32 (rm v) (v.f32 1 k) (v.f32 2 k) (v.f32 0 k)) ∧
      y (.fdiv d a b sw) d (fun v k => fDivPre .f32 (v.f32 0 k) (v.f32 1 k)) ∧
      y (.faddH d5 b5 sw) d5.name (fun v k => fAddPre .f32 (rm v) (v.f32 0 k) (v.f32 1 k)) ∧
      y (.fmulH d5 b5 sw) d5.name (fun v k => fMulPre .f32 (rm v) (v.f32 0 k) (v.f32 1 k)) ∧
      y (.ffmaH d5 b5 sw) d5.name (fun v k => fFmaPre .f32 (rm v) (v.f32 2 k) (v.f32 1 k) (v.f32 0 k)) ∧
      Yields (.fmin d a b sw) d .one (fun v k => r32 (BitVec.ofNat 32 (fMinMax false (v.w 0 k).toNat (v.w 1 k).toNat))) ∧
      Yields (.fmax d a b sw) d .one (fun v k => r32 (BitVec.ofNat 32 (fMinMax true (v.w 0 k).toNat (v.w 1 k).toNat))) ∧
      Yields (.fmaxH d5 b5 sw) d5.name .one (fun v k =>
        r32 (BitVec.ofNat 32 (fMinMax true (v.w 0 k).toNat (v.w 1 k).toNat)))) ∧
  (∀ (d : Name) (a b : Src) (sw : Bool),
      let rm (v : Env) : Rm := frmMode v.p.frm
      let y (i : Instr) (pre : Env → Nat → Nat → Pre) : Prop := YieldsFlags i d .one (fun v k =>
        let r0 := roundLane i .bf16 v (pre v 0) k 0
        let r1 := roundLane i .bf16 v (pre v 1) k 1
        (BitVec.ofNat 128 (r0.1 + r1.1 * 2 ^ 16), r0.2 ||| r1.2))
      y (.fadd2 d a b sw) (fun v e k => fAddPre .bf16 (rm v) (v.bf 0 e k) (v.bf 1 e k)) ∧
      y (.fmul2 d a b sw) (fun v e k => fMulPre .bf16 (rm v) (v.bf 0 e k) (v.bf 1 e k)) ∧
      y (.ffma2 d a b sw) (fun v e k => fFmaPre .bf16 (rm v) (v.bf 1 e k) (v.bf 2 e k) (v.bf 0 e k)) ∧
      YieldsFlags (.fdot2 d a b sw) d .one (fun v k =>
        let r := roundLane (.fdot2 d a b sw) .f32 v (fun k => sumTerms .f32 (rm v)
          [(v.bf 0 0 k).mulTerm (v.bf 1 0 k), (v.bf 0 1 k).mulTerm (v.bf 1 1 k)]) k 0
        (BitVec.ofNat 128 r.1, r.2)))

/-- R296: FUN computes its minor on FP32, or on both BF16 elements with the flags ORed. R274, R276: the conversions, with the rounding mode that mod3 selects: 0 to 4 a fixed mode, 5 that of FRM. -/
def Obligations.ConversionYields : Prop :=
  (∀ (d : Name) (a : Src) (f : BitVec 5) (sw : Bool),
      YieldsFlags (.funI d a f 0 sw) d .one (fun v k =>
        (BitVec.ofNat 128 (funF32 f.toNat (v.w 0 k).toNat).1, (funF32 f.toNat (v.w 0 k).toNat).2)) ∧
      YieldsFlags (.funI d a f 1 sw) d .one (fun v k =>
        let lo := funBf16 f.toNat ((v.w 0 k).toNat % 2 ^ 16)
        let hi := funBf16 f.toNat ((v.w 0 k).toNat / 2 ^ 16)
        (BitVec.ofNat 128 (lo.1 + hi.1 * 2 ^ 16), lo.2 ||| hi.2))) ∧
  (∀ (d : Name) (a : Src) (m : BitVec 3) (x1 : Bool) (sw : Bool),
      let toInt (i : Instr) (w : Width) (lo hi : Int) : Prop := YieldsFlags i d w (fun v k =>
        let mode := cvtMode v.p.frm m
        let r16 := if mode = .sr then v.r16 i (fun j => intDiscard (v.w 0 j).toNat) k 0 else 0
        let r := f32ToInt lo hi mode r16 (v.w 0 k).toNat
        ((BitVec.ofInt 64 r.1).setWidth 128, r.2))
      let fromInt (i : Instr) (f : Env → Nat → Int) : Prop := YieldsFlags i d .one (fun v k =>
        let mode := cvtMode v.p.frm m
        let r16 := if mode = .sr then v.r16 i (fun j => (intPre (f v j)).discard .f32) k 0 else 0
        let r := (intPre (f v k)).round .f32 mode r16 (overflow .f32 mode)
        (BitVec.ofNat 128 r.1, r.2))
      toInt (.cvtF2i d a m sw) .one (-2 ^ 31) (2 ^ 31 - 1) ∧
      toInt (.cvtF2n d a m sw) .one 0 (2 ^ 32 - 1) ∧
      toInt (.cvtF2i64 d a m sw) .pair (-2 ^ 63) (2 ^ 63 - 1) ∧
      fromInt (.cvtI2f d a m sw) (fun v k => (v.w 0 k).toInt) ∧
      fromInt (.cvtN2f d a m sw) (fun v k => (v.w 0 k).toNat) ∧
      fromInt (.cvtI642f d a m sw) (fun v k => (v.dw 0 k).toInt) ∧
      YieldsFlags (.cvtF2bf d a m sw) d .one (fun v k =>
        let mode := cvtMode v.p.frm m
        let pre := fun j => fromF32Pre .bf16 (frmNsat v.p.frm) mode (v.w 0 j).toNat
        let r16 := if mode = .sr then v.r16 (.cvtF2bf d a m sw) (fun j => (pre j).discard .bf16) k 0 else 0
        let r := fromF32Round .bf16 (frmNsat v.p.frm) mode r16 (pre k)
        (BitVec.ofNat 128 r.1, r.2)) ∧
      Yields (.cvtBf2f d a x1 sw) d .one (fun v k =>
        r32 (BitVec.ofNat 32 (toF32 .bf16 (if x1 then (v.w 0 k).toNat / 2 ^ 16 else (v.w 0 k).toNat % 2 ^ 16)))))

/-- R268: an enabled flag of an active thread makes the instruction trap with FPX instead; XVAL holds the flags of the lowest such
thread and its index, and neither a register nor PLYSTAT is written before the trap. Named here: FADD, FMUL, FDIV, FUN. -/
def Obligations.EnabledFlagTraps : Prop :=
  ∀ (d : Name) (a b : Src) (f : BitVec 5) (sw : Bool),
    let t (i : Instr) (pre : Env → Nat → Pre) : Prop := FpxTraps i (fun v k =>
      let r := roundLane i .f32 v (pre v) k 0
      (BitVec.ofNat 128 r.1, r.2))
    t (.fadd d a b sw) (fun v k => fAddPre .f32 (frmMode v.p.frm) (v.f32 0 k) (v.f32 1 k)) ∧
    t (.fmul d a b sw) (fun v k => fMulPre .f32 (frmMode v.p.frm) (v.f32 0 k) (v.f32 1 k)) ∧
    t (.fdiv d a b sw) (fun v k => fDivPre .f32 (v.f32 0 k) (v.f32 1 k)) ∧
    FpxTraps (.funI d a f 0 sw) (fun v k =>
      (BitVec.ofNat 128 (funF32 f.toNat (v.w 0 k).toNat).1, (funF32 f.toNat (v.w 0 k).toNat).2))

/-- R269, R284: what rounding does with an exact finite value. The grid point below is exact, the value lies within one last
place of it, the chosen neighbour is the one the mode names, and NX tells whether the value was on the grid. -/
def Obligations.RoundingBrackets : Prop :=
  ∀ (f : Fmt) (m : Nat) (e : Int) (neg : Bool),
    let g := f.grid m e
    (g.q ≤ e → g.r = 0 ∧ g.k = m * 2 ^ (e - g.q).toNat) ∧
    (e < g.q → m = g.k * 2 ^ (g.q - e).toNat + g.r ∧ g.r < 2 ^ (g.q - e).toNat ∧ g.sh = (g.q - e).toNat) ∧
    g.k < 2 ^ (f.fbits + 1) ∧
    (g.up .rz neg false 0).1 = false ∧
    ((g.up .ru neg false 0).1 = true ↔ neg = false ∧ g.r ≠ 0) ∧
    ((g.up .rd neg false 0).1 = true ↔ neg = true ∧ g.r ≠ 0) ∧
    ((g.up .rne neg false 0).1 = true ↔ 2 ^ g.sh < 2 * g.r ∨ (2 ^ g.sh = 2 * g.r ∧ g.k % 2 = 1)) ∧
    ∀ mode, ((g.up mode neg false 0).2 = true ↔ g.r ≠ 0)

/-! ## Lane exchange, hashes, partition -/

/-- R299, R301, R302: the exchanges read every thread's source; SCAN and REDUCE run over the active threads in ascending order. R300: VOTE gives every active thread the value, and q7 whether it is not zero, even when no thread is active. R299: WRLANE writes the one thread its immediate names, active or not, and the latch only if that thread is active; with no
active thread it writes nothing (R281). -/
def Obligations.ExchangeYields : Prop :=
  (∀ (d : Name) (a b : Src) (im : BitVec 8) (f : BitVec 5) (e : Bool) (sw : Bool),
      Yields (.shfl d a b sw) d .one (fun v k => r32 (v.w 0 ((v.w 1 k).toNat % v.p.width))) ∧
      Yields (.shflx d a im sw) d .one (fun v k => r32 (v.w 0 ((k ^^^ im.toNat) % v.p.width))) ∧
      Yields (.rdlane d a im sw) d .one (fun v _ => r32 (v.w 0 im.toNat)) ∧
      Yields (.scan d a f e sw) d .one (fun v k =>
        let before := (threadsOf v.p.width v.p.em).takeWhile (· ≠ k)
        if k ∈ threadsOf v.p.width v.p.em then
          r32 ((if e then before else before ++ [k]).foldl (fun acc j => scanComb f.toNat acc (v.w 0 j)) (scanIdent f.toNat))
        else 0) ∧
      Yields (.reduce d a f sw) d .one (fun v _ =>
        r32 ((threadsOf v.p.width v.p.em).foldl (fun acc j => scanComb f.toNat acc (v.w 0 j)) (scanIdent f.toNat))) ∧
      Yields (.matchI d a b sw) d .pair (fun v k =>
        r64 (maskWhere (threadsOf v.p.width v.p.em) fun j => v.w 0 j == v.w 0 k && v.w 1 j == v.w 1 k))) ∧
  (∀ (d : Name) (n : BitVec 3) (sw : Bool),
      let y (i : Instr) (w : Width) (x : Env → DWord) : Prop := Does i (fun _ _ => True) (fun _ s => s) (fun v _ =>
        { laneEffect i v d w (fun _ => r64 (x v)) with
          writes := (laneEffect i v d w fun _ => r64 (x v)).writes ++ [⟨.q 7, 1, [if x v = 0 then 0 else 1]⟩] })
      y (.voteAny d n sw) .one (fun v => if (List.range 64).any (fun k => v.p.em.getLsbD k && v.pred.getLsbD k) then 1 else 0) ∧
      y (.voteAll d n sw) .one (fun v => if (List.range 64).all (fun k => !v.p.em.getLsbD k || v.pred.getLsbD k) then 1 else 0) ∧
      y (.voteBallot d n sw) .pair (fun v => v.pred &&& v.p.em) ∧
      y (.voteCount d n sw) .one (fun v => BitVec.ofNat 64 ((List.range 64).countP fun k => v.p.em.getLsbD k && v.pred.getLsbD k))) ∧
  (∀ (d : Name) (a : Src) (im : BitVec 8) (sw : Bool),
      let i := Instr.wrlane d a im sw
      let m : DWord := 1#64 <<< im.toNat
      Does i (fun _ _ => True) (fun _ s => s) (fun v _ =>
        { laneEffect i v d .one (fun k => r32 (v.w 0 k)) with
          writes := if v.p.em = 0 then [] else dstWrites d .one m ((List.range v.p.width).map fun k => r32 (v.w 0 k))
          latchMask := some (m &&& v.p.em) }))

/-- R307, R308, R309: the mixing hashes, the CRC32C update and the partition with its stable ranks. -/
def Obligations.HashesYield : Prop :=
  ∀ (d : Name) (a b : Src) (sw : Bool),
    Yields (.hash d a b sw) d .one (fun v k =>
      r32 ((mix64 (((v.w 1 k).setWidth 64 <<< 32) ||| (v.w 0 k).setWidth 64)).setWidth 32)) ∧
    Yields (.hash64 d a b sw) d .pair (fun v k =>
      r64 (mix64 (v.dw 0 k ^^^ BitVec.ofNat 64 ((v.w 1 k).toNat * 0x9E3779B97F4A7C15)))) ∧
    Yields (.crc d a b sw) d .one (fun v k =>
      let n := (v.dw 0 k).toNat / 2 ^ 32 % 4
      r32 ((List.range (if n = 0 then 4 else n)).foldl (fun c i =>
        (List.range 8).foldl (fun c _ => if c.getLsbD 0 then (c >>> 1) ^^^ 0x82F63B78#32 else c >>> 1)
          (c ^^^ ((v.w 1 k) >>> (8 * i) &&& 0xFF#32))) ((v.dw 0 k).setWidth 32))) ∧
    Yields (.part d a b sw) d .pair (fun v k =>
      let bucket := fun j => (v.w 0 j).toNat * (v.w 1 j).toNat / 2 ^ 32
      let rank := (threadsOf v.p.width v.p.em).countP fun j => decide (j < k ∧ bucket j = bucket k)
      BitVec.ofNat 128 (bucket k + rank * 2 ^ 32))

/-! ## Control flow -/

/-- R357, R364: the uniform transfers go to the target the rule gives, CALL and CALLI leave the return address, BRQ falls through
when its predicate says so, and NOP does nothing. EM and the stack stay as they are. R20, R357: a register target that is odd traps with ALIGN, XVAL holding the target, and no return address is written. -/
def Obligations.TransfersComplete : Prop :=
  (∀ (d : Name) (a : Src) (o : BitVec 23) (p : BitVec 4) (o' : BitVec 19) (sw : Bool),
      let rel (v : Env) (n : Int) : DWord := v.p.pc + BitVec.ofInt 64 (2 * n)
      Does (.bra o sw) (fun _ _ => True) (fun _ s => s) (fun v _ => { target := some (rel v o.toInt) }) ∧
      Does (.brq p o' sw) (fun v _ => v.pred.getLsbD 0 ≠ p.getLsbD 3) (fun _ s => s)
        (fun v _ => { target := some (rel v o'.toInt) }) ∧
      Does (.brq p o' sw) (fun v _ => v.pred.getLsbD 0 = p.getLsbD 3) (fun _ s => s) (fun _ _ => {}) ∧
      Does (.call o sw) (fun _ _ => True) (fun _ s => s)
        (fun v _ => { target := some (rel v o.toInt), writes := [⟨.s 31, 1, [v.p.pc + 4]⟩] }) ∧
      Does (.calli d a sw) (fun v _ => (v.dw 0 0).getLsbD 0 = false) (fun _ s => s)
        (fun v _ => { target := some (v.dw 0 0), writes := dstWrites d .pair 1 [r64 (v.p.pc + 4)] }) ∧
      Does (.jmpi a sw) (fun v _ => (v.dw 0 0).getLsbD 0 = false) (fun _ s => s) (fun v _ => { target := some (v.dw 0 0) }) ∧
      Does (.ret a sw) (fun v _ => (v.dw 0 0).getLsbD 0 = false) (fun _ s => s) (fun v _ => { target := some (v.dw 0 0) }) ∧
      Does (.nop sw) (fun _ _ => True) (fun _ s => s) (fun _ _ => {})) ∧
  (∀ (d : Name) (a : Src) (sw : Bool), ∀ i ∈ [Instr.calli d a sw, .jmpi a sw, .ret a sw],
      Traps i (fun v _ => (v.dw 0 0).getLsbD 0 = true) 0x09 (fun v _ => v.dw 0 0))

/-- R358, R359: IF and ELECT push the EM they found, ELSE turns to the threads IF set aside, ENDIF restores the live ones, and a
block without active threads is jumped over. -/
def Obligations.IfElseComplete : Prop :=
  ∀ (d : Name) (p : BitVec 4) (o : BitVec 19) (sw : Bool),
    let flow (em : DWord) (st : List DivEntry) (v : Env) (s : State) : State := s.modPly v.key fun q => { q with em := em, stack := st }
    let cond (v : Env) : DWord := if p.getLsbD 3 then ~~~v.pred else v.pred
    let rel (v : Env) : DWord := v.p.pc + BitVec.ofInt 64 (2 * o.toInt)
    Does (.ifp p o sw) (fun v _ => v.p.stack.length ≠ 16)
      (fun v => flow (v.p.em &&& cond v) (⟨.ifK, v.p.em, v.p.em &&& ~~~(cond v), false, 0⟩ :: v.p.stack) v)
      (fun v _ => { target := if v.p.em &&& cond v = 0 then some (rel v) else none }) ∧
    (∀ e rest, Does (.elseI o sw)
      (fun v _ => v.p.stack = e :: rest ∧ v.p.floor < v.p.stack.length ∧ e.kind ≠ .loop ∧ e.elsed = false)
      (flow e.aux ({ e with elsed := true } :: rest))
      (fun v _ => { target := if e.aux = 0 then some (rel v) else none })) ∧
    (∀ e rest, Does (.endif sw) (fun v _ => v.p.stack = e :: rest ∧ v.p.floor < v.p.stack.length ∧ e.kind ≠ .loop)
      (fun v => flow (e.oem &&& v.p.tlive) rest v) (fun _ _ => {})) ∧
    (∀ k, Does (.elect d sw) (fun v _ => v.p.stack.length ≠ 16 ∧ k < 64 ∧ v.p.em.getLsbD k ∧ ∀ j < k, v.p.em.getLsbD j = false)
      (fun v => flow (1#64 <<< k) (⟨.elect, v.p.em, 0, true, 0⟩ :: v.p.stack) v)
      (fun _ _ => { writes := dstWrites d .pair 1 [r64 (BitVec.ofNat 64 k)] })) ∧
    Does (.elect d sw) (fun v _ => v.p.stack.length ≠ 16 ∧ v.p.em = 0)
      (fun v => flow 0 (⟨.elect, 0, 0, true, 0⟩ :: v.p.stack) v)
      (fun _ _ => { writes := dstWrites d .pair 1 [r64 0xFFFFFFFFFFFFFFFF] })

/-- R360, R361: LOOP pushes its entry or leaves when no thread is active, ENDLOOP goes round or pops, BRK and CONT take their
threads out of EM and of every entry above the innermost LOOP, and CONT notes them there. R362, R364: EXIT ends the threads of EM, takes them out of every stack entry, and lets the ply retire when none is left; YIELD
gives up the ply's standing. -/
def Obligations.LoopsAndExitsComplete : Prop :=
  (∀ (o : BitVec 19) (sw : Bool),
    let flow (em : DWord) (st : List DivEntry) (v : Env) (s : State) : State := s.modPly v.key fun q => { q with em := em, stack := st }
    let rel (v : Env) : DWord := v.p.pc + BitVec.ofInt 64 (2 * o.toInt)
    let without (a : DWord) (e : DivEntry) : DivEntry := { e with oem := e.oem &&& ~~~a, aux := e.aux &&& ~~~a }
    Does (.loop o sw) (fun v _ => v.p.em = 0) (fun _ s => s) (fun v _ => { target := some (rel v) }) ∧
    Does (.loop o sw) (fun v _ => v.p.em ≠ 0 ∧ v.p.stack.length ≠ 16)
      (fun v => flow v.p.em (⟨.loop, v.p.em, 0, false, rel v &&& 0x1FFFFFFFFFFFFFE⟩ :: v.p.stack) v) (fun _ _ => {}) ∧
    (∀ e rest, Does (.endloop o sw)
      (fun v _ => v.p.stack = e :: rest ∧ v.p.floor < v.p.stack.length ∧ e.kind = .loop ∧ (v.p.em ||| e.aux) &&& v.p.tlive ≠ 0)
      (fun v => flow ((v.p.em ||| e.aux) &&& v.p.tlive) ({ e with aux := 0 } :: rest) v)
      (fun v _ => { target := some (rel v) })) ∧
    (∀ e rest, Does (.endloop o sw)
      (fun v _ => v.p.stack = e :: rest ∧ v.p.floor < v.p.stack.length ∧ e.kind = .loop ∧ (v.p.em ||| e.aux) &&& v.p.tlive = 0)
      (fun v => flow (e.oem &&& v.p.tlive) rest v) (fun _ _ => {})) ∧
    (∀ inner l rest, Does (.brk sw)
      (fun v _ => v.p.stack = inner ++ l :: rest ∧ (∀ e ∈ inner, e.kind ≠ .loop) ∧ l.kind = .loop ∧
        v.p.floor + inner.length < v.p.stack.length)
      (fun v => flow 0 (inner.map (without v.p.em) ++ l :: rest) v) (fun _ _ => {})) ∧
    (∀ inner l rest, Does (.cont sw)
      (fun v _ => v.p.stack = inner ++ l :: rest ∧ (∀ e ∈ inner, e.kind ≠ .loop) ∧ l.kind = .loop ∧
        v.p.floor + inner.length < v.p.stack.length)
      (fun v => flow 0 (inner.map (without v.p.em) ++ { l with aux := l.aux ||| v.p.em } :: rest) v) (fun _ _ => {}))) ∧
  ∀ sw : Bool,
    Does (.exit sw) (fun _ _ => True)
      (fun v s => s.modPly v.key fun q => { q with
        tlive := v.p.tlive &&& ~~~v.p.em, em := 0
        stack := q.stack.map fun e => { e with oem := e.oem &&& ~~~v.p.em, aux := e.aux &&& ~~~v.p.em } })
      (fun v _ => { park := if v.p.tlive &&& ~~~v.p.em = 0 then .retire else .none }) ∧
    Does (.yield sw) (fun _ _ => True) (fun v s => s.modPly v.key fun q => { q with yielded := true }) (fun _ _ => {})

/-- R353: the structured-control errors trap with STACK, the reason in XVAL bits 7:0 and the depth in bits 12:8; an entry at or
below the floor is reported before its kind is looked at. -/
def Obligations.StackErrorsTrap : Prop :=
  ∀ (d : Name) (p : BitVec 4) (o : BitVec 19) (sw : Bool),
    let t (i : Instr) (c : Env → Prop) (reason : Nat) : Prop :=
      Traps i (fun v _ => c v) 0x16 (fun v _ => BitVec.ofNat 64 reason ||| BitVec.ofNat 64 (v.p.stack.length * 2 ^ 8))
    t (.ifp p o sw) (fun v => v.p.stack.length = 16) 1 ∧
    t (.elect d sw) (fun v => v.p.stack.length = 16) 1 ∧
    t (.loop o sw) (fun v => v.p.em ≠ 0 ∧ v.p.stack.length = 16) 1 ∧
    (∀ i ∈ [Instr.elseI o sw, .endif sw], t i (fun v => v.p.stack = []) 2 ∧
      ∀ e rest, t i (fun v => v.p.stack = e :: rest ∧ v.p.floor < v.p.stack.length ∧ e.kind = .loop) 2) ∧
    (∀ e rest, t (.elseI o sw)
      (fun v => v.p.stack = e :: rest ∧ v.p.floor < v.p.stack.length ∧ e.kind ≠ .loop ∧ e.elsed = true) 3) ∧
    t (.endloop o sw) (fun v => v.p.stack = []) 4 ∧
    (∀ e rest, t (.endloop o sw) (fun v => v.p.stack = e :: rest ∧ v.p.floor < v.p.stack.length ∧ e.kind ≠ .loop) 4) ∧
    (∀ i ∈ [Instr.brk sw, .cont sw], t i (fun v => v.p.floor = 0 ∧ ∀ e ∈ v.p.stack, e.kind ≠ .loop) 5) ∧
    (∀ i ∈ [Instr.elseI o sw, .endif sw, .endloop o sw], t i (fun v => v.p.stack ≠ [] ∧ v.p.stack.length ≤ v.p.floor) 6) ∧
    (∀ i ∈ [Instr.brk sw, .cont sw], t i (fun v => v.p.floor ≠ 0 ∧
      ∀ e ∈ v.p.stack.take (v.p.stack.length - v.p.floor), e.kind ≠ .loop) 6)

/-! ## Memory -/

/-- R74, R151, R175 to R179, R184: a load that passes its checks, once its look-up in the core TLB is made (four distinct entries a
cycle), completes with one landing, and memory is as before. When every access is
performed at issue, the landing has arrived, with the value that memory, or an outstanding store of the ply itself, holds at each lane's
location. MONA is strict: its landing waits, and its arming is on its way to the home unless an older access of the ply to the same
bytes is still outstanding. The model's own choices in it: log 9. -/
def Obligations.LoadsComplete : Prop :=
  ∀ (d : Name) (b : SReg) (o : Name) (c w : BitVec 2) (sw : Bool),
    let keeps (s : State) (p q : Ply) : Prop := q.out.length = p.out.length + 1 ∧
      ∀ y ∈ p.out, y.arrived = true ∨ y.tag ≠ s.uses → y ∈ q.out
    let loads (i : Instr) (size : Nat) (wd : Width) (conv : QWord → QWord) : Prop :=
      LooksUp i true false true size 0 1 c.toNat (fun _ _ => True) ∧
      ∀ s key p l, Reaches i s key p true false true size 0 1 c.toNat l → Looked i s key p (l.map (·.va)) → ∃ t q x, exec i s = .next t ∧ Accessed i s key p 0 t q ∧
        q.out.getLast? = some x ∧ keeps s p q ∧ (∀ a, t.mem.read a = s.mem.read a) ∧ t.keyed = s.keyed ∧
        (x.arrived = true ↔ Performed p q) ∧ q.park = (if sw then .switch else .none) ∧
        (Performed p q → x.writes = landed d wd p.width l fun y => conv (loadValue s key p.core size y))
    let narrow (f : Fmt) (x : QWord) : QWord := BitVec.ofNat 128 (toF32 f x.toNat)
    loads (.ld d b o c w sw) (2 ^ w.toNat) (if w = 3 then .pair else .one) id ∧
    loads (.ldq d b o c sw) 16 .quad id ∧
    (w = 0 → loads (.ldcv d b o c w sw) 2 .one (narrow .f16)) ∧
    (w = 1 → loads (.ldcv d b o c w sw) 1 .one (narrow .e4m3)) ∧
    (w = 2 → loads (.ldcv d b o c w sw) 1 .one (narrow .e5m2)) ∧
    (w = 3 → loads (.ldcv d b o c w sw) 2 .one (narrow .bf16)) ∧
    (∀ s key p l, Reaches (.mona d b o c w sw) s key p true false true (2 ^ w.toNat) 0 1 c.toNat l → ∃ t q x,
      exec (.mona d b o c w sw) s = .next t ∧ Accessed (.mona d b o c w sw) s key p 0 t q ∧ q.out.getLast? = some x ∧
      keeps s p q ∧ x.arrived = false ∧ q.strict ≠ 0 ∧ (∀ a, t.mem.read a = s.mem.read a) ∧
      ((∀ y ∈ l, pendingAt s (.ply key) p.core y.loc (2 ^ w.toNat) = []) →
        ∃ f, t.net = s.net ++ [.arm f] ∧ f.strict = true ∧ f.owner = .ply key ∧ ∀ y ∈ l, f.loc = blockOf y.loc))

/-- R74, R177 to R179: a store that passes its checks, once its look-up in the core TLB is made, completes, parks the ply while one of its accesses is strict, and changes memory
only in the bytes it stores; when all of them are performed at issue, those bytes hold its data. STCV stores the data converted
under FRM and leaves the conversion's flags. The model's own choices
in it: log 9. -/
def Obligations.StoresComplete : Prop :=
  ∀ (d : Name) (b : SReg) (o : Name) (c w : BitVec 2) (sw : Bool),
    let stores (i : Instr) (size : Nat) (data : Env → Nat → Nat) (flags : Env → Nat → FFlags) : Prop :=
      LooksUp i false true false size 1 2 c.toNat (fun v l => ∀ x ∈ l, flags v x.thread &&& frmEnables v.p.frm = 0) ∧
      ∀ s key p l, s.MemOk → Reaches i s key p false true false size 1 2 c.toNat l → Looked i s key p (l.map (·.va)) →
        (∀ x ∈ l, flags (envOf i s key p) x.thread &&& frmEnables p.frm = 0) → ∃ t q, exec i s = .next t ∧
        Accessed i s key p (raised (l.map (·.thread)) (flags (envOf i s key p))) t q ∧ q.out = p.out ∧
        q.park = (if sw then .switch else if q.strict = 0 then .none else .wait (.quiet false)) ∧ Frame size l s t ∧
        (Performed p q → Stores size l (fun x => data (envOf i s key p) x.thread) t)
    let raw (v : Env) (k : Nat) : Nat := ((v.op 0).at k).toNat
    let conv (f : Fmt) (v : Env) (k : Nat) : Nat × FFlags :=
      let pre (j : Nat) : Pre := fromF32Pre f (frmNsat v.p.frm) (frmMode v.p.frm) (v.w 0 j).toNat
      fromF32Round f (frmNsat v.p.frm) (frmMode v.p.frm)
        (if frmMode v.p.frm = .sr then v.r16 (.stcv d b o c w sw) (fun j => (pre j).discard f) k 0 else 0) (pre k)
    let narrow (f : Fmt) (size : Nat) : Prop :=
      stores (.stcv d b o c w sw) size (fun v k => (conv f v k).1) (fun v k => (conv f v k).2)
    stores (.st d b o c w sw) (2 ^ w.toNat) raw (fun _ _ => 0) ∧ stores (.stq d b o c sw) 16 raw (fun _ _ => 0) ∧
    (w = 0 → narrow .f16 2) ∧ (w = 1 → narrow .e4m3 1) ∧ (w = 2 → narrow .e5m2 1) ∧ (w = 3 → narrow .bf16 2)

/-- R74, R180 to R182: once its look-up in the core TLB is made, ATOM changes memory only in its words and lands what a word held before; where no other lane meets the word, that
is its value before the instruction, and it then holds the new one. RED lands nothing and leaves memory to its home or its
partial. R180: the new value of each atomic operation on 32 and 64 bits. The model's own choices
in it: log 9. -/
def Obligations.AtomicsComplete : Prop :=
  (∀ (d : Name) (b : SReg) (o : Name) (op : BitVec 4) (sw : Bool),
      let n := if op = 1 ∨ op = 12 ∨ op = 14 then 8 else 4
      LooksUp (.atom d b o op sw) true true true n 1 2 0 (fun _ _ => True) ∧
      LooksUp (.red d b o op sw) false true false n 1 2 0 (fun _ _ => True) ∧
      (∀ s key p l, s.MemOk → Reaches (.atom d b o op sw) s key p true true true n 1 2 0 l →
        Looked (.atom d b o op sw) s key p (l.map (·.va)) → ∃ t q x, ∃ old : Nat → QWord,
        exec (.atom d b o op sw) s = .next t ∧ Accessed (.atom d b o op sw) s key p 0 t q ∧ q.out.getLast? = some x ∧
        q.out.length = p.out.length + 1 ∧ (x.arrived = true ↔ Performed p q) ∧ Frame n l s t ∧
        (Performed p q → x.writes = landed d (if n = 8 then .pair else .one) p.width l (fun y => old y.thread) ∧
          ∀ key' before y after, l = before ++ y :: after → (∀ z ∈ l, z.attr.key = key' ∧ z.attr.repl = false) →
            (∀ z ∈ before ++ after, Apart n y.loc z.loc) →
              let v := envOf (.atom d b o op sw) s key p
              let a := ((v.op 0).at y.thread).toNat
              let was := s.readLoc key' y.loc n
              old y.thread = BitVec.ofNat 128 was ∧
              t.readLoc key' y.loc n = (atomNew op.toNat (BitVec.ofNat 64 was)
                (BitVec.ofNat 64 (if op = 13 then a / 2 ^ 32 % 2 ^ 32 else if op = 14 then a / 2 ^ 64 else a))
                (BitVec.ofNat 64 (if op = 13 then a % 2 ^ 32 else a % 2 ^ 64))).toNat % 2 ^ (8 * n))) ∧
      ∀ s key p l, Reaches (.red d b o op sw) s key p false true false n 1 2 0 l →
        Looked (.red d b o op sw) s key p (l.map (·.va)) → ∃ t q,
        exec (.red d b o op sw) s = .next t ∧ Accessed (.red d b o op sw) s key p 0 t q ∧ q.out = p.out ∧
        (∀ a, t.mem.read a = s.mem.read a) ∧ t.keyed = s.keyed ∧
        q.park = (if sw then .switch else if q.strict = 0 then .none else .wait (.quiet false))) ∧
  (∀ m a c : DWord,
      let lo (x : DWord) : Word := x.setWidth 32
      let w (x : Word) : DWord := x.setWidth 64
      atomNew 0 m a c = w (lo m + lo a) ∧ atomNew 1 m a c = m + a ∧
      atomNew 4 m a c = w (BitVec.ofInt 32 (min (lo m).toInt (lo a).toInt)) ∧
      atomNew 5 m a c = w (BitVec.ofNat 32 (min (lo m).toNat (lo a).toNat)) ∧
      atomNew 6 m a c = w (BitVec.ofInt 32 (max (lo m).toInt (lo a).toInt)) ∧
      atomNew 7 m a c = w (BitVec.ofNat 32 (max (lo m).toNat (lo a).toNat)) ∧
      atomNew 8 m a c = w (lo m &&& lo a) ∧ atomNew 9 m a c = w (lo m ||| lo a) ∧ atomNew 10 m a c = w (lo m ^^^ lo a) ∧
      atomNew 11 m a c = w (lo a) ∧ atomNew 12 m a c = a ∧
      atomNew 13 m a c = (if lo m = lo c then w (lo a) else m) ∧ atomNew 14 m a c = (if m = c then a else m))

/-- R74, R183 to R187: PREF, once its look-up is made where every address hits, completes whatever its addresses are and reads or writes nothing that a program sees; WAITM answers from the
ply's monitor and waits while it is armed; POLL lands the value that differs, and waits longer after each that does not. The model's own choices
in it: log 17. -/
def Obligations.PrefetchesAndMonitorsComplete : Prop :=
  ∀ (a : Src) (d : Name) (b : SReg) (o : Name) (c w : BitVec 2) (sw : Bool),
    let wait := Instr.waitm a sw
    let poll := Instr.poll d b o c w sw
    let clear (v : Env) (s : State) : State := s.modPly v.key fun p => { p with mon := ⟨.none, 0⟩ }
    let tells (n : DWord) : Env → State → Effect := fun _ _ => { writes := [⟨.q 7, 1, [n]⟩] }
    let wants (v : Env) : Nat := ((v.op 0).at64 0).toNat % 2 ^ (8 * 2 ^ w.toNat)
    let vas (v : Env) : List DWord := (addresses (.pref b o c w sw) v 0 1 c.toNat).map (·.2)
    (∀ s key p, Ready (.pref b o c w sw) s key p →
      (none ∉ tlbEntries (baseOf (.pref b o c w sw) s key p) p (vas (envOf (.pref b o c w sw) s key p)) →
        Looked (.pref b o c w sw) s key p (vas (envOf (.pref b o c w sw) s key p))) → ∃ t q, exec (.pref b o c w sw) s = .next t ∧
      Accessed (.pref b o c w sw) s key p 0 t q ∧ q.out = p.out ∧ q.work = p.work ∧ q.strict = p.strict ∧
      (∀ a, t.mem.read a = s.mem.read a) ∧ t.keyed = s.keyed ∧ t.classes = s.classes ∧ t.dir = s.dir) ∧
    Does wait (fun v _ => v.p.mon.st = .none) (fun _ s => s) (tells 0) ∧
    Does wait (fun v _ => v.p.mon.st = .woken) clear (tells 0) ∧
    Does wait (fun v _ => v.p.mon.st = .armed ∧ v.stage = 2)
      (fun v s => { clear v s with mons := s.mons.filter fun m => m.1 ≠ v.key }) (tells 1) ∧
    Waits wait (fun v s => v.p.mon.st = .armed ∧ v.stage ≠ 2 ∧ (recDet (s.launchRec v.p) = true ∨ v.w 0 0 = 0)) (fun _ s => s)
      (fun _ _ => .monitor none) (fun _ => 1) ∧
    Waits wait (fun v s => v.p.mon.st = .armed ∧ v.stage ≠ 2 ∧ recDet (s.launchRec v.p) = false ∧ v.w 0 0 ≠ 0) (fun _ s => s)
      (fun v s => .monitor (some (s.tick + (v.w 0 0).toNat))) (fun _ => 1) ∧
    ∀ wk n x rest, wk.got = (n, x) :: rest →
      Does poll (fun v _ => v.stage % 2 = 1 ∧ v.p.work = some wk ∧ x.toNat % 2 ^ 64 ≠ wants v)
        (fun v s => (s.modPly v.key fun p => { p with work := none }).use)
        (fun _ s => { land := some ⟨s.uses, true, 1, dstWrites d .pair 1 [BitVec.ofNat 128 (x.toNat % 2 ^ 64)]⟩ }) ∧
      ∀ stage, Waits poll (fun v _ => v.stage = stage ∧ stage % 2 = 1 ∧ v.p.work = some wk ∧ x.toNat % 2 ^ 64 = wants v)
        (fun v s => s.modPly v.key fun p => { p with work := none })
        (fun v _ => .poll (v.t + if stage / 2 = 0 then 64 else stage / 2) (decide (wk.use = .poll true)))
        (fun _ => 2 * min (2 * if stage / 2 = 0 then 64 else stage / 2) 65536)

/-- R172, R174: a misaligned address traps with ALIGN, and else one that is not canonical with PROT, before anything is accessed;
XVAL holds the address of the lowest lane that has it. Named here: LD, ST, LDQ, STQ, LDCV, STCV, ATOM, RED, MONA. -/
def Obligations.AddressTraps : Prop :=
  ∀ (d : Name) (b : SReg) (o : Name) (c w : BitVec 2) (op : BitVec 4) (sw : Bool),
    let first (i : Instr) (v : Env) (b o sc : Nat) (f : DWord → Bool) : Option DWord :=
      ((addresses i v b o sc).find? fun a => f a.2).map (·.2)
    let t (i : Instr) (size b o sc : Nat) : Prop :=
      (∀ x, Traps i (fun v _ => v.p.verdict = .retry ∧ first i v b o sc (fun a => decide (a.toNat % size ≠ 0)) = some x) 0x09
        fun _ _ => x) ∧
      (∀ x, Traps i (fun v _ => v.p.verdict = .retry ∧ first i v b o sc (fun a => decide (a.toNat % size ≠ 0)) = none ∧
        first i v b o sc (fun a => decide (2 ^ 56 ≤ a.toNat ∧ a.toNat < 2 ^ 64 - 2 ^ 56)) = some x) 0x0B fun _ _ => x)
    t (.ld d b o c w sw) (2 ^ w.toNat) 0 1 c.toNat ∧ t (.st d b o c w sw) (2 ^ w.toNat) 1 2 c.toNat ∧
    t (.ldq d b o c sw) 16 0 1 c.toNat ∧ t (.stq d b o c sw) 16 1 2 c.toNat ∧
    t (.ldcv d b o c w sw) (if w = 1 ∨ w = 2 then 1 else 2) 0 1 c.toNat ∧
    t (.stcv d b o c w sw) (if w = 1 ∨ w = 2 then 1 else 2) 1 2 c.toNat ∧
    t (.atom d b o op sw) (if op = 1 ∨ op = 12 ∨ op = 14 then 8 else 4) 1 2 0 ∧
    t (.red d b o op sw) (if op = 1 ∨ op = 12 ∨ op = 14 then 8 else 4) 1 2 0 ∧
    t (.mona d b o c w sw) (2 ^ w.toNat) 0 1 c.toNat

/-! ## Strings -/

/-- R306, R312 to R316: once its units are read and a landing entry is free, a string instruction completes, and the result of each
lane's strings lands. The strings' bytes are those of the units at their addresses, whatever their alignment. R314 to R316: the order of SCMP, the index of SFIND, and the prefix of SPFX. R313: a string longer than 4,096 bytes traps with PROT before any unit is read, XVAL holding its first byte's address; SLEN, which
ignores LEN, does not. The model's own choices
in it: log 32. -/
def Obligations.StringsComplete : Prop :=
  (∀ (text : DWord → Byte) (d : Name) (a b : Src) (sw : Bool),
      let addr (h : Nat) (v : Env) (n k : Nat) : DWord := v.dw h 0 + BitVec.ofNat 64 ((v.dw n k).toNat % 2 ^ 40)
      let len (v : Env) (n k : Nat) : Nat := (v.dw n k).toNat / 2 ^ 40
      let str (h : Nat) (v : Env) (n k : Nat) : List Byte := textOf text (addr h v n k) (len v n k)
      let lands (i : Instr) (w : Width) (f : Env → Nat → QWord) (more : Env → List Write) (v : Env) (s : State) : Effect :=
        let n := if d.isS then 1 else v.p.width
        { land := some ⟨s.uses, true, 1, dstWrites d w (if d.isS then 1 else v.p.em) ((List.range n).map fun k =>
            if k ∈ lanesOf i v then f v k else 0) ++ more v⟩ }
      let does (i : Instr) (h per : Nat) (w : Width) (f : Env → Nat → QWord) : Prop :=
        Does i (HasRead text i fun v => (lanesOf i v).flatMap fun k => (List.range per).map fun n => (addr h v n k, len v n k))
          (fun v s => (s.modPly v.key fun p => { p with work := none }).use) (lands i w f fun _ => [])
      let zero (v : Env) (k : Nat) : Option Nat :=
        (List.range 4096).find? fun j => decide (text (addr 1 v 0 k + BitVec.ofNat 64 j) = 0)
      let slen := Instr.slen d a sw
      does (.scmp d a b sw) 2 2 .one (fun v k => r32 (strCompare (str 2 v 0 k) (str 2 v 1 k))) ∧
      does (.sfind d a b sw) 2 1 .one (fun v k => r32 (strFind (str 2 v 0 k) ((v.w 1 k).setWidth 8))) ∧
      does (.shash d a sw) 1 1 .one (fun v k => r32 (strHash (str 1 v 0 k))) ∧
      does (.spfx d a sw) 1 1 .pair (fun v k => r64 (strPrefix (str 1 v 0 k))) ∧
      Does slen
        (HasRead text slen fun v => (lanesOf slen v).map fun k => (addr 1 v 0 k, ((zero v k).map (· + 1)).getD 4096))
        (fun v s => (s.modPly v.key fun p => { p with work := none }).use)
        (lands slen .pair (fun v k => BitVec.ofNat 128 ((zero v k).getD 4096 * 2 ^ 40 + (v.dw 0 k).toNat % 2 ^ 40))
          fun v => [⟨.q 7, 1, [if (lanesOf slen v).any (fun k => (zero v k).isNone) then 1 else 0]⟩])) ∧
  ((∀ x : List Byte, strCompare x x = 0) ∧
    (∀ (x : List Byte) (a b : Byte) (y z : List Byte), a.toNat < b.toNat →
      strCompare (x ++ a :: y) (x ++ b :: z) = 0xFFFFFFFF ∧ strCompare (x ++ b :: z) (x ++ a :: y) = 1) ∧
    (∀ (x : List Byte) (a : Byte) (y : List Byte), strCompare x (x ++ a :: y) = 0xFFFFFFFF ∧ strCompare (x ++ a :: y) x = 1) ∧
    (∀ (x : List Byte) (b : Byte) (y : List Byte), b ∉ x → strFind x b = 0xFFFFFFFF ∧ strFind (x ++ b :: y) b = BitVec.ofNat 32 x.length) ∧
    ∀ (x : List Byte) (j : Nat), j < 8 → (strPrefix x).extractLsb' (8 * (7 - j)) 8 = x.getD j 0) ∧
  (∀ (d : Name) (a b : Src) (sw : Bool),
      let t (i : Instr) (h per : Nat) : Prop := ∀ x : DWord, Traps i (fun v _ => v.stage ≠ 1 ∧
        (((lanesOf i v).flatMap fun k => (List.range per).map fun n => v.dw n k).find? fun y => decide (2 ^ 40 * 4097 ≤ y.toNat)) =
          some x) 0x0B fun v _ => v.dw h 0 + BitVec.ofNat 64 (x.toNat % 2 ^ 40)
      t (.scmp d a b sw) 2 2 ∧ t (.sfind d a b sw) 2 1 ∧ t (.shash d a sw) 1 1 ∧ t (.spfx d a sw) 1 1)

/-! ## Tiles -/

/-- R221, R222, R229, R230: TLD and TLDT complete at issue with their slots laid out and a place kept for the result, readable eight
cycles after the last slot; the slots go four cycles apart, serve every lane once and meet no bank twice; when they have passed, the
place holds what the tile holds at the lanes' addresses, TLDT giving thread 8G + i element i of the rows of its group, and nothing in
tile memory changes. The model's own choices in it: log 14. -/
def Obligations.TileLoadsComplete : Prop :=
  (∀ (d : Name) (b : SReg) (o : Name) (c w : BitVec 2) (wide sw : Bool) (k : Skein) (e : TileEnt),
    let off (v : Env) (j : Nat) : DWord := BitVec.ofNat 64 ((v.dw 0 0).toNat % 2 ^ 32) + ((v.w 1 j).signExtend 64 <<< c.toNat)
    let reads (i : Instr) (size : Nat) (wd : Width) (use : TileUse) : Prop :=
      Does i (OnTile i 0 size 0b1110 off k e)
        (fun v s => tileNoted i (tileJob i .read size use off (fun _ _ => (0, 0)) k e v) off k e v s)
        (fun v _ => tilePlaces i d wd off k e v)
    reads (.tld d b o c w sw) (2 ^ (w.toNat + 1)) (if w = 3 then .quad else if w = 2 then .pair else .one) (.own d) ∧
    reads (.tldt d b o c wide sw) (if wide then 16 else 8) (if wide then .quad else .pair) (.columns d (if wide then 2 else 1))) ∧
  (∀ (t : Nat) (l : List TileLane),
    let plan := planSlots l.length t l
    (plan.flatMap (·.2)).Perm l ∧ plan.length = slotCount (l.map fun x => x.addr / 16) ∧
    ∀ n x, plan[n]? = some x → x.1 = t + 4 * n ∧ ∀ y ∈ x.2, ∀ z ∈ x.2, y.addr / 16 % 128 = z.addr / 16 % 128 → y.addr / 16 = z.addr / 16) ∧
  (∀ (s : State) (key : Nat) (p : Ply) (j : TileJob), SlotsPassed s key p j → j.act = .read →
    (tileSlots s).plies = [(key, tileDelivered p j (j.order.map fun l => (l.thread, BitVec.ofNat 128 (tileValue s p.core l.addr j.size))))] ∧
    (tileSlots s).hw = s.hw ∧ (tileSlots s).mem = s.mem) ∧
  ∀ (d : Name) (size width : Nat) (mask : DWord) (wide : Bool) (l : List Nat) (f : Nat → QWord),
    let z := if wide then 2 else 1
    let vals := l.map fun j => (j, f j)
    let row (j : Nat) : Nat := if j ∈ l then (f j).toNat else 0
    (d.isS = false → (TileUse.own d).writes size width mask vals =
      dstWrites d (if size = 16 then .quad else if size = 8 then .pair else .one) mask
        ((List.range width).map fun j => if j ∈ l then f j else 0)) ∧
    (d.isS = true → (TileUse.own d).writes size width mask [(0, f 0)] =
      dstWrites d (if size = 16 then .quad else if size = 8 then .pair else .one) 1 [f 0]) ∧
    (TileUse.columns d z).writes size width mask vals = dstWrites d (if wide then .quad else .pair) mask
      ((List.range width).map fun i =>
        BitVec.ofNat 128 ((List.range 8).map fun j => row (i / 8 * 8 + j) / 2 ^ (8 * z * (i % 8)) % 2 ^ (8 * z) * 2 ^ (8 * z * j)).sum)

/-- R221, R222, R229, R231, R310: TST, TATOM and HIST complete at issue with their slots laid out, with the data they read at issue; in
the slots TST writes each lane's data, TATOM and HIST replace each lane's word, one lane after the other, and the result is what each
word held; no other byte of tile memory changes. The model's own choices in it: log 14. -/
def Obligations.TileStoresComplete : Prop :=
  (∀ (d : Name) (b : SReg) (o : Name) (a h : Src) (c w : BitVec 2) (op : BitVec 4) (sw : Bool) (k : Skein) (e : TileEnt),
    let off (sc : Nat) (v : Env) (j : Nat) : DWord := BitVec.ofNat 64 ((v.dw 1 0).toNat % 2 ^ 32) + ((v.w 2 j).signExtend 64 <<< sc)
    let count (v : Env) (j : Nat) : DWord := BitVec.ofNat 64 ((v.dw 1 0).toNat % 2 ^ 32 + 4 * (v.w 0 j).toNat)
    let tst := Instr.tst d b o c w sw
    let tatom := Instr.tatom d b o op sw
    let hist := Instr.hist d a h sw
    let n := 2 ^ (w.toNat + 1)
    let m := if op = 1 ∨ op = 12 ∨ op = 14 then 8 else 4
    let operands (v : Env) (j : Nat) : QWord × DWord :=
      let y := ((v.op 0).at j).toNat
      (BitVec.ofNat 128 (if op = 13 then y / 2 ^ 32 % 2 ^ 32 else if op = 14 then y / 2 ^ 64 else y),
        BitVec.ofNat 64 (if op = 13 then y % 2 ^ 32 else y))
    Does tst (OnTile tst 1 n 0b0110 (off c.toNat) k e)
      (fun v s => tileNoted tst (tileJob tst .write n .none (off c.toNat) (fun v j => ((v.op 0).at j, 0)) k e v) (off c.toNat) k e v s)
      (fun v _ => { lat := some (tileEnd tst (off c.toNat) k e v + 8 - v.t) }) ∧
    Does tatom (OnTile tatom 1 m 0b0110 (off 0) k e)
      (fun v s => tileNoted tatom (tileJob tatom (.atom op) m (.own d) (off 0) operands k e v) (off 0) k e v s)
      (fun v _ => tilePlaces tatom d (if m = 8 then .pair else .one) (off 0) k e v) ∧
    Does hist (OnTile hist 1 4 0b0110 count k e)
      (fun v s => tileNoted hist (tileJob hist (.atom 0) 4 (.own d) count (fun _ _ => (1, 0)) k e v) count k e v s)
      (fun v _ => tilePlaces hist d .one count k e v)) ∧
  (∀ (s : State) (key : Nat) (p : Ply) (j : TileJob), SlotsPassed s key p j →
    let put (s : State) (a x n : Nat) : State := tileWrite s p.core a (bytesOf n x)
    (j.act = .write →
      (tileSlots s).hw = (j.order.foldl (fun s l => put s l.addr l.data.toNat j.size) s).hw ∧ (tileSlots s).mem = s.mem ∧
      ∃ q, (tileSlots s).plies = [(key, q)] ∧ q.tiles = []) ∧
    ∀ op, j.act = .atom op →
      let update (s : State) (l : TileLane) : State := put s l.addr
        (atomNew op.toNat (BitVec.ofNat 64 (tileValue s p.core l.addr j.size)) (l.data.setWidth 64) l.cmp).toNat j.size
      (tileSlots s).hw = (j.order.foldl update s).hw ∧ (tileSlots s).mem = s.mem ∧
      ∃ vals : List (Nat × QWord), (tileSlots s).plies = [(key, tileDelivered p j vals)] ∧ vals.length = j.order.length ∧
        ∀ n l, j.order[n]? = some l →
          vals[n]? = some (l.thread, BitVec.ofNat 128 (tileValue ((j.order.take n).foldl update s) p.core l.addr j.size))) ∧
  ∀ (s : State) (core a : Nat) (bytes : List Byte), (s.hwOf core).tile.wf = true → a < 2 ^ 21 → bytes.length ≤ 2 ^ 21 →
    let t := tileWrite s core a bytes
    (∀ i < bytes.length, (t.hwOf core).tile.read ((a + i) % 2 ^ 21) = bytes.getD i 0) ∧
    ∀ k, (∀ i < bytes.length, (a + i) % 2 ^ 21 ≠ k) → (t.hwOf core).tile.read k = (s.hwOf core).tile.read k

/-- R217, R224: a reference resolves to the bound tile it names, and else fails with the first reason that applies; the lane
instructions, TSET, TWAIT and TFREE trap with TILESTATE and that reason, and an offset outside the tile with reason 5. -/
def Obligations.TileReferencesResolve : Prop :=
  (∀ (h : CoreHw) (slot : Nat) (r : DWord), slot < 16 →
    let f (a n : Nat) : Nat := r.toNat / 2 ^ a % 2 ^ n
    let mine (e : TileEnt) : Prop := e.slot = slot ∧ e.handle = f 32 5
    (f 52 12 ≠ 0 ∨ f 37 3 ≠ 0 → resolveRef h slot r = .inr 1) ∧
    (f 52 12 = 0 → f 37 3 = 0 → f 48 4 ≠ slot → resolveRef h slot r = .inr 2) ∧
    (f 52 12 = 0 → f 37 3 = 0 → f 48 4 = slot → (∀ e ∈ h.tiles, ¬ mine e) → resolveRef h slot r = .inr 3) ∧
    ∀ l e l', f 52 12 = 0 → f 37 3 = 0 → f 48 4 = slot → h.tiles = l ++ e :: l' → (∀ x ∈ l, ¬ mine x) → mine e →
      resolveRef h slot r = if e.gen = f 40 8 then .inl e else .inr 4) ∧
  ∀ (d : Name) (b : SReg) (o : Name) (a : Src) (c w : BitVec 2) (m : BitVec 5) (reason : Nat) (k : Skein) (e : TileEnt) (x : DWord)
      (sw : Bool),
    let val (v : Env) (n : Nat) (off : Nat) : DWord :=
      BitVec.ofNat 64 (off % 2 ^ 32 * 2 ^ 32) ||| BitVec.ofNat 64 ((v.dw n 0).toNat / 2 ^ 32 % 32 * 2 ^ 8 ) ||| BitVec.ofNat 64 reason
    let off (v : Env) (j : Nat) : DWord := BitVec.ofNat 64 ((v.dw 0 0).toNat % 2 ^ 32) + ((v.w 1 j).signExtend 64 <<< c.toNat)
    let tld := Instr.tld d b o c w sw
    (∀ i ∈ [Instr.tsetEmpty a sw, .tsetFilling a sw, .tsetReady a sw, .tsetDraining a sw, .twait a m sw, .tfree a sw],
      Traps i (fun v s => resolveRef (s.hwOf v.p.core) v.p.slot (v.dw 0 0) = .inr reason) 0x0D fun v _ => val v 0 0) ∧
    (∀ j js, Traps tld (fun v s => s.skein? v.p = some k ∧ lanesOf tld v = j :: js ∧
        resolveRef (s.hwOf v.p.core) v.p.slot (v.dw 0 0) = .inr reason ∧ off v j = x) 0x0D fun v _ => val v 0 x.toNat) ∧
    Traps tld (fun v s => reason = 5 ∧ s.skein? v.p = some k ∧ resolveRef (s.hwOf v.p.core) v.p.slot (v.dw 0 0) = .inl e ∧
        e.handle = (v.dw 0 0).toNat / 2 ^ 32 % 32 ∧ (∀ j ∈ lanesOf tld v, (off v j).toNat % 2 ^ (w.toNat + 1) = 0) ∧
        ((lanesOf tld v).map (off v)).find? (fun y => decide (y.toInt < 0 ∨ 512 * e.size < y.toNat + 2 ^ (w.toNat + 1))) = some x) 0x0D
      fun v _ => val v 0 x.toNat

/-- R218, R225 to R228: TBIND installs an EMPTY tile under the next generation and gives its reference, traps with TILESTATE and its
reason, or waits for an entry; TSET moves a calm tile by the
table of R218; TWAIT returns in a state of its mask with PART in q7, and TFREE unbinds; each waits where the state does not allow it. -/
def Obligations.TileTableComplete : Prop :=
  ∀ (d : Name) (a : Src) (n m : BitVec 5) (sw : Bool) (k : Skein) (e : TileEnt),
    let tbind := Instr.tbind d a n sw
    let names (v : Env) (s : State) : Prop := resolveRef (s.hwOf v.p.core) v.p.slot (v.dw 0 0) = .inl e
    let calm : Prop := e.ncpy = 0 ∧ e.spn = false
    let start (v : Env) : Nat := (v.dw 0 0).toNat % 2 ^ 21
    let size (v : Env) : Nat := (v.dw 0 0).toNat / 2 ^ 32 % 2 ^ 21
    let gen : Nat := (k.gens.getD n.toNat 0 + 1) % 256
    let ref (v : Env) : DWord :=
      BitVec.ofNat 64 (v.p.slot * 2 ^ 48) ||| BitVec.ofNat 64 (gen * 2 ^ 40) ||| BitVec.ofNat 64 (n.toNat * 2 ^ 32)
    let tset (i : Instr) (start new : TileSt) (mask : Nat) : Prop :=
      Does i (fun v s => names v s ∧ calm ∧ (e.st = start ∨ new = .empty ∧ e.st = .ready) ∧ (v.p.tileAt < v.t ∨ v.p.tileAt = 0))
        (fun v s => s.modHw v.p.core fun h => { h with tiles := h.tiles.map fun x =>
          if x.slot = v.p.slot ∧ x.handle = e.handle then { x with st := new, part := if new = .empty then false else x.part } else x })
        (fun _ _ => {}) ∧
      Waits i (fun v s => names v s ∧ ¬ (calm ∧ (e.st = start ∨ new = .empty ∧ e.st = .ready))) (fun _ s => s)
        (fun _ _ => .tile e.handle e.gen mask true) (fun _ => 0) ∧
      Waits i (fun v s => names v s ∧ calm ∧ (e.st = start ∨ new = .empty ∧ e.st = .ready) ∧ v.t ≤ v.p.tileAt ∧ v.p.tileAt ≠ 0)
        (fun _ s => s) (fun v _ => .cycle (v.p.tileAt + 1)) (fun _ => 0)
    let unused (v : Env) (s : State) : Prop := s.skein? v.p = some k ∧ ∀ x ∈ (s.hwOf v.p.core).tiles, x.slot = v.p.slot → x.handle ≠ n.toNat
    let sound (v : Env) : Prop := (v.dw 0 0).toNat / 2 ^ 53 = 0 ∧ (v.dw 0 0).toNat / 2 ^ 21 % 2 ^ 11 = 0 ∧ size v ≠ 0 ∧
      size v % 512 = 0 ∧ start v % 512 = 0 ∧ start v + size v ≤ k.wsize
    let apart (v : Env) (s : State) : Prop := ∀ x ∈ (s.hwOf v.p.core).tiles, x.slot = v.p.slot →
      512 * x.base + 512 * x.size ≤ start v ∨ start v + size v ≤ 512 * x.base
    let refuses (c : Env → State → Prop) (reason : Nat) : Prop :=
      Traps tbind c 0x0D fun _ _ => BitVec.ofNat 64 (n.toNat * 2 ^ 8 + reason)
    refuses (fun v s => s.skein? v.p = some k ∧ ∃ x ∈ (s.hwOf v.p.core).tiles, x.slot = v.p.slot ∧ x.handle = n.toNat) 6 ∧
    refuses (fun v s => unused v s ∧ ¬ sound v) 7 ∧ refuses (fun v s => unused v s ∧ sound v ∧ ¬ apart v s) 8 ∧
    Waits tbind (fun v s => unused v s ∧ sound v ∧ apart v s ∧ 64 ≤ (s.hwOf v.p.core).tiles.length) (fun _ s => s) (fun _ _ => .tileEntry)
      (fun _ => 0) ∧
    Does tbind (fun v s => unused v s ∧ sound v ∧ apart v s ∧ (s.hwOf v.p.core).tiles.length < 64)
      (fun v s => (s.modSkein v.p.skeinKey fun k => { k with gens := k.gens.set n.toNat gen }).modHw v.p.core fun h => { h with
        tiles := h.tiles ++ [⟨v.p.slot, n.toNat, gen, .empty, false, false, 0, start v / 512, size v / 512⟩] })
      (fun v _ => { writes := dstWrites d .pair 1 [r64 (ref v)] }) ∧
    tset (.tsetEmpty a sw) .draining .empty 12 ∧ tset (.tsetFilling a sw) .empty .filling 1 ∧
    tset (.tsetReady a sw) .filling .ready 2 ∧ tset (.tsetDraining a sw) .ready .draining 4 ∧
    Does (.twait a m sw) (fun v s => names v s ∧ (e.st = .empty ∧ m.getLsbD 0 = true ∨ e.st = .filling ∧ m.getLsbD 1 = true ∨
        e.st = .ready ∧ m.getLsbD 2 = true ∨ e.st = .draining ∧ m.getLsbD 3 = true)) (fun _ s => s)
      (fun _ _ => { writes := [⟨.q 7, 1, [if e.part then 1 else 0]⟩] }) ∧
    Waits (.twait a m sw) (fun v s => names v s ∧ m.toNat < 16 ∧ ¬ (e.st = .empty ∧ m.getLsbD 0 = true ∨
        e.st = .filling ∧ m.getLsbD 1 = true ∨ e.st = .ready ∧ m.getLsbD 2 = true ∨ e.st = .draining ∧ m.getLsbD 3 = true))
      (fun _ s => s) (fun _ _ => .tile e.handle e.gen m.toNat false) (fun _ => 0) ∧
    Does (.tfree a sw) (fun v s => names v s ∧ calm) (fun v s => s.modHw v.p.core fun h => { h with tiles := h.tiles.erase e })
      (fun _ _ => {}) ∧
    Waits (.tfree a sw) (fun v s => names v s ∧ ¬ calm) (fun _ s => s) (fun _ _ => .tile e.handle e.gen 15 true) (fun _ => 0)

/-! ## Copies -/

/-- R190, R192 to R195, R198, R199: with its layout record read and valid, a copy takes the next number, joins the engine, and marks its
tile; a record that fails a check of R195 traps with COPYFAULT and opens nothing; with 32 copies open, or its tile in another state, the
ply waits. R203, R209, R210: CPYQ lands the status, the timeline and the dropped rows without waiting, STATUS reports a pending mark
first; DEFARR arrives at once when its copy is past, defers the arrival otherwise, waits for room or for its phase, and refuses a
number that no copy has. -/
def Obligations.CopiesComplete : Prop :=
  (∀ (d : Name) (t k l : SReg) (h sw : Bool) (sk : Skein) (w : Work) (lay : List DWord),
    let coord (v : Env) : List DWord := [v.dw 1 0, v.dw 2 0, v.dw 3 0, v.dw 4 0]
    let read (v : Env) (s : State) : Prop := s.skein? v.p = some sk ∧ v.stage = 1 ∧ v.p.work = some w ∧ w.use ≠ .lost ∧ lay.length = 8 ∧
      (∀ j < 4, ∃ x, w.got.find? (fun y => decide (y.1 = j)) = some x ∧
        x.2 = r64 (lay.getD (2 * j) 0) ||| (r64 (lay.getD (2 * j + 1) 0) <<< 64)) ∧
      (v.dw 5 0).toNat % 64 = 0 ∧ (v.dw 3 0).toNat % 8 = 0
    let copy (i : Instr) (v : Env) (s : State) : Copy := {
      n := sk.eng.issued + 1, instr := i, issuer := v.p.plyid, tl := v.p.tl, layout := lay, coord := coord v, tref := v.dw 0 0
      okRead := 0, okWrite := 0, cls := min ((v.dw 4 0).toNat / 16 % 4) (s.launchClass v.p.ctx v.p.lid), slack := (v.dw 4 0).toNat % 16
      since := 0, st := .queued, row := 0, col := 0, phase := if (lay.getD 0 0).toNat / 16 % 16 = 0 then .read else .index, idx := 0
      slot := 0, val := 0, waiting := false, left := 0, dropped := 0, stop := none, miss := none, verdict := .retry }
    let opened (i : Instr) (v : Env) (s : State) : State := s.modSkein v.p.skeinKey fun x => { x with eng := { x.eng with
      issued := sk.eng.issued + 1, copies := x.eng.copies ++ [copy i v s]
      stats := x.eng.stats.filter fun y => decide (sk.eng.issued + 1 < y.n + 64) } }
    let finished (v : Env) (s : State) : State := s.modPly v.key fun p => { p with work := none }
    let number : Env → State → Effect := fun _ _ => { writes := dstWrites d .pair 1 [BitVec.ofNat 128 (sk.eng.issued + 1)] }
    let tile (i : Instr) (mask : Nat) (st : TileSt) : Prop := ∀ e : TileEnt,
      let named (v : Env) (s : State) : Prop := read v s ∧ resolveRef (s.hwOf v.p.core) v.p.slot (v.dw 0 0) = .inl e
      let valid (v : Env) : Prop := layoutFault i lay (v.dw 4 0) (512 * e.size) = none
      Does i (fun v s => named v s ∧ valid v ∧ sk.eng.copies.length < 32 ∧ e.inStates mask = true)
        (fun v s => finished v ((opened i v s).modHw v.p.core fun h => { h with tiles := h.tiles.map fun x =>
          if x.slot = v.p.slot ∧ x.handle = e.handle then { x with ncpy := x.ncpy + 1, st := st } else x })) number ∧
      Waits i (fun v s => named v s ∧ valid v ∧ 32 ≤ sk.eng.copies.length) finished (fun _ _ => .copyRoom) (fun _ => 0) ∧
      Waits i (fun v s => named v s ∧ valid v ∧ sk.eng.copies.length < 32 ∧ e.inStates mask = false) finished
        (fun _ _ => .tile e.handle e.gen mask false) (fun _ => 0) ∧
      ∀ code, Traps i (fun v s => named v s ∧ layoutFault i lay (v.dw 4 0) (512 * e.size) = some code) 0x12
        fun _ _ => BitVec.ofNat 64 (code * 2 ^ 8 + 8)
    let gg := Instr.cpygg d t k l h sw
    tile (.cpyin d t k l h sw) 3 .filling ∧ tile (.gather d t k l h sw) 3 .filling ∧ tile (.cpyout d t k l h sw) 12 .draining ∧
    tile (.scatter d t k l h sw) 12 .draining ∧ tile (.pscat d t k l h sw) 12 .draining ∧
    Does gg (fun v s => read v s ∧ layoutFault gg lay (v.dw 4 0) 0 = none ∧ sk.eng.copies.length < 32)
      (fun v s => finished v (opened gg v s)) number ∧
    Waits gg (fun v s => read v s ∧ layoutFault gg lay (v.dw 4 0) 0 = none ∧ 32 ≤ sk.eng.copies.length) finished (fun _ _ => .copyRoom)
      (fun _ => 0) ∧
    ∀ code, Traps gg (fun v s => read v s ∧ layoutFault gg lay (v.dw 4 0) 0 = some code) 0x12
      fun _ _ => BitVec.ofNat 64 (code * 2 ^ 8 + 8)) ∧
  ∀ (d : Name) (a : Src) (f : BitVec 5) (sw : Bool) (k : Skein),
    let n (v : Env) : Nat := (v.dw 0 0).toNat
    let lands (x : Env → DWord) : Env → State → Effect := fun v s => { land := some ⟨s.uses, true, 0, dstWrites d .pair 1 [r64 (x v)]⟩ }
    let asks (i : Instr) (c : Env → Prop) (x : Env → DWord) : Prop :=
      Does i (fun v s => s.skein? v.p = some k ∧ c v) (fun _ s => s.use) (lands x)
    let mine (v : Env) (m : CopyMark) : Prop := m ∈ k.eng.marks ∧ m.issuer = v.p.plyid ∧ m.n ≤ n v
    let status (c : Env → Prop) (x : Env → DWord) : Prop := asks (.cpyqStatus d a sw) (fun v => (∀ m, ¬ mine v m) ∧ c v) x
    let recent (v : Env) : Prop := n v ≠ 0 ∧ n v ≤ k.eng.issued ∧ k.eng.issued < n v + 64
    let bar := k.bar f.toNat
    let code := recBar k.lrec f.toNat
    let known (v : Env) (s : State) : Prop := s.skein? v.p = some k ∧ code ≠ 0 ∧ n v ≤ k.eng.issued
    let free (v : Env) : Prop := 33 ≤ code → bar.arrm.getLsbD v.p.plyid = false
    let arrived (v : Env) (x : Barrier) : Barrier := { x with arrm := x.arrm ||| (1#32 <<< v.p.plyid) }
    let owe (v : Env) (s : State) : State := s.modPly v.key fun p => { p with owe := p.owe ||| (1#16 <<< f.toNat) }
    let put (v : Env) (x : Barrier) (s : State) : State :=
      s.modSkein v.p.skeinKey fun k => { k with bars := k.bars.set f.toNat x }
    status (fun v => n v = 0 ∨ k.eng.issued < n v) (fun _ => 0) ∧
    status (fun v => n v ≠ 0 ∧ n v + 64 ≤ k.eng.issued) (fun _ => BitVec.ofNat 64 (2 ^ 63 + 2 ^ 61)) ∧
    (∀ c l l', k.eng.copies = l ++ c :: l' → (∀ x ∈ l, x.n ≠ c.n) →
      status (fun v => n v = c.n ∧ recent v) (fun _ => BitVec.ofNat 64 (c.doneBytes % 2 ^ 31)) ∧
      asks (.cpyqDrop d a sw) (fun v => n v = c.n) fun _ => BitVec.ofNat 64 c.dropped) ∧
    (∀ c l l', k.eng.stats = l ++ c :: l' → (∀ x ∈ l, x.n ≠ c.n) →
      status (fun v => n v = c.n ∧ recent v ∧ ∀ x ∈ k.eng.copies, x.n ≠ c.n)
        (fun _ => BitVec.ofNat 64 (2 ^ 63) ||| BitVec.ofNat 64 (if c.part then 2 ^ 62 else 0) ||| BitVec.ofNat 64 (c.reason * 2 ^ 57) |||
          BitVec.ofNat 64 (c.bytes % 2 ^ 31)) ∧
      asks (.cpyqDrop d a sw) (fun v => n v = c.n ∧ ∀ x ∈ k.eng.copies, x.n ≠ c.n) fun _ => BitVec.ofNat 64 c.dropped) ∧
    (∀ s key p m, Ready (.cpyqStatus d a sw) s key p → s.skeins.get? p.skeinKey = some k → mine (envOf (.cpyqStatus d a sw) s key p) m →
      (∀ y, mine (envOf (.cpyqStatus d a sw) s key p) y → y ≠ m → m.n < y.n) →
      exec (.cpyqStatus d a sw) s = .next (takeTrap ((baseOf (.cpyqStatus d a sw) s key p).modSkein p.skeinKey fun x => { x with
        eng := { x.eng with marks := x.eng.marks.erase m } }) key 0x12
          ((m.page &&& ~~~0xFFF) ||| BitVec.ofNat 64 (m.n % 2 ^ 8 * 2 ^ 4) ||| BitVec.ofNat 64 m.reason) p.pc)) ∧
    asks (.cpyqTl d sw) (fun _ => True) (fun _ => BitVec.ofNat 64 k.eng.timeline) ∧
    asks (.cpyqDrop d a sw) (fun v => (∀ x ∈ k.eng.copies, x.n ≠ n v) ∧ ∀ x ∈ k.eng.stats, x.n ≠ n v) (fun _ => 0) ∧
    Does (.defarr a f sw) (fun v s => known v s ∧ free v ∧ n v ≤ k.eng.timeline)
      (fun v s => put v { arrived v bar with narr := (bar.narr + 1) % 64 } (owe v s)) (fun _ _ => {}) ∧
    Does (.defarr a f sw) (fun v s => known v s ∧ free v ∧ k.eng.timeline < n v ∧ v.p.defer.length < 4)
      (fun v s => (put v { arrived v bar with defm := bar.defm ||| (1#32 <<< v.p.plyid) } (owe v s)).modPly v.key fun p => { p with
        defer := p.defer ++ [(n v, f.toNat, bar.phase)] }) (fun _ _ => {}) ∧
    Waits (.defarr a f sw) (fun v s => known v s ∧ free v ∧ k.eng.timeline < n v ∧ 4 ≤ v.p.defer.length) (fun _ s => s)
      (fun _ _ => .deferRoom) (fun _ => 0) ∧
    Waits (.defarr a f sw) (fun v s => known v s ∧ ¬ free v) (fun _ s => s) (fun _ _ => .phase f.toNat bar.phase) (fun _ => 0) ∧
    Traps (.defarr a f sw) (fun v s => s.skein? v.p = some k ∧ code ≠ 0 ∧ k.eng.issued < n v) 0x12
      fun _ _ => BitVec.ofNat 64 (10 * 2 ^ 8 + 8)

/-! ## The spindles -/

/-- R320: an MMA takes the groups of eight products in ascending order, each rounded once and then added to the accumulator with one
more rounding, for every accumulator by itself. R326, R328, R333, R340: an MMA whose checks pass, whose tiles are READY, whose spindle is
free and whose budget covers its cost completes: it opens a batch with zero accumulators on an EMPTY D, or goes on with its own, debits
its cost, and starts a window in which its units are read. When the last of them has been read the products of its panels have been
added. It writes no register and no tile memory. The model's own choices in it: log 14. -/
def Obligations.MmaCompletes : Prop :=
  (∀ (k : Nat) (a b : List (List FVal)) (acc : List Word), a.length = 96 → b.length = 128 → acc.length = 12288 → k % 8 = 0 →
      (∀ r ∈ a, r.length = k) → (∀ r ∈ b, r.length = k) → ∀ m < 96, ∀ n < 128,
        (mmaAll k a b acc)[128 * m + n]? = some (BitVec.ofNat 32 ((List.range (k / 8)).foldl (fun x g => fAddRne .f32 x
          (groupSum (((a.getD m []).drop (8 * g)).take 8) (((b.getD n []).drop (8 * g)).take 8))) (acc.getD (128 * m + n) 0).toNat))) ∧
  (∀ (d : Name) (a b : SReg) (f : BitVec 4) (e : BitVec 2) (sw : Bool) (s : State) (key : Nat) (p : Ply) (k : Skein) (x : MmaPlan)
        (bud fill cap : DWord) (acc : List Word) (count : Nat),
      let i := Instr.mma d a b f e sw
      let v := envOf i s key p
      let c := p.core
      let op (n : Nat) : SpinOp := spinOp (baseOf i s key p) v k (x.ops.getD n ⟨0, 0, 0, 0⟩)
      let units := x.units k.wbase
      Ready i s key p → (s.hwOf c).spindles.length = 4 → s.skeins.get? p.skeinKey = some k →
      mmaChecks (s.hwOf c) p.slot k v.t ⟨0, v.dw 0 0, v.dw 4 0, 96⟩ ⟨1, v.dw 1 0, v.dw 5 0, 128⟩ (v.dw 2 0) (v.dw 6 0) = .inr x →
      energyOf s c p.ctx = (bud, fill, cap) → e.toNat < bud.toNat → e.toNat < cap.toNat →
      (∀ y ∈ x.tiles, y.2.st = .ready) → (∀ y ∈ x.tabs, y.2.st = .ready) → (s.spindle c p.part).window ≤ v.t →
      ((s.spindle c p.part).opened = none ∧ x.dent.st = .empty ∧ acc = List.replicate 12288 0 ∧ count = 0 ∨
        ∃ bt, (s.spindle c p.part).opened = some bt ∧ bt.owner = key ∧ bt.dref = x.dref ∧ acc = bt.acc ∧ count = bt.count) →
      ∃ t q bt, exec i s = .next t ∧ t.plies.get? key = some q ∧ q.pc = p.pc + 4 ∧ q.retired = p.retired + 1 ∧
        q.v = (vacated i (issuePly i s p)).v ∧ q.s = (vacated i (issuePly i s p)).s ∧ q.pend = (issuePly i s p).pend ∧ q.out = p.out ∧
        (t.spindle c p.part).opened = some bt ∧ bt.owner = key ∧ bt.dref = x.dref ∧ bt.count = count + 1 ∧
        energyOf t c p.ctx = (bud - BitVec.ofNat 64 (e.toNat + 1), fill, cap) ∧ (t.hwOf c).tile = (s.hwOf c).tile ∧ t.mem = s.mem ∧
        (∀ k, k ≠ key → t.plies.get? k = s.plies.get? k) ∧ (t.spindle c p.part).window = v.t + max x.tb (8 * bankMax units) ∧
        (units = [] → bt.acc = mmaAll x.k ((op 0).panel x.k []) ((op 1).panel x.k []) acc) ∧
        (units ≠ [] → bt.acc = acc ∧ (t.spindle c p.part).work = some (.mma x.k (op 0) (op 1)) ∧ (t.spindle c p.part).owner = key ∧
          (t.spindle c p.part).reads.Perm units ∧ (t.spindle c p.part).reads.Pairwise (· ≤ ·))) ∧
  ∀ (s : State) (core part slot k : Nat) (a b : SpinOp) (bt : Batch), ReadsLast s core part → (s.spindle core part).opened = some bt →
    (s.spindle core part).work = some (.mma k a b) →
    let t := serveSpindle s core part slot
    ∃ m, ImageRead s core part m ∧ (t.spindle core part).reads = [] ∧ (t.spindle core part).work = none ∧
      (t.spindle core part).opened = some { bt with acc := mmaAll k (a.panel k m) (b.panel k m) bt.acc } ∧ t.plies = s.plies ∧ t.mem = s.mem

/-- R326, R329, R341: MCLOSE and MABORT close the ply's open batch and do not wait for its drain, MWAIT closes it and waits; with none open
they have no effect but their result; while another batch drains the close waits. Closing leaves every unit of D to be written.
MCLOSE.RESUME with no batch of its own open opens one on an EMPTY D tile under the next number; D becomes FILLING with SPN, and when its
units have been read the accumulators are D's FP32 values. The model's own choices in it: log 35. -/
def Obligations.BatchClosesComplete : Prop :=
  (∀ (d : Name) (sw : Bool) (bt : Batch),
      let sp (v : Env) (s : State) : Spindle := s.spindle v.p.core (v.p.plyid % 4)
      let none (v : Env) (s : State) : Prop := ∀ x, (sp v s).opened = some x → x.owner ≠ v.key
      let mine (v : Env) (s : State) : Prop := (sp v s).opened = some bt ∧ bt.owner = v.key
      let close (part : Bool) (v : Env) (s : State) : State :=
        s.modSpindle v.p.core (v.p.plyid % 4) fun x => x.close v.t { bt with part := part }
      let number (n : Nat) : Env → State → Effect := fun _ _ => { writes := dstWrites d .pair 1 [BitVec.ofNat 128 n] }
      let lands (n : Env → Nat) : Env → State → Effect := fun v s =>
        { land := some ⟨s.uses, true, 0, dstWrites d .pair 1 [r64 (BitVec.ofNat 64 (n v))]⟩ }
      Does (.mclose d sw) none (fun _ s => s) (number 0) ∧
      Does (.mclose d sw) (fun v s => mine v s ∧ (sp v s).drain = .none) (close false) (number bt.n) ∧
      Does (.mabort d sw) none (fun _ s => s.use) (lands fun _ => 0) ∧
      Does (.mabort d sw) (fun v s => mine v s ∧ (sp v s).drain = .none) (fun v s => (close true v s).use) (lands fun _ => bt.count) ∧
      Does (.mwait d sw) (fun v s => none v s ∧ ∀ x, (sp v s).drain = some x → x.owner ≠ v.key) (fun _ s => s.use)
        (lands fun v => v.p.batch.getD 0) ∧
      Waits (.mwait d sw) (fun v s => mine v s ∧ (sp v s).drain = .none ∧ (s.hwOf v.p.core).spindles.length = 4) (close false)
        (fun _ _ => .batch 1) (fun _ => 0) ∧
      Waits (.mwait d sw) (fun v s => none v s ∧ ∃ x, (sp v s).drain = some x ∧ x.owner = v.key) (fun _ s => s)
        (fun _ _ => .batch 1) (fun _ => 0) ∧
      ∀ i ∈ [Instr.mclose d sw, .mabort d sw, .mwait d sw], Waits i (fun v s => mine v s ∧ (sp v s).drain ≠ .none) (fun _ s => s)
        (fun _ _ => .batch 0) (fun _ => 0)) ∧
  (∀ (x : Spindle) (t : Nat) (b : Batch), b.acc.length = 12288 →
      (x.close t b).drain = some b ∧ (x.close t b).opened = none ∧ (x.close t b).reads = x.reads ∧
      (x.close t b).writes = x.writes ++ (List.range 3072).map fun i =>
        (b.dphys / 16 + i, (List.range 16).map fun j => (b.acc.getD (4 * i + j / 4) 0).extractLsb' (8 * (j % 4)) 8)) ∧
  (∀ (d : Name) (a : Src) (sw : Bool) (s : State) (key : Nat) (p : Ply) (k : Skein) (e : TileEnt),
      let i := Instr.mcloseResume d a sw
      let v := envOf i s key p
      let c := p.core
      let off := (v.dw 0 0).toNat % 2 ^ 32
      let at' := (k.wbase + 512 * e.base + off) % 2 ^ 21
      Ready i s key p → (s.hwOf c).spindles.length = 4 → s.skeins.get? p.skeinKey = some k →
      resolveRef (s.hwOf c) p.slot (v.dw 0 0) = .inl e → off % 512 = 0 → off + 49152 ≤ 512 * e.size → e.st = .empty →
      (s.spindle c p.part).opened = none → (s.spindle c p.part).window ≤ v.t →
      ∃ t q bt, exec i s = .next t ∧ t.plies.get? key = some q ∧ q.pc = p.pc + 4 ∧ q.batch = some (k.spOpened + 1) ∧
        q.pend = pendWith v.t (fun _ => 2) (dstWrites d .pair 1 [BitVec.ofNat 128 (k.spOpened + 1)]) (issuePly i s p).pend ∧
        (t.spindle c p.part).opened = some bt ∧ bt.owner = key ∧ bt.n = k.spOpened + 1 ∧ bt.dref = v.dw 0 0 ∧ bt.count = 0 ∧
        (t.spindle c p.part).work = some (.resume at') ∧ (t.spindle c p.part).owner = key ∧
        (t.spindle c p.part).reads = unitSpan at' 49152 ∧ (t.hwOf c).tile = (s.hwOf c).tile ∧
        (t.hwOf c).tiles = (s.hwOf c).tiles.map (fun x =>
          if x.slot = p.slot ∧ x.handle = e.handle then { x with st := .filling, spn := true } else x) ∧ t.mem = s.mem) ∧
  ∀ (s : State) (core part slot a : Nat) (bt : Batch), ReadsLast s core part → (s.spindle core part).opened = some bt →
    (s.spindle core part).work = some (.resume a) →
    let t := serveSpindle s core part slot
    ∃ m bt', ImageRead s core part m ∧ (t.spindle core part).reads = [] ∧ (t.spindle core part).work = none ∧
      (t.spindle core part).opened = some bt' ∧ bt' = { bt with acc := bt'.acc } ∧ bt'.acc.length = 12288 ∧
      ∀ i < 12288, bt'.acc[i]? = some (BitVec.ofNat 32 (valueOf ((List.range 4).map fun j => Memory.read m (a + 4 * i + j))))

/-- R328, R342: MEPI on READY D, with a READY bias tile where its word asks for one, and an output tile that is FILLING or READY completes:
it debits its cost and starts a window in which D and the bias are read. When the last unit has been read, the activated and converted
elements are left to be written to the output tile, and a free slot writes them. The model's own choices in it: log 14. -/
def Obligations.EpilogueCompletes : Prop :=
  (∀ (d : Name) (a b : SReg) (f : BitVec 4) (e : BitVec 2) (sw : Bool) (s : State) (key : Nat) (p : Ply) (k : Skein) (de be oe : TileEnt)
      (bud fill cap : DWord),
    let i := Instr.mepi d a b f e sw
    let v := envOf i s key p
    let c := p.core
    let w (lo n : Nat) : Nat := (v.dw 3 0).toNat / 2 ^ lo % 2 ^ n
    let bias : Prop := w 38 1 = 1
    let size := if w 32 4 = 0 then 4 else if w 32 4 ≤ 2 then 2 else 1
    let off (n : Nat) : Nat := (v.dw n 0).toNat % 2 ^ 32
    let place (t : TileEnt) (n : Nat) : Nat := (k.wbase + 512 * t.base + off n) % 2 ^ 21
    let mode := if w 39 3 = 5 then p.frm.toNat % 8 else w 39 3
    let reads := unitSpan (place de 4) 49152 ++ if w 38 1 = 1 then unitSpan (place be 5) 512 else []
    Ready i s key p → (s.hwOf c).spindles.length = 4 → s.skeins.get? p.skeinKey = some k →
    w 39 3 ≤ 5 → w 36 2 ≤ 1 → w 32 4 ≤ 4 → w 42 22 = 0 →
    resolveRef (s.hwOf c) p.slot (v.dw 4 0) = .inl de → (bias → resolveRef (s.hwOf c) p.slot (v.dw 5 0) = .inl be) →
    resolveRef (s.hwOf c) p.slot (v.dw 6 0) = .inl oe → off 4 % 512 = 0 → (bias → off 5 % 16 = 0) → off 6 % 16 = 0 →
    off 4 + 49152 ≤ 512 * de.size → (bias → off 5 + 512 ≤ 512 * be.size) → off 6 + 12288 * size ≤ 512 * oe.size →
    de.st = .ready → (bias → be.st = .ready) → (oe.st = .filling ∨ oe.st = .ready) → (s.spindle c p.part).opened = none →
    (s.spindle c p.part).drain = none → (s.spindle c p.part).window ≤ v.t → energyOf s c p.ctx = (bud, fill, cap) →
    e.toNat < bud.toNat → e.toNat < cap.toNat →
    ∃ t q, exec i s = .next t ∧ t.plies.get? key = some q ∧ q.pc = p.pc + 4 ∧ q.retired = p.retired + 1 ∧
      q.stat = p.stat ||| fieldAt 8 (heldOf i s p).vacrd.toNat ||| fieldAt 9 (heldOf i s p).upinv.toNat ∧
      energyOf t c p.ctx = (bud - BitVec.ofNat 64 (e.toNat + 1), fill, cap) ∧ (t.hwOf c).tile = (s.hwOf c).tile ∧ t.mem = s.mem ∧
      (t.spindle c p.part).work =
        some (.mepi (v.dw 3 0) mode (frmNsat p.frm) (place de 4) (if w 38 1 = 1 then place be 5 else 0) (place oe 6)) ∧
      (t.spindle c p.part).owner = key ∧ (t.spindle c p.part).reads.Perm reads ∧ (t.spindle c p.part).reads.Pairwise (· ≤ ·) ∧
      (t.spindle c p.part).window = v.t + 8 * bankMax (reads ++ unitSpan (place oe 6) (12288 * size))) ∧
  (∀ (s : State) (core part slot : Nat) (word : DWord) (code : Nat) (nsat : Bool) (dp bp op : Nat), ReadsLast s core part →
    (s.spindle core part).work = some (.mepi word code nsat dp bp op) → (s.spindle core part).writes = [] →
    let w (lo n : Nat) : Nat := word.toNat / 2 ^ lo % 2 ^ n
    let mode := frmMode (BitVec.ofNat 64 code)
    let size := if w 32 4 = 0 then 4 else if w 32 4 ≤ 2 then 2 else 1
    let fmt : Fmt := if w 32 4 = 1 then .bf16 else if w 32 4 = 2 then .f16 else if w 32 4 = 3 then .e4m3 else .e5m2
    let t := serveSpindle s core part slot
    ∃ m, ImageRead s core part m ∧ (t.spindle core part).reads = [] ∧ (t.spindle core part).work = none ∧
      let at32 (a : Nat) : Nat := valueOf ((List.range 4).map fun j => Memory.read m (a + j))
      let act (r n : Nat) : Nat :=
        let y := ((fFmaPre .f32 .rne (Fmt.f32.unpack (w 0 32)) (Fmt.f32.unpack (at32 (dp + 4 * (128 * r + n))))
          (Fmt.f32.unpack (if w 38 1 = 1 then at32 (bp + 4 * n) else 0))).rne .f32).1
        if w 36 2 = 1 ∧ 2 ^ 31 < y ∧ isNan32 y = false then 0 else y
      let disc (r n : Nat) : Word := (fromF32Pre fmt nsat mode (act r n)).discard fmt
      let out (r n : Nat) : Nat :=
        if w 32 4 = 0 then act r n
        else (fromF32Round fmt nsat mode
          (if mode = .sr then srHash (disc r ((n + 127) % 128)) (disc r ((n + 1) % 128)) (128 * r + n) else 0)
          (fromF32Pre fmt nsat mode (act r n))).1
      let bytes := (List.range 12288).flatMap fun x => bytesOf size (out (x / 128) (x % 128))
      (t.spindle core part).writes = (List.range (768 * size)).map fun u => (op / 16 + u, (bytes.drop (16 * u)).take 16)) ∧
  ∀ (s : State) (core part slot : Nat), (s.hwOf core).spindles.length = 4 → part < 4 → (s.hwOf core).tile.wf = true →
    (s.spindle core part).reads = [] → (s.spindle core part).writes.Pairwise (fun x y => x.1 % 128 ≠ y.1 % 128) →
    (∀ x ∈ (s.spindle core part).writes, x.2.length = 16) →
    let t := serveSpindle s core part slot
    (t.spindle core part).writes = [] ∧
    (∀ x ∈ (s.spindle core part).writes, ∀ j < 16, (t.hwOf core).tile.read (16 * x.1 + j) = x.2.getD j 0) ∧
    ∀ a, (∀ x ∈ (s.spindle core part).writes, a / 16 ≠ x.1) → (t.hwOf core).tile.read a = (s.hwOf core).tile.read a

/-- R6, R343, R344: GSET writes the generator register, with the ply's index in G2 bits 12:8, from two cycles later on, and GGET reads its
words, the reserved bits of G2 as zero, and its effective seed. The model's own choices in it: log 37. -/
def Obligations.GeneratorsComplete : Prop :=
  (∀ (d : Name) (a : Src) (g : BitVec 3) (im : BitVec 8) (sw : Bool) (k : Skein),
    let reg (v : Env) (n : Nat) : Words4 := (k.gensAt v.t).getD n ⟨0, 0, 0, 0⟩
    let image (v : Env) : Words4 :=
      ⟨v.dw 0 0, v.dw 1 0, (v.dw 2 0 &&& ~~~0x1F00#64) ||| BitVec.ofNat 64 (v.p.plyid * 2 ^ 8), v.dw 3 0⟩
    let gget (c : Prop) (x : State → Env → DWord) : Prop := Does (.gget d im sw) (fun v s => c ∧ s.skein? v.p = some k) (fun _ s => s)
      (fun v s => { writes := dstWrites d .pair 1 [r64 (x s v)] })
    Does (.gset a g sw) (fun _ _ => True)
      (fun v s => (s.modSkein v.p.skeinKey fun k => { k with
        gregs := k.gensAt v.t, gnew := k.gnew.filter (fun x => decide (v.t < x.1)) ++ [(v.t + 2, g.toNat, image v)] }).modPly v.key
          fun p => { p with drainAt := max p.drainAt (v.t + 2) }) (fun _ _ => {}) ∧
    gget (im.toNat < 32 ∧ im.toNat % 4 = 0) (fun _ v => (reg v (im.toNat / 4)).w0) ∧
    gget (im.toNat < 32 ∧ im.toNat % 4 = 1) (fun _ v => (reg v (im.toNat / 4)).w1) ∧
    gget (im.toNat < 32 ∧ im.toNat % 4 = 2) (fun _ v => (reg v (im.toNat / 4)).w2 &&& ~~~0xE008#64) ∧
    gget (im.toNat < 32 ∧ im.toNat % 4 = 3) (fun _ v => (reg v (im.toNat / 4)).w3) ∧
    gget (32 ≤ im.toNat)
      (fun s v => effSeed (s.launchWord v.p.ctx v.p.lid 3) (k.lrec.getD 7 0) (k.index % 2 ^ 32) (reg v (im.toNat - 32)))) ∧
  ∀ (k : Skein) (t u g : Nat) (x : Words4), k.gregs.length = 8 → k.gnew = [] → g < 8 →
    let k' := { k with gregs := k.gensAt t, gnew := k.gnew.filter (fun (y : Nat × Nat × Words4) => decide (t < y.1)) ++ [(t + 2, g, x)] }
    k'.gensAt u = if t + 2 ≤ u then k.gregs.set g x else k.gregs

/-! ## Synchronisation -/

/-- R397 to R400: an arrival joins the open phase with its contribution once the ply's accesses are shown; BARA goes on, BAR and BARW
wait for the phase and return its result; a second arrival of a party waits, and another payload operation is ILLEGAL. R397, R399, R400: when a phase completes its result goes to the plies that are owed it, and the barrier starts the next phase
empty; a count counts arrivals and the retired that have not arrived, a party set waits for each of its plies. -/
def Obligations.BarriersComplete : Prop :=
  (∀ (d : Name) (a : Src) (b : BitVec 4) (m : BitVec 3) (sw : Bool) (k : Skein),
      let n := b.toNat
      let bar := k.bars.getD n ⟨0, 0, 0, 0, 0, 0⟩
      let here (v : Env) (s : State) : Prop := s.skein? v.p = some k ∧ k.bars.length = 16 ∧ v.p.plyid < 32
      let quiet (v : Env) : Prop := v.p.strict = 0 ∧ v.p.tileAt ≤ v.t ∧ v.p.spinAt ≤ v.t
      let twice (v : Env) : Prop := 33 ≤ recBar k.lrec n ∧ bar.arrm.getLsbD v.p.plyid = true
      let fits : Prop := m = 0 ∨ bar.op = 0 ∨ bar.op = m.toNat
      let comb (x y : Word) : Word := if m = 1 then x &&& y else if m = 2 then x ||| y else if m = 3 ∨ m = 4 then x + y
        else if m = 5 then BitVec.ofInt 32 (min x.toInt y.toInt) else BitVec.ofInt 32 (max x.toInt y.toInt)
      let ident : Word := if m = 1 then 0xFFFFFFFF else if m = 5 then 0x7FFFFFFF else if m = 6 then 0x80000000 else 0
      let one (x : Word) : Word := if m = 4 then (if x = 0 then 0 else 1) else x
      let contribution (v : Env) : Word :=
        if (v.op 0).uni then one (v.w 0 0) else (threadsOf v.p.width v.p.em).foldl (fun x k => comb x (one (v.w 0 k))) ident
      let arrive (v : Env) (s : State) : State := (s.modSkein v.p.skeinKey fun k => { k with bars := k.bars.set n { bar with
          op := if bar.op = 0 then m.toNat else bar.op
          acc := if m = 0 then bar.acc else comb (if bar.op = 0 then ident else bar.acc) (contribution v)
          narr := (bar.narr + 1) % 64, arrm := bar.arrm ||| (1#32 <<< v.p.plyid) } }).modPly v.key fun p => { p with
            owe := p.owe ||| (1#16 <<< n) }
      let back (v : Env) (s : State) : State := s.modPly v.key fun p => { p with owe := p.owe &&& ~~~(1#16 <<< n) }
      let result (v : Env) (s : State) : Effect :=
        let r : QWord := r32 (((s.plies.get? v.key).map fun p => p.bres.getD n 0).getD 0)
        { writes := if d.isS then dstWrites d .one 1 [r] else dstWrites d .one v.p.em (List.replicate v.p.width r) }
      let owes (v : Env) (s : State) : Prop := ∃ q, s.plies.get? v.key = some q ∧ q.plyid = v.p.plyid ∧ q.owe.getLsbD n = true
      let bara := Instr.bara a b m sw
      let barI := Instr.bar d a b m sw
      let barw := Instr.barw d b sw
      Does bara (fun v s => here v s ∧ quiet v ∧ ¬ twice v ∧ (m.toNat ≤ 6 ∧ fits)) arrive (fun _ _ => {}) ∧
      Waits barI (fun v s => here v s ∧ v.stage ≠ 1 ∧ quiet v ∧ ¬ twice v ∧ (m.toNat ≤ 6 ∧ fits) ∧
          ∃ q, s.plies.get? v.key = some q ∧ q.plyid = v.p.plyid) arrive (fun _ _ => .phase n bar.phase) (fun _ => 1) ∧
      Waits bara (fun v _ => ¬ quiet v) (fun _ s => s) (fun _ _ => .quiet true) (fun _ => 0) ∧
      Waits barI (fun v _ => v.stage ≠ 1 ∧ ¬ quiet v) (fun _ s => s) (fun _ _ => .quiet true) (fun _ => 0) ∧
      Does barI (fun v _ => v.stage = 1) back result ∧
      Does barw (fun v _ => v.stage = 2) back result ∧
      Does barw (fun v s => here v s ∧ v.stage ≠ 2 ∧ owes v s ∧ bar.arrm.getLsbD v.p.plyid = false) back result ∧
      Waits barw (fun v s => here v s ∧ v.stage ≠ 2 ∧ owes v s ∧ bar.arrm.getLsbD v.p.plyid = true) (fun _ s => s)
        (fun _ _ => .phase n bar.phase) (fun _ => 2) ∧
      Waits barw (fun v s => here v s ∧ v.stage ≠ 2 ∧ ∃ q, s.plies.get? v.key = some q ∧ q.owe.getLsbD n = false) (fun _ s => s)
        (fun _ _ => .phase n bar.phase) (fun _ => 2) ∧
      Waits bara (fun v s => here v s ∧ quiet v ∧ twice v) (fun _ s => s) (fun _ _ => .phase n bar.phase) (fun _ => 0) ∧
      Waits barI (fun v s => here v s ∧ v.stage ≠ 1 ∧ quiet v ∧ twice v) (fun _ s => s) (fun _ _ => .phase n bar.phase) (fun _ => 0) ∧
      Traps bara (fun v s => here v s ∧ quiet v ∧ ¬ twice v ∧ ¬ fits) 0x01 (fun v _ => v.enc) ∧
      Traps barI (fun v s => here v s ∧ v.stage ≠ 1 ∧ quiet v ∧ ¬ twice v ∧ ¬ fits) 0x01 (fun v _ => v.enc)) ∧
  (∀ (s : State) (sk b : Nat) (k : Skein), s.skeins.get? sk = some k → b < 16 → k.bars.length = 16 →
      let x := k.bars.getD b ⟨0, 0, 0, 0, 0, 0⟩
      let code := recBar k.lrec b
      let there (p : Nat) : Bool := (x.arrm.getLsbD p || k.retired.getLsbD p) && !x.defm.getLsbD p
      (1 ≤ code → code ≤ 32 → barComplete k b = decide (code ≤ x.narr + (List.range (recNply k.lrec)).countP fun p =>
        k.retired.getLsbD p && !x.arrm.getLsbD p && !x.defm.getLsbD p)) ∧
      (code = 33 → barComplete k b = (List.range (recNply k.lrec)).all there) ∧
      (code = 34 → barComplete k b = (List.range (recNply k.lrec)).all fun p => decide (recRole k.lrec p ≠ .producer) || there p) ∧
      (code = 35 → barComplete k b = (List.range (recNply k.lrec)).all fun p => decide (recRole k.lrec p ≠ .consumer) || there p) ∧
      (barComplete k b = true → x.narr ≠ 0 ∨ x.arrm ≠ 0 → ∃ t, exec (.barrierPhaseCompletion sk b) s = .next t ∧
        (∃ k', t.skeins.get? sk = some k' ∧ k'.bars.getD b ⟨0, 0, 0, 0, 0, 0⟩ = ⟨(x.phase + 1) % 2 ^ 16, 0, 0, 0, 0, 0⟩ ∧
          ∀ c, c ≠ b → k'.bars[c]? = k.bars[c]?) ∧
        ∀ key p, s.plies.get? key = some p → p.skeinKey = sk → p.owe.getLsbD b = true → x.arrm.getLsbD p.plyid = true →
          ∃ q, t.plies.get? key = some q ∧ (b < p.bres.length → q.bres.getD b 0 = if x.op = 0 then 0 else x.acc) ∧
            q.v = p.v ∧ q.s = p.s ∧ q.pc = p.pc))

/-- R402, R403: TAKE and WAITP give V, K and whether K is 0 as of the moment the head reached the skein; TAKE resolves its ticket with
V + s[a8], PUT with s[a8], SKIP as skipped, once; each waits where the rule says. R402: resolving the head ticket moves the head past it and past every ticket resolved behind it; a PUT sets V and clears K, a SKIP
counts K up to 2^64 - 1; a ticket ahead of the head changes neither. -/
def Obligations.TicketsComplete : Prop :=
  (∀ (d : Name) (a : Src) (c : BitVec 3) (sw : Bool) (k : Skein) (x : Chain),
      let n := c.toNat
      let owed (v : Env) (s : State) : Prop := s.skein? v.p = some k ∧ k.resolved.getLsbD n = false ∧ s.chainOf v.p n = x
      let quiet (v : Env) : Prop := v.p.strict = 0 ∧ v.p.tileAt ≤ v.t ∧ v.p.spinAt ≤ v.t
      let gives (y z : DWord) : Env → State → Effect := fun _ _ =>
        { writes := dstWrites d .quad 1 [r64 y ||| (r64 z <<< 64)] ++ [⟨.q 7, 1, [if z = 0 then 0 else 1]⟩] }
      let resolve (r : Env → Option DWord) (v : Env) (s : State) : State :=
        { s with launches := s.launches.modify (v.p.ctx * 64 + v.p.lid) fun l =>
            { l with chains := l.chains.modify n fun y => y.resolve v.p.skix (r v) } }.modSkein v.p.skeinKey fun k =>
              { k with resolved := k.resolved ||| (1#8 <<< n) }
      let take := Instr.tktTake d a c sw
      let waitp := Instr.tktWaitp d c sw
      let put := Instr.tktPut a c sw
      let skip := Instr.tktSkip c sw
      Does take (fun v s => owed v s ∧ quiet v ∧ x.h = v.p.skix) (resolve fun v => some (x.v + v.dw 0 0)) (gives x.v x.k) ∧
      Waits take (fun v s => owed v s ∧ quiet v ∧ x.h ≠ v.p.skix) (fun _ s => s) (fun _ _ => .ticket n true) (fun _ => 0) ∧
      (∀ y z, Does waitp (fun v s => s.chainOf v.p n = x ∧ v.p.skix ≤ x.h ∧ x.seen.get? v.p.skix = some (y, z)) (fun _ s => s) (gives y z)) ∧
      Waits waitp (fun v s => s.chainOf v.p n = x ∧ x.h < v.p.skix) (fun _ s => s) (fun _ _ => .ticket n false) (fun _ => 0) ∧
      Does put (fun v s => owed v s ∧ quiet v) (resolve fun v => some (v.dw 0 0)) (fun _ _ => {}) ∧
      Does skip (fun v s => owed v s ∧ quiet v) (resolve fun _ => none) (fun _ _ => {}) ∧
      (∀ i ∈ [take, put, skip], Waits i (fun v s => owed v s ∧ ¬ quiet v) (fun _ s => s) (fun _ _ => .quiet true) (fun _ => 0)) ∧
      ∀ i ∈ [take, put, skip], Traps i (fun v s => s.skein? v.p = some k ∧ k.resolved.getLsbD n = true) 0x01 (fun v _ => v.enc)) ∧
  ((∀ (x : Chain) (i : Nat) (r : Option DWord), x.done.get? x.h = none → i ≠ x.h →
      (x.resolve i r).h = x.h ∧ (x.resolve i r).v = x.v ∧ (x.resolve i r).k = x.k ∧ (x.resolve i r).done.get? i = some r) ∧
    (∀ (x : Chain) (v : DWord), x.done = [] →
      let y := x.resolve x.h (some v)
      y.h = x.h + 1 ∧ y.v = v ∧ y.k = 0 ∧ y.seen.get? (x.h + 1) = some (v, 0)) ∧
    (∀ (x : Chain), x.done = [] →
      let y := x.resolve x.h none
      y.h = x.h + 1 ∧ y.v = x.v ∧ y.k.toNat = min (x.k.toNat + 1) (2 ^ 64 - 1) ∧ y.seen.get? (x.h + 1) = some (x.v, y.k)) ∧
    ∀ (s : State) (ctx lid c : Nat) (l : Launch) (x : Chain), c < 8 → s.launches.get? (ctx * 64 + lid) = some l → l.chains[c]? = some x →
      ∃ t l', exec (.ticketChainAdvance ctx lid c) s = .next t ∧ t.launches.get? (ctx * 64 + lid) = some l' ∧
        l'.chains[c]? = some (x.advance x.done.length) ∧ ∀ j, j ≠ c → l'.chains[j]? = l.chains[j]?)

/-- R365, R366: QPUSH appends its token when the queue has room, QPOP takes the oldest or learns that the queue is closed, and each
waits otherwise. -/
def Obligations.QueuesComplete : Prop :=
  ∀ (d : Name) (a : Src) (q : BitVec 3) (sw : Bool) (k : Skein) (x : DWord) (rest : List DWord),
    let n := q.toNat
    let tokens := k.queues.getD n []
    let push := Instr.qpush a q sw
    let pop := Instr.qpop d q sw
    let mine (v : Env) : Bool := k.poppers.any fun w => decide (w.plyid = v.p.plyid)
    let shut (v : Env) : Bool := k.poppers.any fun w => decide (w.plyid = v.p.plyid ∧ w.queue = n) && w.closed
    let first (v : Env) : Prop := ∀ w, k.poppers.find? (fun w => decide (w.queue = n) && !w.closed) = some w → w.plyid = v.p.plyid
    let stands (v : Env) : List Popper := if mine v then k.poppers else k.poppers ++ [⟨n, v.p.plyid, false⟩]
    let pushes (p : Nat) : Bool :=
      let from' := recQueue k.lrec n / 4 % 4
      decide (from' = 0 ∨ from' = 1 ∧ recRole k.lrec p = .producer ∨ from' = 2 ∧ recRole k.lrec p = .consumer)
    let allGone (v : Env) : Prop := ∀ p < recNply k.lrec, pushes p = true → k.retired.getLsbD p = true ∨
      ∃ w ∈ stands v, w.queue = n ∧ w.plyid = p
    let gives (y : DWord) (closed : DWord) : Env → State → Effect := fun _ _ =>
      { writes := dstWrites d .pair 1 [r64 y] ++ [⟨.q 7, 1, [closed]⟩] }
    let set (f : Env → Skein) (v : Env) (s : State) : State := s.modSkein v.p.skeinKey fun _ => f v
    let without (v : Env) (l : List Popper) : List Popper := l.filter fun w => decide (w.plyid ≠ v.p.plyid)
    Does push (fun v s => s.skein? v.p = some k ∧ v.p.strict = 0 ∧ v.p.tileAt ≤ v.t ∧ tokens.length < 32)
      (set fun v => { k with queues := k.queues.set n (tokens ++ [v.dw 0 0]) }) (fun _ _ => {}) ∧
    Waits push (fun v s => s.skein? v.p = some k ∧ v.p.strict = 0 ∧ v.p.tileAt ≤ v.t ∧ 32 ≤ tokens.length) (fun _ s => s)
      (fun _ _ => .queueRoom n) (fun _ => 0) ∧
    Waits push (fun v _ => v.p.strict ≠ 0 ∨ v.t < v.p.tileAt) (fun _ s => s) (fun _ _ => .quiet false) (fun _ => 0) ∧
    Does pop (fun v s => s.skein? v.p = some k ∧ tokens = x :: rest ∧ shut v = false ∧ first v)
      (set fun v => { k with queues := k.queues.set n rest, poppers := without v k.poppers }) (gives x 0) ∧
    Does pop (fun v s => s.skein? v.p = some k ∧ shut v = true) (set fun v => { k with poppers := without v k.poppers }) (gives 0 1) ∧
    Does pop (fun v s => s.skein? v.p = some k ∧ tokens = [] ∧ shut v = false ∧ allGone v)
      (set fun v => { k with poppers := without v ((stands v).map fun w => if w.queue = n then { w with closed := true } else w) })
      (gives 0 1) ∧
    Waits pop (fun v s => s.skein? v.p = some k ∧ shut v = false ∧ (tokens = [] ∧ ¬ allGone v ∨ tokens = x :: rest ∧ ¬ first v))
      (set fun v => { k with poppers := stands v }) (fun _ _ => .queueToken n) (fun _ => 0)

/-- R405, R406: TLRD gives a counter, TLWAIT one that has come to n; it waits before, and an unconfigured launch queue traps with
PROT. -/
def Obligations.TimelinesComplete : Prop :=
  ∀ (d : Name) (a : Src) (f : BitVec 5) (g sw : Bool) (k : Skein),
    let counter (s : State) : DWord := if f.toNat = 0 then BitVec.ofNat 64 k.eng.timeline
      else if f.toNat = 1 then BitVec.ofNat 64 k.spTimeline else BitVec.ofNat 64 (s.lq k.ctx (f.toNat - 8)).2
    let unset (s : State) : Prop := 8 ≤ f.toNat ∧ queueBase s k.ctx (f.toNat - 8) = 0
    let marked (v : Env) : Prop := f.toNat = 0 ∧ ∃ m ∈ k.eng.marks, m.issuer = v.p.plyid ∧ m.n ≤ (v.dw 0 0).toNat
    let wait := Instr.tlwait d a f sw
    Does wait (fun v s => s.skein? v.p = some k ∧ ¬ unset s ∧ (v.dw 0 0).toNat ≤ (counter s).toNat ∧ ¬ marked v) (fun _ s => s)
      (fun _ s => { writes := dstWrites d .pair 1 [r64 (counter s)] }) ∧
    Waits wait (fun v s => s.skein? v.p = some k ∧ ¬ unset s ∧ (counter s).toNat < (v.dw 0 0).toNat) (fun _ s => s)
      (fun v _ => .timeline f.toNat (v.dw 0 0)) (fun _ => 0) ∧
    Traps wait (fun v s => s.skein? v.p = some k ∧ unset s) 0x0B (fun _ _ => BitVec.ofNat 64 f.toNat) ∧
    Does (.tlrd d g sw) (fun v s => s.skein? v.p = some k) (fun _ s => s) (fun _ _ =>
      { writes := dstWrites d .pair 1 [r64 (BitVec.ofNat 64 (if g then k.spTimeline else k.eng.timeline))] })

/-- R112, R113: a contribution of a core of the tree goes up with the elements of the active threads, the identity elsewhere, and the
core's mask; it lands with the round's result. The refusals of R113 trap with NREDFAULT in their order, and a ply whose core has one
outstanding waits. -/
def Obligations.TreeContributions : Prop :=
  ∀ (d : Name) (a : Src) (n : BitVec 5) (m : BitVec 3) (sw : Bool) (slot round : Nat) (x : Tree),
    let i := Instr.nred d a n m sw
    let inTree (v : Env) (s : State) : Prop := ((s.ctx v.p.ctx).treemap.getD n.toNat none) = some slot ∧ s.trees.get? slot = some x
    let member (v : Env) : Prop := (treeMask x.words).getLsbD v.p.core = true
    let width (v : Env) : Prop := v.p.width = treeWidth x.words
    let op : Prop := m.toNat = treeOp x.words
    let fault (r : Nat) : Env → State → DWord := fun _ _ => BitVec.ofNat 64 n.toNat ||| BitVec.ofNat 64 (r * 2 ^ 5)
    let ident : Word := if m = 0 then 0x80000000 else if m = 1 then 0 else if m = 2 then 0x7F800000 else if m = 3 then 0xFF800000
      else if m = 4 then 0x7FFFFFFF else 0x80000000
    let up (v : Env) (s : State) : Instr := .nup ⟨hdrOf s v.p.ctx 0 (.core v.p.core) (.router (coreRouter v.p.core).1), slot, round,
      (coreRouter v.p.core).2, false, (List.range v.p.width).map fun k => if v.p.em.getLsbD k then v.w 0 k else ident,
      1#128 <<< v.p.core⟩
    Does i (fun v s => inTree v s ∧ member v ∧ width v ∧ op ∧ s.coreTree v.p.core slot = (round, false, none))
      (fun v s => (s.setCoreTree v.p.core slot ((round + 1) % 2 ^ 16, false, some v.key)).send (up v s))
      (fun v _ => { land := some ⟨2 ^ 60 + slot, false, 0,
        (if v.p.em = 0 then [] else dstWrites d .pair v.p.em (List.replicate v.p.width 0)) ++ [⟨.q 7, 1, [0]⟩]⟩ }) ∧
    Waits i (fun v s => inTree v s ∧ member v ∧ width v ∧ op ∧ ∃ k, s.coreTree v.p.core slot = (round, false, some k)) (fun _ s => s)
      (fun _ _ => .tree slot) (fun _ => 0) ∧
    Traps i (fun v s => ((s.ctx v.p.ctx).treemap.getD n.toNat none) = none) 0x17 (fault 1) ∧
    Traps i (fun v s => inTree v s ∧ ¬ member v) 0x17 (fault 2) ∧
    Traps i (fun v s => inTree v s ∧ member v ∧ ¬ width v) 0x17 (fault 3) ∧
    Traps i (fun v s => inTree v s ∧ member v ∧ width v ∧ ¬ op) 0x17 (fault 4) ∧
    ∀ s key p who, Ready i s key p → let v := envOf i s key p; let b := baseOf i s key p
      inTree v b → member v → width v → op → b.coreTree v.p.core slot = (round, true, who) →
      exec i s = .next (takeTrap (b.setCoreTree v.p.core slot (round, false, who)) key 0x17 (fault 5 v b) p.pc)

/-! ## User interrupts, registers, system -/

/-- R423 to R430: the user-interrupt instructions answer, mask, take and return; an instruction used where it may not be traps with
UIFAULT. R413 to R415: what one message does at the user-interrupt unit: dead context, permission, vector, rate, and the vector's mode. -/
def Obligations.UserInterruptsComplete : Prop :=
  (∀ (d : Name) (a : Src) (sw : Bool) (n : Nat),
      let lands (x : Env → State → DWord) (more : List Write) : Env → State → Effect := fun v s =>
        { land := some ⟨s.uses, true, 0, dstWrites d .pair 1 [r64 (x v s)] ++ more⟩ }
      let w (v : Env) (lo n : Nat) : Nat := (v.dw 0 0).toNat / 2 ^ lo % 2 ^ n
      let clean (v : Env) : Prop := w v 56 3 = 0 ∧ w v 6 42 = 0
      let quiet (v : Env) : Prop := v.p.strict = 0 ∧ v.p.tileAt ≤ v.t
      let send := Instr.uisend d a sw
      let sent (v : Env) (s : State) : Nat × State := uiDeliver s ⟨2, 0, v.p.ctx, 0⟩ (w v 48 8) (w v 0 6) (v.dw 1 0)
      let ack (m : Option DWord) (x : DWord) (q : DWord) : Prop :=
        Does (.uiack d a sw) (fun v s => (v.dw 0 0).toNat < 64 ∧ (takeMessage (s.ctx v.p.ctx) (v.dw 0 0).toNat v.p.logic).1 = m)
          (fun v s => (s.modCtx v.p.ctx fun _ => (takeMessage (s.ctx v.p.ctx) (v.dw 0 0).toNat v.p.logic).2).use)
          (lands (fun _ _ => x) [⟨.q 7, 1, [q]⟩])
      Does send (fun v _ => clean v ∧ quiet v ∧ w v 59 5 = 31) (fun v s => (sent v s).2.use)
        (fun v s => { land := some ⟨(sent v s).2.uses, true, 0, dstWrites d .pair 1 [r64 (BitVec.ofNat 64 (sent v s).1)]⟩ }) ∧
      Does send (fun v s => clean v ∧ quiet v ∧ w v 59 5 < 22 ∧ s.links.get? (w v 59 5) = none) (fun _ s => s.use)
        (lands (fun _ _ => 6) []) ∧
      (∀ l, l.up = true → Does send (fun v s => clean v ∧ quiet v ∧ w v 59 5 < 22 ∧ s.links.get? (w v 59 5) = some l ∧
          .peerLink (w v 59 5) ∉ s.fenced)
        (fun v s => { s.use.tellHost (.uiMessage (w v 59 5) s.uses v.p.ctx (w v 48 8) (w v 0 6) (v.dw 1 0)) with
          links := s.links.modify (w v 59 5) fun l => { l with uiOut := l.uiOut ++ [s.uses] } })
        (fun _ s => { land := some ⟨s.uses, false, 0, dstWrites d .pair 1 [0]⟩ })) ∧
      Waits send (fun v _ => clean v ∧ (w v 59 5 < 22 ∨ w v 59 5 = 31) ∧ ¬ quiet v) (fun _ s => s) (fun _ _ => .quiet false) (fun _ => 0) ∧
      Traps send (fun v _ => ¬ clean v ∨ 22 ≤ w v 59 5 ∧ w v 59 5 ≤ 30) 0x15 (fun _ _ => 3) ∧
      Does (.uimask d a sw) (fun _ _ => True) (fun v s => (s.modCtx v.p.ctx fun c => { c with uimask := v.dw 0 0 }).use)
        (lands (fun v s => (s.ctx v.p.ctx).uimask) []) ∧
      Does (.uipend d a sw) (fun v _ => v.dw 0 0 = 1) (fun _ s => s.use) (lands (fun v s => (s.ctx v.p.ctx).uimask) []) ∧
      (∀ x : DWord,
        let pends (v : Env) (s : State) : Prop := ∀ n < 64, x.getLsbD n = ((s.ctx v.p.ctx).vecs.getD n VecSt.zero).pend
        Does (.uipend d a sw) (fun v s => v.dw 0 0 = 0 ∧ pends v s) (fun _ s => s.use) (lands (fun _ _ => x) []) ∧
        Does (.uipend d a sw) (fun v s => v.dw 0 0 = 2 ∧ pends v s) (fun _ s => s.use)
          (lands (fun v s => x &&& ~~~(s.ctx v.p.ctx).uimask) [])) ∧
      (∀ (j m : Nat) (x : VecSt), j < 64 →
        Does (.uipend d a sw) (fun v s => (v.dw 0 0).toNat = 64 + j ∧ (s.ctx v.p.ctx).vecs.getD j VecSt.zero = x ∧
            ((s.ctx v.p.ctx).vectors.getD j 0).toNat / 2 ^ 18 % 4 = m) (fun _ s => s.use)
          (lands (fun _ _ => BitVec.ofNat 64 (x.pend.toNat * 2 ^ 63) ||| BitVec.ofNat 64 (x.claim.isSome.toNat * 2 ^ 62) |||
            BitVec.ofNat 64 (m * 2 ^ 60) ||| BitVec.ofNat 64 ((if m = 3 then x.fifo.length else x.pend.toNat) * 2 ^ 56) |||
            BitVec.ofNat 64 x.ovf) [])) ∧
      Does (.uipend d a sw) (fun v _ => 128 ≤ (v.dw 0 0).toNat ∨ 3 ≤ (v.dw 0 0).toNat ∧ (v.dw 0 0).toNat < 64) (fun _ s => s.use)
        (lands (fun _ _ => 0) []) ∧
      ack none 0 1 ∧ (∀ x, ack (some x) x 0) ∧
      Traps (.uiack d a sw) (fun v _ => 64 ≤ (v.dw 0 0).toNat) 0x15 (fun _ _ => 4) ∧
      Does (.uiret sw) (fun v _ => v.p.tl = 0 ∧ v.p.uist.getLsbD 0 = true)
        (fun v s => endClaims (s.modPly v.key fun p => { p with
          stack := p.stack.drop (p.stack.length - p.floor), em := p.uiem &&& p.tlive, floor := p.uist.toNat / 2 % 2 ^ 5
          uist := p.uist &&& ~~~1 }) v.p)
        (fun v _ => { target := some (v.p.uipc &&& ~~~1), after := 2 }) ∧
      Traps (.uiret sw) (fun v _ => 1 ≤ v.p.tl ∨ v.p.uist.getLsbD 0 = false) 0x15 (fun _ _ => 1) ∧
      Does (.uiwait a sw) (fun v s => v.p.tl = 0 ∧ v.p.uist.getLsbD 0 = false ∧ lowestVector s v.key v.p = some n)
        (fun v s => s.modCtx v.p.ctx fun _ => (takeMessage (s.ctx v.p.ctx) n v.p.logic).2)
        (fun v s => { writes := [⟨.s 28, 1, [BitVec.ofNat 64 n]⟩,
          ⟨.s 29, 1, [((takeMessage (s.ctx v.p.ctx) n v.p.logic).1).getD 0]⟩, ⟨.q 7, 1, [0]⟩] }) ∧
      Does (.uiwait a sw) (fun v s => v.p.tl = 0 ∧ v.p.uist.getLsbD 0 = false ∧ lowestVector s v.key v.p = none ∧ v.stage = 2)
        (fun _ s => s) (fun _ _ => { writes := [⟨.q 7, 1, [1]⟩] }) ∧
      Waits (.uiwait a sw) (fun v s => v.p.tl = 0 ∧ v.p.uist.getLsbD 0 = false ∧ lowestVector s v.key v.p = none ∧ v.stage ≠ 2 ∧
          (∀ dl, v.p.park ≠ .wait (.ui dl))) (fun _ s => s)
        (fun v s => .ui (if v.w 0 0 = 0 ∨ recDet (s.launchRec v.p) = true then none else some (s.tick + (v.w 0 0).toNat))) (fun _ => 1) ∧
      Traps (.uiwait a sw) (fun v _ => 1 ≤ v.p.tl ∨ v.p.uist.getLsbD 0 = true) 0x15 (fun _ _ => 2)) ∧
  ((∀ (s : State) (w : Sender) (ctx vec : Nat) (x : DWord),
      (s.ctxs.get? ctx = none → uiDeliver s w ctx vec x = (3, { s with uidrop := s.uidrop + 1 })) ∧
      ∀ c, s.ctxs.get? ctx = some c →
        (c.killed = true → uiDeliver s w ctx vec x = (3, { s with uidrop := s.uidrop + 1 })) ∧
        (c.killed = false → permIndex c w = none → uiDeliver s w ctx vec x = (1, s)) ∧
        ∀ i e, c.killed = false → permIndex c w = some i → c.perms[i]? = some e →
          (e.2.getLsbD vec = false → uiDeliver s w ctx vec x = (1, s)) ∧
          (e.2.getLsbD vec = true → e.1.toNat / 2 ^ 32 % 2 ^ 16 ≠ 0 → c.rates.getD i 0 = 0 → uiDeliver s w ctx vec x = (4, s)) ∧
          (e.2.getLsbD vec = true → (e.1.toNat / 2 ^ 32 % 2 ^ 16 = 0 ∨ c.rates.getD i 0 ≠ 0) →
            ∃ st t c', uiDeliver s w ctx vec x = (st, t) ∧ t.ctxs.get? ctx = some c' ∧
              c'.rates = (if e.1.toNat / 2 ^ 32 % 2 ^ 16 = 0 then c.rates else c.rates.modify i (· - 1)) ∧
              ((c.vectors.getD vec 0).getLsbD 16 = false → st = 1 ∧ c'.vecs = c.vecs) ∧
              ((c.vectors.getD vec 0).getLsbD 16 = true →
                let y := (c.vecs.getD vec VecSt.zero).accept ((c.vectors.getD vec 0).toNat / 2 ^ 18 % 4) x
                st = (if y.2 then 0 else 2) ∧ c'.vecs = c.vecs.set vec y.1 ∧ c'.nacc = c.nacc + y.2.toNat))) ∧
    (∀ (v : VecSt) (x : DWord),
      (∀ m < 3, v.pend = false → v.accept m x = ({ v with pend := true, slot := x }, true)) ∧
      (v.pend = true → v.accept 0 x = ({ v with slot := x }, true) ∧ v.accept 1 x = ({ v with slot := v.slot ||| x }, true) ∧
        v.accept 2 x = ({ v with slot := v.slot + x }, true)) ∧
      (v.fifo.length < 8 → v.accept 3 x = ({ v with pend := true, fifo := v.fifo ++ [x] }, true)) ∧
      (8 ≤ v.fifo.length → v.accept 3 x = ({ v with ovf := min (v.ovf + 1) (2 ^ 32 - 1) }, false))))


/-- R251 to R257: VACQ grants the extended block to a ply that declared it, at once or in its turn, VREL gives it back, after a switch
point if results are outstanding, VKILL makes a
register vacant, RDLIVE reads the liveness, and UPRD and UPWR reach the operand cache and the latches of the level below. -/
def Obligations.RegistersComplete : Prop :=
  ∀ (d : Name) (a : Src) (sw : Bool) (l : Lanes) (ok : Bool) (x : DWord),
    let units (w : Nat) : Nat := if w = 64 then 2 else 1
    let pool (v : Env) (s : State) : Part := s.part v.p.partKey
    let head (v : Env) (s : State) : Prop := (pool v s).vacq = [] ∨ (pool v s).vacq.head? = some v.key
    let asks (v : Env) : Prop := v.p.ext = false ∧ v.p.extDecl = true
    let frees (v : Env) (s : State) : State := (s.modPly v.key fun p => { p with
      ext := false, v := p.v.filter fun n _ => decide (n < 48) }).modPart v.p.partKey fun pt => { pt with
        extUnits := pt.extUnits - units v.p.width }
    let live (n : DWord) (bit : Ply → Nat → Bool) : Prop := Does (.rdlive d a sw)
      (fun v _ => (v.w 0 0).toNat = n.toNat ∧ ∀ k < 64, x.getLsbD k = bit v.p k) (fun _ s => s)
      (fun _ _ => { writes := dstWrites d .pair 1 [r64 x] })
    Does (.vacq sw) (fun v _ => v.p.ext = true) (fun _ s => s) (fun _ _ => {}) ∧
    Does (.vacq sw) (fun v s => asks v ∧ head v s ∧ (pool v s).extUnits + units v.p.width ≤ 32)
      (fun v s => (s.modPly v.key fun p => { p with ext := true }).modPart v.p.partKey fun pt => { pt with
        extUnits := pt.extUnits + units v.p.width, vacq := pt.vacq.erase v.key }) (fun _ _ => {}) ∧
    Waits (.vacq sw) (fun v s => asks v ∧ (¬ head v s ∨ 32 < (pool v s).extUnits + units v.p.width))
      (fun v s => s.modPart v.p.partKey fun pt =>
        if v.key ∈ pt.vacq then pt else { pt with vacq := pt.vacq ++ [v.key] }) (fun _ _ => .vacq) (fun _ => 0) ∧
    Traps (.vacq sw) (fun v _ => v.p.ext = false ∧ v.p.extDecl = false) 0x14 (fun _ _ => 0x30) ∧
    Does (.vrel sw) (fun v _ => v.p.ext = false) (fun _ s => s) (fun _ _ => {}) ∧
    Does (.vrel sw) (fun v _ => v.p.ext = true ∧ v.stage = 1) (fun v s => frees v s) (fun _ _ => {}) ∧
    Does (.vrel sw) (fun v _ => v.p.ext = true ∧ v.stage ≠ 1 ∧ v.p.out = [] ∧ v.p.tiles = [] ∧ v.p.memlost = none ∧ v.p.mixsize = none)
      (fun v s => frees v (s.modPly v.key fun p => p.landAll.dropLatches))
      (fun v _ => { after := v.p.pend.foldl (fun m y => max m y.due) v.t - v.t + 2 }) ∧
    Waits (.vrel sw) (fun v _ => v.p.ext = true ∧ v.stage ≠ 1 ∧ v.p.out ≠ []) (fun _ s => s) (fun _ _ => .landRoom) (fun _ => 1) ∧
    Waits (.vrel sw) (fun v _ => v.p.ext = true ∧ v.stage ≠ 1 ∧ v.p.out = [] ∧ v.p.tiles ≠ []) (fun _ s => s)
      (fun v _ => .cycle (v.p.tileAt + 1)) (fun _ => 0) ∧
    (∀ n, Does (.vkill a sw) (fun v _ => a.name = .v n ∧ v.p.regpoolOf a.name .one = none)
      (fun v s => s.modPly v.key fun p => { p with v := p.v.erase n }) (fun _ _ => {})) ∧
    (∀ n, Does (.vkill a sw) (fun _ _ => a.name = .s n) (fun v s => s.modPly v.key fun p => { p with s := p.s.erase n }) (fun _ _ => {})) ∧
    (∀ n, Does (.vkill a sw) (fun _ _ => a.name = .o n)
      (fun v s => s.modPly v.key fun p => p.vacate (.o n)) (fun _ _ => {})) ∧
    live 0 (fun p k => (decide (k < 48) || p.ext) && p.liveReg (.v k)) ∧
    live 1 (fun p k => if k < 16 then p.ext && p.liveReg (.v (64 + k)) else if k < 24 then p.liveReg (.o (k - 16))
      else if k = 24 then p.lx.valid else if k = 25 then p.ly.valid || p.lyNew.isSome
      else decide (32 ≤ k) && p.liveReg (.s (k - 32))) ∧
    live 2 (fun p k => decide (p.tl ≠ 0) && if k < 8 then (p.oBelow[k]?).any (fun e => e.valid && e.live)
      else (decide (k = 8) && (if p.tl = 2 then p.tr2 else p.tr1).xstat.getLsbD 5) ||
        decide (k = 9) && (if p.tl = 2 then p.tr2 else p.tr1).xstat.getLsbD 6) ∧
    Does (.rdlive d a sw) (fun v _ => 3 ≤ (v.w 0 0).toNat) (fun _ s => s) (fun _ _ => { writes := dstWrites d .pair 1 [r64 0] }) ∧
    Does (.uprd d a sw) (fun v _ => lowerEntry v.p a.name = (l, ok)) (fun _ s => s) (fun v _ =>
      { writes := dstWrites d .one v.p.em ((List.range v.p.width).map fun k => r32 (l.at k)) ++ [⟨.q 7, 1, [if ok then 0 else 1]⟩] }) ∧
    (∀ (p : Ply) (n : Fin 8) (e : OEntry), p.oBelow[n.val]? = some e →
      lowerEntry p (.o n) = if e.valid && e.live then (e.vals, true) else ([], false)) ∧
    (∀ n : Fin 8, Does (.upwr (.o n) a sw) (fun _ _ => True)
      (fun v s => s.modPly v.key fun p => p.setOBelow (p.oBelow.modify n.val fun e => e.write p.width v.p.em
        ((List.range v.p.width).map fun k => (v.w 0 k).setWidth 64))) (fun _ _ => {})) ∧
    ∀ (s : State) (core part key : Nat) (p : Ply), (s.part (core * 4 + part)).vacq.head? = some key → s.plies.get? key = some p →
      (s.part (core * 4 + part)).extUnits + units p.width ≤ 32 →
      exec (.vacqGrant core part) s = .next ((s.modPly key fun p => { p with ext := true }).modPart p.partKey fun pt => { pt with
        extUnits := pt.extUnits + units p.width, vacq := pt.vacq.erase key })

/-- R351, R435, R439 to R441: RDSR gives the register its index names and WRSR writes it under its field rules, in the ply, the context
or the energy registers of the core, and nothing else of the three; the ply issues two cycles later. -/
def Obligations.SystemRegistersComplete : Prop :=
  ∀ (d : Name) (a : Src) (sw : Bool),
    let rd (n : BitVec 8) (x : Env → State → DWord) : Prop := Does (.rdsr d n sw) (fun _ _ => True) (fun _ s => s)
      (fun v s => { writes := dstWrites d .pair 1 [r64 (x v s)] })
    let tr (n : BitVec 8) (r : Ply → TrapRegs) : Prop := rd n (fun v _ => (r v.p).xpc) ∧ rd (n + 1) (fun v _ => (r v.p).xcause) ∧
      rd (n + 2) (fun v _ => (r v.p).xval) ∧ rd (n + 3) (fun v _ => (r v.p).xem) ∧ rd (n + 4) (fun v _ => (r v.p).xstat) ∧
      rd (n + 5) (fun v _ => (r v.p).xscr)
    let plyHas (n : BitVec 8) (f : Ply → DWord → Ply) : Prop := ∀ p x, Ply.sysWrite p n.toNat x = f p x
    let ctxHas (n : BitVec 8) (f : Ctx → DWord → Ctx) : Prop := ∀ c x, Ctx.sysWrite c n.toNat x = f c x
    rd 0 (fun v _ => v.p.stat) ∧ rd 1 (fun v _ => v.p.em) ∧ rd 2 (fun v _ => v.p.frm) ∧ rd 3 (fun v _ => BitVec.ofNat 64 v.p.tl) ∧
    rd 4 (fun v s => BitVec.ofNat 64 (if recDet (s.launchRec v.p) then v.p.retired else v.t)) ∧
    rd 5 (fun v s => BitVec.ofNat 64 (if recDet (s.launchRec v.p) then (s.ctx v.p.ctx).quantum else s.tick)) ∧
    rd 6 (fun v s => (s.ctx v.p.ctx).trapcfg) ∧ rd 7 (fun v s => (s.ctx v.p.ctx).xvec) ∧ rd 8 (fun v s => (s.ctx v.p.ctx).watchen) ∧
    rd 9 (fun v s => (s.ctx v.p.ctx).wdog) ∧ rd 0x0A (fun v s => (s.ctx v.p.ctx).detq) ∧
    rd 0x0B (fun v s => (energyOf s v.p.core v.p.ctx).1) ∧ rd 0x0C (fun v s => (energyOf s v.p.core v.p.ctx).2.1) ∧
    rd 0x0D (fun v s => (energyOf s v.p.core v.p.ctx).2.2) ∧ rd 0x10 (fun v s => (s.ctx v.p.ctx).uivec) ∧
    (∀ k, Does (.rdsr d 0x0E sw) (fun v s => s.skein? v.p = some k) (fun _ s => s) (fun _ _ => { writes := dstWrites d .pair 1 [r64 k.save] })) ∧
    rd 0x11 (fun v _ => v.p.uipc) ∧ rd 0x12 (fun v _ => v.p.uiem) ∧ rd 0x13 (fun v _ => v.p.uist) ∧ tr 0x20 (·.tr1) ∧ tr 0x28 (·.tr2) ∧
    (∀ n, Does (.wrsr a n sw) (fun _ _ => True) (fun v s => sysWrite s v.key v.p n.toNat (v.dw 0 0)) (fun _ _ => { after := 2 })) ∧
    (∀ s key p n x, s.plies.get? key = some p →
      let t := sysWrite s key p n x
      t.plies.get? key = some (p.sysWrite n x) ∧ (∀ k, k ≠ key → t.plies.get? k = s.plies.get? k) ∧
      (∀ c, s.ctxs.get? p.ctx = some c → t.ctxs.get? p.ctx = some (c.sysWrite n x)) ∧
      (∀ k, k ≠ p.ctx → t.ctxs.get? k = s.ctxs.get? k) ∧ t.mem = s.mem ∧
      (n = 0x0B → (energyOf t p.core p.ctx).1 = x &&& 0xFFFFFFFF) ∧
      (n = 0x0C → (energyOf t p.core p.ctx).2.1 = x &&& 0xFFFF) ∧
      (n = 0x0D → (energyOf t p.core p.ctx).2.2 = x &&& 0xFFFFFFFF)) ∧
    plyHas 0 (fun p x => { p with stat := x &&& 0x31F }) ∧
    plyHas 1 (fun p x => { p with em := x &&& p.tlive &&& BitVec.ofNat 64 (2 ^ p.width - 1) }) ∧
    plyHas 2 (fun p x => { p with frm := frmWrite p.frm x }) ∧ plyHas 3 (fun p _ => p) ∧
    plyHas 0x11 (fun p x => { p with uipc := x &&& ~~~1 }) ∧ plyHas 0x12 (fun p x => { p with uiem := x }) ∧
    plyHas 0x20 (fun p x => { p with tr1 := { p.tr1 with xpc := x &&& ~~~1 } }) ∧
    plyHas 0x21 (fun p x => { p with tr1 := { p.tr1 with xcause := x &&& 0xFF } }) ∧
    plyHas 0x22 (fun p x => { p with tr1 := { p.tr1 with xval := x } }) ∧ plyHas 0x23 (fun p x => { p with tr1 := { p.tr1 with xem := x } }) ∧
    plyHas 0x24 (fun p _ => p) ∧ plyHas 0x25 (fun p x => { p with tr1 := { p.tr1 with xscr := x } }) ∧
    plyHas 0x28 (fun p x => { p with tr2 := { p.tr2 with xpc := x &&& ~~~1 } }) ∧ plyHas 0x2C (fun p _ => p) ∧
    plyHas 0x2D (fun p x => { p with tr2 := { p.tr2 with xscr := x } }) ∧
    ctxHas 0 (fun c _ => c) ∧ ctxHas 6 (fun c x => { c with trapcfg := x &&& 1 }) ∧ ctxHas 7 (fun c x => { c with xvec := x &&& ~~~0x7FF }) ∧
    ctxHas 8 (fun c x => { c with watchen := x &&& 1 }) ∧ ctxHas 9 (fun c x => { c with wdog := x &&& 0xFFFFFFFF }) ∧
    ctxHas 0x10 (fun c x => { c with uivec := x &&& ~~~1 }) ∧
    ∀ (c : Ctx) (x : DWord), let q := x.toNat % 2 ^ 17
      Ctx.sysWrite c 0x0A x = if q = 0 ∨ 256 ≤ q ∧ q ≤ 65536 then { c with detq := x &&& 0x1FFFF } else c

/-- R249, R432 to R444: a trap at TL0 or TL1 with everything landed and a bank free enters the handler: the return address, cause, value,
EM and the interrupted standing are saved in the registers of the new level, EM becomes TLIVE, the floor the stack depth, the latches
and the level's operand cache invalid, and the PC the vector. TRAP traps with its operand past the instruction, TRET restores, HALT
suspends the context. At TL2 the context is killed; what has asked for a trap takes it at a boundary. -/
def Obligations.TrapsEnterAndReturn : Prop :=
  (∀ (s : State) (key cause : Nat) (val rpc : DWord) (p : Ply) (c : Ctx),
    let b := if p.tl = 1 then 3 else 0
    let pt := s.part p.partKey
    let enters (p' : Ply) (t : State) : Prop := ∃ q, t.plies.get? key = some q ∧ q.tl = p.tl + 1 ∧
      q.pc = c.xvec + BitVec.ofNat 64 (64 * cause) ∧ q.em = p.tlive ∧ q.floor = p.stack.length ∧ q.stack = p.stack ∧ q.tlive = p.tlive ∧
      q.stat = p.stat ∧ q.frm = p.frm ∧ q.v = p'.v ∧ q.s = p'.s ∧ q.p = p'.p ∧ q.q = p'.q ∧ q.park = .none ∧ q.pend = [] ∧ q.out = [] ∧
      q.lx = Latch.off ∧ q.ly = Latch.off ∧ q.oNow = List.replicate 8 OEntry.invalid ∧
      (if p.tl = 0 then q.tr2 = p.tr2 else q.tr1 = p.tr1) ∧
      (let r := if p.tl = 0 then q.tr1 else q.tr2;
        r.xpc = rpc &&& ~~~1 ∧ r.xcause = BitVec.ofNat 64 cause ∧ r.xval = val ∧ r.xem = p.em ∧ r.xlx = p'.lx.vals ∧ r.xly = p'.ly.vals ∧
          r.xscr = (if p.tl = 0 then p.tr1 else p.tr2).xscr ∧
          r.xstat = BitVec.ofNat 64 (p.tl * 2 ^ 7) ||| BitVec.ofNat 64 (p'.ly.valid.toNat * 2 ^ 6) |||
            BitVec.ofNat 64 (p'.lx.valid.toNat * 2 ^ 5) ||| BitVec.ofNat 64 p.floor) ∧
      (t.part p.partKey).banks = pt.banks.set b (some key) ∧ (∀ k, k ≠ key → t.plies.get? k = s.plies.get? k) ∧ t.mem = s.mem
    s.plies.get? key = some p → s.ctxs.get? p.ctx = some c → c.xvec ≠ 0 → p.tl < 2 → (∀ l ∈ p.out, l.arrived = true) → p.strict = 0 →
    p.tiles = [] → pt.bankWait = [] → pt.banks.getD b (some 0) = none →
    enters p.landAll (takeTrap s key cause val rpc) ∧
    (p.park = .trap cause val rpc → ∃ t, exec (.trapEntry key) s = .next t ∧ enters p.landAll t)) ∧
  (∀ (s : State) (key cause : Nat) (val rpc : DWord) (p : Ply) (c : Ctx), s.plies.get? key = some p → s.ctxs.get? p.ctx = some c →
    p.tl = 2 → c.killed = false → ∃ r, r.length = 12 ∧ (r.drop 2).take 9 = [BitVec.ofNat 64 cause, rpc, val, p.tr2.xcause, p.tr2.xpc,
        p.tr2.xval, p.tr1.xcause, p.tr1.xpc, p.tr1.xval] ∧
      r.getD 11 0 = BitVec.ofNat 64 (if recDet (s.launchRec p) then c.quantum else s.tick) ∧
      let t := takeTrap s key cause val rpc
      t.ctxs.get? p.ctx = some { c with killed := true, killRec := some r } ∧
      ∀ k q, s.plies.get? k = some q → t.plies.get? k = some (if q.ctx = p.ctx then { q with frozen := true } else q)) ∧
  (∀ (a : Src) (sw : Bool) (s : State) (key : Nat) (p : Ply), Ready (.trap a sw) s key p →
    exec (.trap a sw) s = .next (takeTrap (baseOf (.trap a sw) s key p) key 0x11 ((envOf (.trap a sw) s key p).dw 0 0)
      (p.pc + BitVec.ofNat 64 (encode (.trap a sw)).size))) ∧
  (∀ (sw : Bool) (b : TrapBank) (rest : List TrapBank),
    let tr (p : Ply) : TrapRegs := if p.tl = 2 then p.tr2 else p.tr1
    Does (.tret sw) (fun v _ => v.p.banks = b :: rest)
      (fun v s => (s.modPly v.key fun p => { p with
        stack := p.stack.drop (p.stack.length - p.floor), pc := (tr p).xpc &&& ~~~1, em := (tr p).xem &&& p.tlive
        floor := (tr p).xstat.toNat % 2 ^ 5, lx := ⟨(tr p).xstat.getLsbD 5, (tr p).xlx⟩, ly := ⟨(tr p).xstat.getLsbD 6, (tr p).xly⟩
        lyNew := none, banks := rest, tl := p.tl - 1, nextAt := v.t + 2 }).modPart v.p.partKey fun pt => { pt with
          banks := pt.banks.set b.num none })
      (fun v _ => { target := some ((tr v.p).xpc &&& ~~~1), after := 2 }) ∧
    Does (.halt sw) (fun _ _ => True) (fun v s => s.modCtx v.p.ctx fun c => { c with suspended := true }) (fun _ _ => {})) ∧
  (∀ (s : State) (key : Nat) (p : Ply), s.plies.get? key = some p → p.frozen = false → p.park = .none →
    (p.wdog = true → exec (.trapEntry key) s =
      .next (takeTrap (s.setPly key { p with wdog := false, orphan := false }) key 0x0F 0 p.pc)) ∧
    (p.wdog = false → p.orphan = true → exec (.trapEntry key) s = .next (takeTrap (s.setPly key { p with orphan := false }) key 0x0E 0 p.pc)) ∧
    ∀ r, p.wdog = false → p.orphan = false → p.preempt = some r → p.tl = 0 →
      exec (.trapEntry key) s = .next (takeTrap (s.setPly key { p with preempt := none }) key 0x10 (BitVec.ofNat 64 r) p.pc)) ∧
  ∀ (s : State) (ctx : Nat) (c : Ctx) (w : List DWord), s.ctxs.get? ctx = some c → c.killRec = some w → c.word 12 &&& ~~~0x7F = 0 →
    (∀ x ∈ s.plies, x.2.ctx = ctx → x.2.strict = 0 ∧ x.2.overlapped = [] ∧ x.2.tiles = []) →
    ∃ t c', exec (.killRecordWrite ctx) s = .next t ∧ t.ctxs.get? ctx = some c' ∧ c'.killRec = none ∧ c'.killed = c.killed ∧
      (∀ x ∈ t.plies, x.2.ctx ≠ ctx) ∧ (∀ x ∈ t.skeins, x.2.ctx ≠ ctx) ∧ t.mem = s.mem ∧
      ∀ k l, s.launches.get? k = some l →
        let count := (l.lrec.getD 2 0).toNat / 2 ^ 32
        (l.ctx ≠ ctx ∨ l.st = .finished ∨ (∃ code, l.st = .refused code) → t.launches.get? k = some l) ∧
        (l.ctx = ctx → l.st ≠ .finished → (∀ code, l.st ≠ .refused code) → ∃ l', t.launches.get? k = some l' ∧ l'.st = .dealt ∧
          l'.killed = true ∧ l'.ended = count ∧ l'.nfail = l.nfail + (count - l.ended) ∧ l'.bound = none)

/-- R151, R380, R393, R445, R446, R448: CLASSQ lands what the class table says of a granule, FAULTREQ whether the page is at hand, is now asked
for, or cannot be, WAITF what became of the record, SPAWN the number of the record it appended
(image, then TAIL) or 0 when the queue is full, and traps where a device may not append; EVICT outside
TL1 or without a save area kills the context, and at TL1, with another ply of its skein still resident, it leaves its slot. The model's own choices
in it: log 38. -/
def Obligations.FaultRequestsAndEvictionComplete : Prop :=
  ∀ (d : Name) (a : Src) (n : BitVec 3) (sw : Bool) (k : Skein) (x : Target) (e : TlbEnt),
    let lands (y : Env → State → DWord) (more : List Write) : Env → State → Effect := fun v s =>
      { land := some ⟨s.uses, true, 0, dstWrites d .pair 1 [r64 (y v s)] ++ more⟩ }
    let page (v : Env) : Nat := (v.dw 0 0).toNat / 2 ^ 12 % 2 ^ 52
    let pasid (v : Env) (s : State) : Nat := (s.ctx v.p.ctx).pasid
    let bit (v : Env) (j : Nat) : Bool := (v.dw 0 0).getLsbD j
    let faultreq := Instr.faultreq d a sw
    let waitf := Instr.waitf d a sw
    let spawn := Instr.spawn d a n sw
    let evict := Instr.evict sw
    let answers (y : DWord) : Env → State → Effect := fun _ _ =>
      { writes := dstWrites d .pair 1 [r64 y] ++ [⟨.q 7, 1, [if y = 0 then 0 else 1]⟩] }
    let kills (v : Env) (s : State) : Prop := s.skein? v.p = some k ∧ (v.p.tl ≠ 1 ∨ k.save = 0)
    let base (v : Env) (s : State) : DWord := queueBase s v.p.ctx n.toNat
    let slot (v : Env) (h : QueueHdr) : DWord := h.ring + BitVec.ofNat 64 (128 * (h.tail % 2 ^ h.log2n))
    let open' (v : Env) (s : State) (va : DWord) (wr : Bool) : Prop := svcRefused s v.p.ctx v.p.lid va wr = false
    let hold (v : Env) (s : State) (h : QueueHdr) (w : Work) : Prop := v.stage = 1 ∧ v.p.work = some w ∧ w.use ≠ .lost ∧
      open' v s (base v s) true ∧ readQueue s v.p.ctx v.p.lid n.toNat = (some h, s)
    let taken (s : State) (ctx : Nat) : Nat := (s.lq ctx n.toNat).1
    let put (v : Env) (s : State) (va : DWord) (bytes : List Byte) : State :=
      let s := svcPut s v.p.ctx v.p.lid va bytes
      noteStore s v.p.core v.p.ctx (svcAttr s v.p.ctx v.p.lid va) va
    let append (v : Env) (s : State) (h : QueueHdr) (w : Work) : State :=
      put v (put v s (slot v h) ((w.got.map (·.2)).flatMap fun y => bytesOf 16 y.toNat)) (base v s) (bytesOf 8 (h.tail + 1))
    let block (v : Env) : DWord := k.save + BitVec.ofNat 64 (0x2000 + 1024 * v.p.plyid)
    Does (.classq d a sw) (fun v s => planAccess v s [(0, v.dw 0 0)] 1 true false false = .go [x] ∧
        tlbFind (s.core v.p.core).tlb (pasid v s) ((v.dw 0 0).toNat / 4096) = some e) (fun _ s => s.use)
      (lands (fun v s =>
        let g := granuleOf (e.loc + ((v.dw 0 0).toNat - e.vpage * 4096))
        let c := s.classes.getD g ClassEntry.zero
        BitVec.ofNat 64 (if c.cls = .unseen then 0 else if c.cls = .priv then 1 else if c.cls = .readonly then 2 else 3) |||
          BitVec.ofNat 64 (if c.wd = true ∨ g ∈ s.withdrawn then 4 else 0) |||
          BitVec.ofNat 64 (if c.cls = .priv ∧ c.owner = some (.ply v.key) then 8 else 0) ||| BitVec.ofNat 64 (c.mig * 2 ^ 4)) []) ∧
    Does faultreq (fun v s => tlbFind s.ats (pasid v s) (page v) = some e ∧ e.allows (bit v 0) (bit v 1) (bit v 2) = true) (fun _ s => s.use)
      (lands (fun _ _ => 1) []) ∧
    (∀ f : State → State,
      Does faultreq (fun v s => cachedFor s v.p.core (pasid v s) (page v) (bit v 0) (bit v 1) (bit v 2) = false ∧
          openRecord s v.p.core v.p.ctx (page v) (bit v 0) (bit v 1) (bit v 2) = some (f s)) (fun _ s => (f s).use)
        (fun _ s => { land := some ⟨(f s).uses, true, 0, dstWrites d .pair 1 [r64 0]⟩ })) ∧
    Does faultreq (fun v s => cachedFor s v.p.core (pasid v s) (page v) (bit v 0) (bit v 1) (bit v 2) = false ∧
        recordOf s (pasid v s) (page v) = none ∧ ∀ i < 4096, ∃ f ∈ s.faults, f.idx = i ∧ f.st ≠ .free) (fun _ s => s.use)
      (lands (fun _ _ => 2) []) ∧
    Does waitf (fun v _ => v.p.preempt.isSome = true) (fun _ s => s) (answers 2) ∧
    Does waitf (fun v _ => v.p.preempt = none ∧ v.stage = 1 ∧ v.p.verdict = .prot) (fun _ s => s) (answers 1) ∧
    Does waitf (fun v _ => v.p.preempt = none ∧ v.stage = 1 ∧ v.p.verdict ≠ .prot) (fun _ s => s) (answers 0) ∧
    Does waitf (fun v s => v.p.preempt = none ∧ v.stage ≠ 1 ∧ ∀ f ∈ s.faults, f.pasid ≠ pasid v s ∨ f.vpage ≠ page v) (fun _ s => s)
      (answers 3) ∧
    (∀ f, Waits waitf (fun v s => v.p.preempt = none ∧ v.stage ≠ 1 ∧ recordOf s (pasid v s) (page v) = some f ∧
      f.wait.getLsbD v.p.core = true) (fun _ s => s) (fun v _ => .record (page v)) (fun _ => 0)) ∧
    (∀ (h : QueueHdr) (w : Work),
      Does spawn (fun v s => hold v s h w ∧ 2 ^ h.log2n ≤ h.tail - taken s v.p.ctx)
        (fun v s => (s.modPly v.key fun p => { p with work := none }).use) (lands (fun _ _ => 0) [⟨.q 7, 1, [1]⟩]) ∧
      Does spawn (fun v s => hold v s h w ∧ h.tail - taken s v.p.ctx < 2 ^ h.log2n ∧ open' v s (slot v h) true ∧
          svcNeed s v.p.ctx v.p.lid true [(slot v h, 128), (base v s, 8)] = none)
        (fun v s => ((append v s h w).modPly v.key fun p => { p with work := none }).use)
        (fun v s => { land := some ⟨(append v s h w).uses, true, 0,
          dstWrites d .pair 1 [r64 (BitVec.ofNat 64 (h.tail + 1))] ++ [⟨.q 7, 1, [0]⟩]⟩ })) ∧
    (∀ h : QueueHdr, Traps spawn (fun v s => v.stage ≠ 1 ∧ (v.dw 0 0).toNat % 64 = 0 ∧ base v s ≠ 0 ∧ open' v s (base v s) false ∧
      readQueue s v.p.ctx v.p.lid n.toNat = (some h, s) ∧ h.devw = false) 0x0B (fun _ _ => BitVec.ofNat 64 n.toNat)) ∧
    Traps spawn (fun v _ => v.stage ≠ 1 ∧ (v.dw 0 0).toNat % 64 ≠ 0) 0x09 (fun v _ => v.dw 0 0) ∧
    Traps spawn (fun v s => v.stage ≠ 1 ∧ (v.dw 0 0).toNat % 64 = 0 ∧ queueBase s v.p.ctx n.toNat = 0) 0x0B
      (fun _ _ => BitVec.ofNat 64 n.toNat) ∧
    (∀ s key p, Ready evict s key p → kills (envOf evict s key p) (baseOf evict s key p) →
      exec evict s = .next (killContext (baseOf evict s key p) (envOf evict s key p).p 3 0 p.pc 0)) ∧
    ∀ s key p j, Ready evict s key p → s.skeins.get? p.skeinKey = some k → p.tl = 1 → k.save ≠ 0 → p.out = [] → p.overlapped = [] → p.strict = 0 →
      p.tileAt ≤ (envOf evict s key p).t → p.spinAt ≤ (envOf evict s key p).t → (∀ b, (s.spindle p.core p.part).opened = some b → b.owner ≠ key) →
      (∀ b, (s.spindle p.core p.part).drain = some b → b.owner ≠ key) →
      j < recNply k.lrec → j ≠ p.plyid → k.retired.getLsbD j = false → k.left.getLsbD j = false →
      svcReady (baseOf evict s key p) p.ctx p.lid (block (envOf evict s key p)) 1024 true = true → p.plyid < 32 →
      ∃ t k', exec evict s = .next t ∧ t.skeins.get? p.skeinKey = some k' ∧ k'.left = k.left ||| (1#32 <<< p.plyid) ∧ k'.retired = k.retired ∧
        (t.part p.partKey).current ≠ some key ∧ (∀ b ∈ (t.part p.partKey).banks, b ≠ some key) ∧
        (∀ q ≠ key, t.plies.get? q = s.plies.get? q)

/-- R32, R39, R40, R41, R150, R245: before an instruction reads anything, ILLEGAL, PRIV and REGPOOL are checked in this order, then it
waits for a strict access and for room among the eight results, and in debug mode takes the trap of a bad read; nothing of it is done. -/
def Obligations.IssueChecksInOrder : Prop :=
  ∀ (i : Instr) (s : State) (key : Nat) (p : Ply), encode i ≠ .none → s.cur = some key → s.plies.get? key = some p → p.held = none →
    let q := issuePly i s p
    let st : State := { s.setPly key q with cycle := issueAt i s p }
    let traps (cause : Nat) (val : DWord) : Prop := exec i s = .next (takeTrap st key cause val p.pc)
    let waits (c : Cond) : Prop := exec i s = .next (st.modPly key fun q => q.waitOn c 0 none)
    let legal : Prop := i.legal = true ∧ dynIllegal st q i = false
    let ready : Prop := legal ∧ levelOf i ≤ p.tl ∧ q.regpool i = none
    (¬ legal → traps 0x01 (encode i).value) ∧
    (legal → p.tl < levelOf i → traps 0x02 (encode i).value) ∧
    (∀ n, legal → levelOf i ≤ p.tl → q.regpool i = some n → traps 0x14 (BitVec.ofNat 64 n)) ∧
    (ready → afterStrict i = true → p.strict ≠ 0 → waits (.quiet false)) ∧
    (ready → (afterStrict i = true → p.strict = 0) → landsOf i = true → 8 ≤ p.out.length → waits .landRoom) ∧
    (∀ cause val, ready → (afterStrict i = true → p.strict = 0) → (landsOf i = true → p.out.length < 8) → st.debug q = true →
      (i.shape.thread = true → p.em ≠ 0) → q.debugTrap (issueAt i s p) i = some (cause, val) → traps cause val) ∧
    (exec i { s with cur := none } = .fault .noPly)

/-! ## Messages between cores and homes -/

/-- R96, R125, R129, R130, R133, R134, R139, R159, R181: a strict request at a home that has nothing else to do for the place is served at
once: the sectors asked for or the ownership go to where it came from, a write or atomic is performed and acknowledged, an update-only
holder or a monitor is noted; a write-back marks its sectors, or goes to the host when L2 does not hold a block of its memory, and a partial
that no collection waits for is combined; both return the write credit. Drain and probe answers are
counted off. The model's own choices
in it: log 9, log 29, log 74. -/
def Obligations.RequestsServedAtHomes : Prop :=
  (∀ (s : State) (f : ReqFlit) (a : Acc), Names s f a → HomeQuiet s a.loc f.grain →
    let g := grainBase s a.loc f.grain
    let c := partyCore f.owner
    let n := grainBytes a.loc (grainCode s a.loc f.grain)
    let span := sectorSpan (blockOf a.loc) f.sect
    let data := (List.range span.2).map fun j => s.readByte f.key (span.1 + j)
    let owns (t : State) : Prop := (t.dirOf g).st = .m ∧ (t.dirOf g).own = c % 32
    (∀ x, f.hdr.src = .core x → c / 32 = homeDie a.loc → Answers (.rd f) s f.hdr.src false data fun t =>
      (t.dirOf g).st = .s ∧ (t.dirOf g).shr.getLsbD (c % 32 / 2) = true) ∧
    (∀ x, f.hdr.src = .rdc x → Answers (.rd f) s f.hdr.src false data fun t => (t.dirOf g).hv = true ∧ (t.dirOf g).lp = 1) ∧
    Answers (.renew f) s f.hdr.src false data (fun t => (t.dirOf g).hv = true ∧ (t.dirOf g).lp = 1) ∧
    Answers (.rdo f) s f.hdr.src true data owns ∧ (f.sect ≠ 0 → Answers (.upg f) s f.hdr.src true data owns) ∧
    (f.sect = 0 → (∀ m ∈ s.mons, m.2.1 + m.2.2 ≤ g ∨ g + n ≤ m.2.1) → Answers (.upg f) s f.hdr.src true []
      fun t => (t.dirOf g).st = .u ∧ (c < 128 → (t.dirOf g).uoh.getLsbD (c / 2) = true)) ∧
    ∀ k p, f.owner = .ply k → s.plies.get? k = some p → Answers (.arm f) s f.hdr.src false data fun t =>
      (∃ n, (k, g, n) ∈ t.mons) ∧ t.plies.get? k = some { p with mon := ⟨.armed, a.loc⟩ }) ∧
  (∀ (s : State) (f : DataFlit), HomeQuiet s f.loc f.grain → f.strict = true → (∀ n, f.hdr.src ≠ .slice n) →
    (∀ t, transOf s f.owner f.hdr = some t → t.acc.attr.repl = false) →
    ∃ t a m, exec (.wr f) s = .next t ∧ t.mem = (s.putBytes f.key f.loc f.bytes).mem ∧ t.keyed = (s.putBytes f.key f.loc f.bytes).keyed ∧
      Sends s t (.ack a) ∧ a.hdr.dst = .core (partyCore f.owner) ∧ a.hdr.tag = f.hdr.tag ∧ a.arg = .classAnswer true 3 m (granuleOf f.loc) ∧
      t.txns = []) ∧
  (∀ (s : State) (f : AtomFlit), HomeQuiet s f.loc f.grain → f.strict = true →
    (∀ t, transOf s f.owner f.hdr = some t → t.acc.attr.repl = false) →
    let n := if f.op = 1 ∨ f.op = 12 ∨ f.op = 14 then 8 else 4
    let old := BitVec.ofNat 64 (s.readLoc f.key f.loc n)
    let put := s.putBytes f.key f.loc (bytesOf n (atomNew f.op.toNat old f.a f.c).toNat)
    ∃ t a m, exec (.atomq f) s = .next t ∧ t.mem = put.mem ∧ t.keyed = put.keyed ∧ Sends s t (.ack a) ∧
      a.hdr.dst = .core (partyCore f.owner) ∧ a.arg = .classAnswer true 3 m (granuleOf f.loc) ∧ t.txns = [] ∧
      (f.quiet = false → ∃ d, Sends s t (.atomr d) ∧ d.hdr.dst = f.hdr.src ∧ d.old = old ∧ d.stat = .done)) ∧
  (∀ (s : State) (f : DataFlit), s.txns = [] →
    let tag (e : TagEntry) : TagEntry :=
      if e.key = f.key then { e with sv := e.sv ||| f.sect, sd := e.sd ||| f.sect } else { e with key := f.key, sv := f.sect, sd := f.sect }
    let marked (e : TagEntry) : State := { s with tags := s.tags.set (blockOf f.loc) (tag e) }
    let credit (t : State) (c : Nat) : State :=
      t.send (.ack ⟨⟨noTag, f.hdr.ten, f.hdr.cls, f.hdr.dst, .core c⟩, .classAnswer true 0 false (granuleOf f.loc)⟩)
    (∀ c e, f.hdr.src = .core c → s.tags.get? (blockOf f.loc) = some e → exec (.wb f) s = .next (credit (marked e) c)) ∧
    (∀ c, f.hdr.src = .core c → s.tags.get? (blockOf f.loc) = none → tierOf (blockOf f.loc) ≠ 2 → exec (.wb f) s = .next (credit s c)) ∧
    ∀ c, f.hdr.src = .core c → s.tags.get? (blockOf f.loc) = none → tierOf (blockOf f.loc) = 2 →
      ∃ t, exec (.wb f) s = .next t ∧ ∀ i < 8, f.sect.getLsbD (2 * i) = true → .dirtyEvict (blockOf f.loc + 64 * i)
        ((List.range 64).map fun j => s.mem.read (blockOf f.loc + 64 * i + j)) ∈ t.hostOut) ∧
  (∀ (s : State) (f : PartialFlit) (w k : Nat) (op : BitVec 4) (x : DWord) (e : DirEntry), s.txns = [] → f.parts = [(w, op, x)] → f.core < 128 →
    s.dir.get? (grainBase s f.loc 1) = some e → e.ukey = k → s.sliceHold.get? (homeSlice f.loc) = none →
    let n := if op = 1 ∨ op = 12 ∨ op = 14 then 8 else 4
    let put := s.putBytes k w (bytesOf n (atomNew op.toNat (BitVec.ofNat 64 (s.readLoc k w n)) x 0).toNat)
    ∃ t, exec (.redp f) s = .next t ∧ t.mem = put.mem ∧ t.keyed = put.keyed) ∧
  ∀ (s : State) (x : Txn) (c c' : Nat), s.txns = [x] → x.owed = [c, c'] → c ≠ c' →
    (∀ f : DrainAck, f.hdr.src = .core c → x.stage = .drains → x.gran = f.loc → exec (.drainack f) s =
      .next { s with txns := [{ x with owed := [c'], clean := x.clean && !f.wrote }] }) ∧
    ∀ (f : AckFlit) (b : Nat) (y : Bool) (n : Nat), f.hdr.src = .core c → f.hdr.dst = .slice n → x.stage = .probes →
      f.arg = .probeAnswer b y x.grain → exec (.ack f) s = .next { s with txns := [{ x with owed := [c'] }] }

/-- R97, R98, R100, R126, R128, R146, R148, R151, R159, R181: at a core, an answer ends the access it names and its value reaches the ply, whose
result lands with the last of them; a class answer enters the class cache; INV and DOWN take the grain from the L1 with what it holds going
home and are answered; DRAIN removes the class entry and says, once no overlapped access to the granule is outstanding, whether it was
written; and WAKE wakes the armed monitors of the block. The model's own choices
in it: log 9, log 74, log 82. -/
def Obligations.AnswersReachCores : Prop :=
  (∀ (s : State) (key tag : Nat) (p : Ply) (w : Work) (x : Trans), s.plies.get? key = some p → p.core = key / 512 → p.work = some w →
    w.todo = [] → w.tag = x.wtag → x.who = .ply key → (s.core p.core).trans.Sorted → (s.core p.core).trans.get? tag = some x →
    (∀ y ∈ (s.core p.core).trans, y.2.who = .ply key → y.2.strict = true → y.2.reply = true → y.1 = tag) →
    let w' (v : QWord) : Work := { w with await := w.await - 1, got := w.got ++ [(x.acc.thread, v)] }
    let after (v : QWord) : Ply := settleWork { p with work := some (w' v), strict := 0 } (w' v)
    let done (v : QWord) (t : State) : Prop := t.plies.get? key = some (after v) ∧ t.mem = s.mem ∧ t.keyed = s.keyed
    (∀ f : DataFlit, f.hdr.tag = tag → f.owner = x.who → f.stat = .done → x.acc.kind = .load → ∃ t, exec (.rdata f) s = .next t ∧
      done (BitVec.ofNat 128 (valueOf ((f.bytes.drop (x.acc.loc % 512 - f.loc % 512)).take x.acc.bytes))) t) ∧
    (∀ f : AtomFlit, f.hdr.tag = tag → f.owner = x.who → f.stat = .done → ∃ t, exec (.atomr f) s = .next t ∧ done (f.old.setWidth 128) t) ∧
    (∀ (f : AckFlit) (gran : Nat) (cls : BitVec 2), f.hdr.tag = tag → f.hdr.dst = .core p.core → f.arg = .classAnswer true cls false gran →
      x.byAck = true → x.reply = true → ∃ t, exec (.ack f) s = .next t ∧ done 0 t) ∧
    (w.use.kept = false → w.await = 1 → ∀ v, (after v).work = none ∧ (after v).overlapped = p.overlapped ∧ ∀ l ∈ p.out, l.tag = w.tag → l.arrived = false →
      w.use ≠ .discard → { l with arrived := true, writes := landWrites (w' v) p.width } ∈ (after v).out)) ∧
  (∀ (s : State) (f : AckFlit) (c gran : Nat) (cls : BitVec 2) (x : Trans), f.hdr.dst = .core c → cls ≠ 0 →
    f.arg = .classAnswer false cls false gran → (s.core c).trans.get? f.hdr.tag = some x → x.drained = false → x.byAck = false →
    ∃ t l, exec (.ack f) s = .next t ∧ (t.core c).cls.get? gran = some l ∧
      l.cls = (if cls = 1 then .priv else if cls = 2 then .readonly else .shared) ∧ l.owner = (if cls = 1 then some x.who else none) ∧
      t.plies = s.plies ∧ t.mem = s.mem) ∧
  (∀ (s : State) (f : ProbeFlit) (c : Nat), f.hdr.dst = .core c → (s.core c).l1.Sorted → (s.core c).cls.Sorted →
    let blk := blockOf f.loc
    let sect := sectorsOf f.loc (grainBytes f.loc f.grain)
    let inGrain (a : Nat) : Bool := decide (f.loc ≤ a ∧ a < f.loc + grainBytes f.loc f.grain)
    let answered (t : State) : Prop := (∃ a b, Sends s t (.ack a) ∧ a.hdr.dst = f.hdr.src ∧ a.arg = .probeAnswer f.aslot b f.loc) ∧
      t.mem = s.mem ∧ t.plies = s.plies
    let back (l : L1Line) (t : State) : Prop := l.sd &&& sect ≠ 0 → ∃ d, Sends s t (.wb d) ∧ d.hdr.dst = f.hdr.src ∧ d.sect = l.sd &&& sect ∧
      d.key = l.key
    let others (t : State) : Prop := ∀ b, b ≠ blk → (t.core c).l1.get? b = (s.core c).l1.get? b
    (∃ t, exec (.inv f) s = .next t ∧ answered t ∧ others t ∧ (∀ l, (s.core c).l1.get? blk = some l → back l t ∧ (t.core c).l1.get? blk =
        if l.sv &&& ~~~sect = 0 then none
        else some { l with sv := l.sv &&& ~~~sect, sd := l.sd &&& ~~~sect, own := l.own &&& ~~~sect }) ∧
      (t.core c).partials = (s.core c).partials.filter (fun a _ => !inGrain a) ∧ (t.core c).ugrains = (s.core c).ugrains.erase f.loc ∧
      ∀ a y, (a, y) ∈ (s.core c).partials → inGrain a = true → ∃ r, Sends s t (.redp r) ∧ (a, y.op, y.val) ∈ r.parts) ∧
    (∃ t, exec (.down f) s = .next t ∧ answered t ∧ others t ∧
      (∀ l, (s.core c).l1.get? blk = some l → l.sv ≠ 0 → back l t ∧
        (t.core c).l1.get? blk = some { l with sd := l.sd &&& ~~~sect, own := l.own &&& ~~~sect }) ∧
      (t.core c).partials = (s.core c).partials) ∧
    (∃ t, exec (.drain f) s = .next t ∧ (t.core c).cls.get? f.loc = none ∧ (∀ g, g ≠ f.loc → (t.core c).cls.get? g = (s.core c).cls.get? g) ∧
      t.mem = s.mem ∧ t.plies = s.plies ∧
      ((∀ x ∈ (s.core c).trans, x.2.strict = true ∨ x.2.reply = false ∨ x.2.acc.kind = .pref ∨ granuleOf x.2.acc.loc ≠ f.loc) →
        ∃ a, Sends s t (.drainack a) ∧ a.hdr.dst = f.hdr.src ∧ a.loc = f.loc ∧
          (∀ l, (s.core c).cls.get? f.loc = some l → a.wrote = l.sbit) ∧ ((s.core c).cls.get? f.loc = none → a.wrote = true))) ∧
    ∃ t, exec (.wake f) s = .next t ∧ ∀ k p, s.plies.get? k = some p → t.plies.get? k = some
      (if p.core = c ∧ p.mon.st = .armed ∧ p.mon.loc / 512 = f.loc / 512 ∧ (∀ m ∈ s.mons, m.1 ≠ p.key) then
        { p with mon := ⟨.woken, p.mon.loc⟩ } else p))

/-! ## Translation, donation, trees -/

/-- R71 to R86: a miss becomes a request to the host or joins the one under way, its completion enters the ATS cache and goes to the cores
that asked, or, when an invalidation has overtaken the request, it is asked again; the cores that wait on the die take it and their plies
try again; records of the fault buffer are sent, answered and woken; an invalidation removes what it names, level by level,
and completes when nothing uses the old translation. The model's own choices
in it: log 21, log 72. -/
def Obligations.TranslationsComplete : Prop :=
  (∀ (s : State) (f : AtsFlit) (c : Nat), f.hdr.src = .core c → tlbFind s.ats f.pasid f.vpage = none →
    let port := s.livePort (s.ctx f.ctx).port
    ((∀ m ∈ s.misses, (m.pasid ≠ f.pasid ∨ m.vpage ≠ f.vpage) ∧ m.sent = true) → s.misses.length < 4096 →
      (s.misses.filter (·.onPort s port)).length < 1024 → exec (.atsreq f) s = .next { s with
        misses := s.misses ++ [⟨f.pasid, f.vpage, f.ctx, f.exec, [c], true, [], false, false⟩]
        hostOut := s.hostOut ++ [.atsRequest port f.pasid f.vpage f.exec] }) ∧
    (∀ m, s.misses = [m] → m.pasid = f.pasid → m.vpage = f.vpage → m.retrans = false → m.full = false →
      exec (.atsreq f) s = .next { s with misses := [{ m with cores := if c ∈ m.cores then m.cores else m.cores ++ [c] }] })) ∧
  (∀ (s : State) (f : AtsFlit) (c : Nat) (e : TlbEnt), f.hdr.src = .core c → tlbFind s.ats f.pasid f.vpage = some e →
    ∃ t a, exec (.atsreq f) s = .next t ∧ Sends s t (.atsrsp a) ∧ a.hdr.dst = .core c ∧ a.pasid = f.pasid ∧ a.vpage = f.vpage ∧
      t.mem = s.mem) ∧
  (∀ (s : State) (x : AtsCompletion) (m : AtsMiss), s.misses = [m] → m.pasid = x.pasid → m.vpage = x.vpage → m.sent = true →
    m.retrans = false → m.full = false →
    (m.late = [] → (x.r = true ∨ x.w = true) →
      ∃ t, exec (.atsTranslationCompletion x) s = .next t ∧ tlbFind t.ats x.pasid x.vpage = some (s.entryOf x) ∧
        (x.r = true → x.w = true → t.misses = []) ∧ t.mem = s.mem ∧
        ∀ c ∈ m.cores, ∃ a, Sends s t (.atsrsp a) ∧ a.hdr.dst = .core c ∧ a.pasid = x.pasid ∧ a.vpage = x.vpage) ∧
    ((∃ y ∈ m.late, y.1 ≤ m.vpage ∧ m.vpage < y.1 + 2 ^ y.2) → exec (.atsTranslationCompletion x) s = .next { s with
      misses := [{ m with late := [] }]
      hostOut := s.hostOut ++ [.atsRequest (s.livePort (s.ctx m.ctx).port) m.pasid m.vpage m.exec] })) ∧
  (∀ (s : State) (f : AtsReply) (c : Nat) (e : TlbEnt) (l : List Nat), f.hdr.dst = .core c → tlbFind s.ats f.pasid f.vpage = some e →
    s.dieMisses.Sorted → (s.dieMisses.get? (c / 32) = none ∧ l = [c] ∨
      ∃ m, s.dieMisses.get? (c / 32) = some [m] ∧ m.pasid = f.pasid ∧ m.vpage = f.vpage ∧ l = m.cores) →
    ∃ t, exec (.atsrsp f) s = .next t ∧ t.mem = s.mem ∧ t.dieMisses.get? (c / 32) = none ∧ ∀ c' ∈ l,
      let has (b : List TlbEnt) : Prop := ∃ e', tlbFind b f.pasid f.vpage = some e' ∧ { e' with launch := e.launch, attrs := e.attrs } = e
      has (t.core c').tlb ∧ has (t.dieTlbs.getD (c' / 32) []) ∧
      ∀ k p r w x, s.plies.get? k = some p → p.core = c' → (s.ctx p.ctx).pasid = f.pasid → p.park = .wait (.page f.vpage r w x false) →
        t.plies.get? k = some { p with park := .none, waited := some (f.vpage, x) }) ∧
  (∀ (s : State) (r : FRec), s.faults = [r] → r.st = .gather → s.fbcfg.getLsbD 16 = true → 1 ≤ s.prgAlloc →
    (s.fbcfg.toNat % 256 + 1) * 100 ≤ s.tick - r.tfirst →
    let port := s.livePort r.port
    ∃ t, exec .faultBatchClose s = .next t ∧ t.faults = [{ r with st := .sent, prgi := 0, port := port }] ∧
      t.hostOut = s.hostOut ++ [.pageRequest port r.pasid r.vpage 0 r.r r.w r.x true] ∧ t.mem = s.mem) ∧
  (∀ (s : State) (r : FRec) (code : BitVec 4), s.faults = [r] → r.st = .sent →
    (code = 0 → s.misses = [] → ∃ t r', exec (.prgResponse r.port r.prgi code) s = .next t ∧ t.faults = [r'] ∧ r'.st = .retrans ∧
      t.hostOut = s.hostOut ++ [.atsRequest (s.livePort (s.ctx r.ctx).port) r.pasid r.vpage r.x] ∧
      t.ats = s.ats.filter fun e => !e.meets r.pasid r.vpage 0) ∧
    (code ≠ 0 → ∃ t, exec (.prgResponse r.port r.prgi code) s = .next t ∧
      t.faults = [{ r with st := .wake, refused := true, resp := code.toNat, rv := true, tresp := s.tick }] ∧
      t.fbcfg = (if code = 15 then s.fbcfg &&& ~~~0x10000 else s.fbcfg))) ∧
  (∀ (s : State) (r : FRec), s.faults = [r] → r.st = .wake → (∀ m ∈ s.misses, m.full = false) →
    (wakeRecord s r).faults = [{ r with st := .free }] ∧ ∀ c < 128, r.wait.getLsbD c = true →
      ∃ a, Sends s (wakeRecord s r) (.fbwake a) ∧ a.hdr.dst = .core c ∧ a.ctx = r.ctx ∧ a.vpage = r.vpage ∧ a.refused = r.refused) ∧
  (∀ (s : State) (f : FbWake) (c k : Nat) (p : Ply), f.hdr.dst = .core c → s.plies.get? k = some p → p.core = c →
    (s.ctx p.ctx).pasid = (s.ctx f.ctx).pasid → ∃ t, exec (.fbwake f) s = .next t ∧ t.mem = s.mem ∧
    let v : Verdict := if f.refused then .prot else .retry
    (∀ r w x h, p.park = .wait (.page f.vpage r w x h) → t.plies.get? k = some { p with
      park := .none, waited := some (f.vpage, x), verdict := if f.refused then .prot else p.verdict }) ∧
    (p.park = .wait (.record f.vpage) → t.plies.get? k = some { p with park := .none, stage := 1, verdict := v })) ∧
  (∀ (s : State) (pasid vpage n : Nat), ∃ t, exec (.atsInvalidateRequest pasid vpage n) s = .next t ∧
    t.ats = s.ats.filter (fun e => !e.meets pasid vpage n) ∧ t.invals = s.invals ++ [(pasid, vpage, n)] ∧ t.mem = s.mem ∧
    (t.misses = s.misses.map fun m => if m.pasid = pasid ∧ m.sent = true then { m with late := m.late ++ [(vpage, n)] } else m) ∧
    ∀ x ∈ s.ctxs, x.2.pasid = pasid → ∀ c ∈ s.cores, ∃ a, Sends s t (.tlbinv a) ∧ a.hdr.dst = .core c.1 ∧ a.ctx = x.1 ∧ a.vpage = vpage ∧
      a.log2Pages = n) ∧
  (∀ (s : State) (f : TlbInv) (c : Nat), f.hdr.dst = .core c → ∃ t, exec (.tlbinv f) s = .next t ∧
    (t.core c).tlb = (s.core c).tlb.filter (fun e => !e.meets (s.ctx f.ctx).pasid f.vpage f.log2Pages) ∧
    ∀ k, k ≠ c → t.core k = s.core k) ∧
  (∀ (s : State) (pasid vpage n : Nat), s.invals = [(pasid, vpage, n)] → invalBusy s pasid vpage n = false →
    exec (.invalidateCompletion pasid vpage) s = .next { s with invals := [], hostOut := s.hostOut ++ [.invalComplete pasid vpage] }) ∧
  ∀ (s : State) (x : DWord), exec (.fbcfgWrite x) s = .next { s with fbcfg := x &&& 0x100FF }

/-- R109 to R114, R127, R380: a victim gives half of its highest class, at most eight, from the tail, and the thief queues them in ascending skein index or
backs off after a full round; a router combines its two cores and the result comes down, NDOWN lands at the core or is missed, a flush takes the
cores that have not come as absent, and a root whose time has run out flushes every member. The model's own choices
in it: log 24, log 25. -/
def Obligations.DonationAndTreesComplete : Prop :=
  (∀ (s : State) (f : StealFlit) (c : Nat), f.hdr.dst = .core c →
    let l := donation s c
    ∃ t, exec (.steal f) s = .next t ∧ t.net = s.net ++ [.tcb ⟨⟨f.hdr.tag, f.hdr.ten, f.hdr.cls, .core c, f.hdr.src⟩, l⟩] ∧
      (t.hwOf c).queues = (s.hwOf c).queues.map fun q => q.filter fun x => decide (x ∉ l)) ∧
  (∀ (s : State) (c : Nat) (q0 q1 q2 q3 : List Tcb), (s.hwOf c).queues = [q0, q1, q2, q3] → (∀ x ∈ q3, donatable x = true) → q3 ≠ [] →
    donation s c = q3.drop (q3.length - min 8 (q3.length / 2))) ∧
  (∀ (s : State) (f : TcbFlit) (c : Nat), f.hdr.dst = .core c →
    (f.tcbs = [] → ∃ t, exec (.tcb f) s = .next t ∧ (t.hwOf c).steal.out = false ∧
      (t.hwOf c).steal.asked = (s.hwOf c).steal.asked + 1 ∧
      (t.hwOf c).steal.backoff = if (victims s c).length ≤ (s.hwOf c).steal.asked + 1 then some (s.mesh + 4096) else none) ∧
    (∀ x, f.tcbs = [x] → ∃ t, exec (.tcb f) s = .next t ∧
      (t.hwOf c).queues = (s.hwOf c).queues.modify x.pcls (fun q => q ++ [x]) ∧ (t.hwOf c).steal.backoff = none) ∧
    ∀ x y, f.tcbs = [x, y] → x.pcls = y.pcls → ∃ t, exec (.tcb f) s = .next t ∧
      (t.hwOf c).queues = (s.hwOf c).queues.modify x.pcls (fun q => q ++ if x.skein ≤ y.skein then [x, y] else [y, x])) ∧
  (∀ (s : State) (c : Nat) (h : CoreHw) (n : Nat), s.hw.get? c = some h → h.steal.backoff = some n → n ≤ s.mesh →
    ∃ t, exec (.stealBackoffExpiry c) s = .next t ∧ t.hw.get? c = some { h with steal := { h.steal with asked := 0, backoff := none } } ∧
      t.plies = s.plies ∧ t.mem = s.mem) ∧
  (∀ (s : State) (f : TreeFlit) (m : Nat) (x : Tree) (v : List Word) (k : BitVec 128), f.hdr.dst = .router m → s.trees.get? f.slot = some x →
    treeIn x.words m = true → treeParent x.words m = 7 → treeInputs x.words m = [0, 1] → f.input = 1 →
    (s.node f.slot m).got = [(0, f.round, v, k)] → (s.node f.slot m).round = f.round → (s.node f.slot m).sent = false →
    ∃ t a b, exec (.nup f) s = .next t ∧ t.net = s.net ++ [.ndown a, .ndown b] ∧ a.hdr.dst = .core (routerCore m 0) ∧
      b.hdr.dst = .core (routerCore m 1) ∧ a.vals = List.zipWith (treeComb (treeOp x.words)) v f.vals ∧ b.vals = a.vals ∧
      a.mask = k ||| f.mask ∧ b.mask = a.mask ∧ (t.node f.slot m).round = (f.round + 1) % 2 ^ 16 ∧ t.mem = s.mem) ∧
  (∀ (x y : Word), treeComb 0 x y = BitVec.ofNat 32 (fAddRne .f32 x.toNat y.toNat) ∧ treeComb 1 x y = x + y ∧
    treeComb 2 x y = BitVec.ofNat 32 (fMinMax false x.toNat y.toNat) ∧ treeComb 3 x y = BitVec.ofNat 32 (fMinMax true x.toNat y.toNat) ∧
    treeComb 4 x y = BitVec.ofInt 32 (min x.toInt y.toInt) ∧ treeComb 5 x y = BitVec.ofInt 32 (max x.toInt y.toInt)) ∧
  (∀ (s : State) (f : TreeFlit) (c round key : Nat) (missed : Bool) (x : Tree) (p : Ply), f.hdr.dst = .core c → s.trees.get? f.slot = some x →
    (s.coreTree c f.slot = (round, missed, none) → ∃ t, exec (.ndown f) s = .next t ∧
      t.coreTree c f.slot = ((round + 1) % 2 ^ 16, true, none) ∧ t.plies = s.plies) ∧
    (s.coreTree c f.slot = (round, missed, some key) → s.plies.get? key = some p → ∃ t, exec (.ndown f) s = .next t ∧
      t.coreTree c f.slot = (round, missed, none) ∧ t.plies.get? key = some { p with
        out := p.out.map (fun l => if l.tag = 2 ^ 60 + f.slot ∧ l.arrived = false then
          { l with arrived := true, writes := l.writes.map (fun w => treeFill w.mask p.width f.vals f.mask (treeMask x.words) w) } else l) })) ∧
  (∀ (s : State) (f : TreeProbe) (m : Nat) (x : Tree), f.hdr.dst = .router m → s.trees.get? f.slot = some x → treeIn x.words m = true →
    treeParent x.words m = 7 → treeInputs x.words m = [0] → (s.node f.slot m).got = [] → (s.node f.slot m).round = f.round →
    (s.node f.slot m).sent = false → ∃ t a, exec (.nflush f) s = .next t ∧ t.net = s.net ++ [.ndown a] ∧
      a.hdr.dst = .core (routerCore m 0) ∧ a.mask = 0 ∧
      a.vals = List.replicate (8 * 2 ^ ((x.words.getD 0 0).toNat / 2 ^ 16 % 4)) (treeIdent (treeOp x.words))) ∧
  (∀ (s : State) (slot r n : Nat) (x : Tree), s.trees.get? slot = some x → x.started = some (r, n) → treeTmo x.words ≠ 0 →
    n + treeTmo x.words ≤ s.tick → x.det = false → ∃ t, exec (.treeTimeout slot) s = .next t ∧
    ∀ m < 64, treeIn x.words m = true → ∃ a, Sends s t (.nflush a) ∧ a.hdr.dst = .router m ∧ a.slot = slot ∧ a.round = r) ∧
  ∀ (s : State) (f : TreeProbe), exec (.answer f) s = .next s

/-! ## Launches -/

/-- R370 to R376, R378, R382, R383, R48, R168: a record is read, checked and accepted, its variant's trees installed, or refused
with its code; skeins go to the class
queues of the cores in turn, gangs start together or hold cores and ask for pre-emption; a skein that fits starts with the registers
of R48; after the last end the partials are collected and the class entries removed, and the launch completes with its record. The model's
own choices in it: log 23, log 70, log 87. -/
def Obligations.LaunchesProceed : Prop :=
  (∀ (s : State) (ctx q lid : Nat) (h : QueueHdr), accepts s ctx q = true → freeLid s ctx = some lid →
    readQueue s ctx lid q = (some h, s) → 4 ≤ h.log2n → h.log2n ≤ 12 → (s.lq ctx q).1 < h.tail →
    let seq := (s.lq ctx q).1 + 1
    let va := h.ring + BitVec.ofNat 64 (128 * ((s.lq ctx q).1 % 2 ^ h.log2n))
    let word := queueBase s ctx q + 8
    let r := svcWords s ctx lid va 16
    svcNeed s ctx lid false [(va, 128)] = none → svcNeed s ctx lid true [(word, 8)] = none →
    let put := svcPut s ctx lid word (bytesOf 8 seq)
    let taken (st : LaunchSt) (v : Variant) : State := { put with
      lqs := put.lqs.set (ctx * 8 + q) (seq, (put.lq ctx q).2)
      launches := put.launches.set (ctx * 64 + lid) (newLaunch put ctx lid q seq r st v) }
    let does (t : State) : Prop := exec (.launchAcceptance ctx q) s = .next t
    (∀ code, recordFault s ctx q seq r = some code → does (taken (.refused code) ⟨none, [], none⟩)) ∧
    (recordFault s ctx q seq r = none → recWord r 13 = 0 → does (taken .dealing ⟨none, [], none⟩)) ∧
    (∀ code, recordFault s ctx q seq r = none → selectVariant s ctx lid r = .refused code → does (taken (.refused code) ⟨none, [], none⟩)) ∧
    ∀ v l, recordFault s ctx q seq r = none → selectVariant s ctx lid r = .chosen v → v.trees = some l →
      does (installTrees (taken .dealing v) ctx (recDet r) l)) ∧
  (∀ (s : State) (ctx q seq : Nat) (r : List DWord),
    (recNskein r = 0 ∨ recNply r = 0 ∨ 32 < recNply r ∨ recTilemem r % 2048 ≠ 0 ∨ recWord r 15 ≠ 0 → recordFault s ctx q seq r = some 0x21) ∧
    (badFields r = false → neverFits r = false →
      (recDet r = false → (s.ctx ctx).detq.toNat % 2 ^ 17 ≠ 0 → recordFault s ctx q seq r = some 0x23) ∧
      (recDet r = false → (s.ctx ctx).detq = 0 → (∀ k < 4, (recWord r (8 + k)).getLsbD 63 = false) → recGang r ≠ 0 →
        recNskein r % recGang r ≠ 0 → recordFault s ctx q seq r = some 0x25))) ∧
  (∀ (s : State) (ctx lid : Nat) (l : Launch), s.launches.get? (ctx * 64 + lid) = some l → l.st = .dealing → depsMet s l = true →
    recDet l.lrec = false → recGang l.lrec = 0 → l.next < recNskein l.lrec → l.bound = none → s.cursor < 128 →
    let core := s.cursor % 4 * 32 + s.cursor / 4
    let cls := s.launchClass l.ctx l.lid
    s.alive core = true → queueLen s core cls < 64 → ∃ t, exec (.skeinDeal ctx lid) s = .next t ∧ t.cursor = (s.cursor + 1) % 128 ∧
      (t.hwOf core).queues = (s.hwOf core).queues.modify cls
        (fun q => q ++ [⟨l.ctx, l.lid, cls, false, false, recNskein l.lrec, l.next, none⟩]) ∧
      t.launches.get? (ctx * 64 + lid) = some { l with
        next := l.next + 1, st := if l.next + 1 = recNskein l.lrec then .dealt else .dealing } ∧ t.plies = s.plies ∧ t.mem = s.mem) ∧
  (∀ (s : State) (ctx lid : Nat) (l : Launch) (cores : List Nat), s.launches.get? (ctx * 64 + lid) = some l → gangs s l = true →
    l.ctx = ctx → l.lid = lid → gangPlace s l = some cores → (∀ c ∈ cores, absentGrains s c (s.ctx ctx).tenant = []) →
    ∃ t l', exec (.gangPlacement ctx lid) s = .next t ∧ t.launches.get? (ctx * 64 + lid) = some l' ∧ l' = { l with
      next := l.next + cores.length, gangAt := none, held := [], ran := l'.ran
      st := if l.next + cores.length = recNskein l.lrec then .dealt else .dealing } ∧ (∀ c ∈ cores, l'.ran.getLsbD c = true) ∧
    ∀ j core, cores[j]? = some core → ∃ slot k, t.skeins.get? (core * 16 + slot) = some k ∧ k.ctx = l.ctx ∧ k.lid = l.lid ∧
      k.index = l.next + j ∧ k.gang = true) ∧
  (∀ (s : State) (ctx lid : Nat) (l : Launch), s.launches.get? (ctx * 64 + lid) = some l → gangs s l = true → gangPlace s l = none →
    l.gangAt = none → exec (.gangPlacement ctx lid) s = .next { s with
      launches := s.launches.set (ctx * 64 + lid) { l with gangAt := some s.tick } }) ∧
  (∀ (s : State) (ctx lid : Nat) (l : Launch) (cores : List Nat), s.launches.get? (ctx * 64 + lid) = some l → reservationDue s l = true →
    gangCores s l = some cores → ∃ t, exec (.gangReservation ctx lid) s = .next t ∧
    t.launches = s.launches.set (ctx * 64 + lid) { l with held := cores, gangAt := some s.tick } ∧ t.plies = s.plies ∧
    ∀ x ∈ s.skeins, x.1 / 16 ∈ cores → s.launchClass x.2.ctx x.2.lid < s.launchClass l.ctx l.lid →
      (s.launchWord x.2.ctx x.2.lid 0).getLsbD 51 = false →
      x.2.save ≠ 0 → Sends s t (.preemptRequest x.1 true)) ∧
  (∀ (s : State) (ctx lid n : Nat) (l : Launch), s.launches.get? (ctx * 64 + lid) = some l → starveDue s l = true → l.gangAt = some n →
    (∃ x ∈ s.skeins, x.1 / 16 ∈ l.held ∧ x.2.save = 0) → exec (.starveCount ctx lid) s = .next { s with
      launches := s.launches.set (ctx * 64 + lid) { l with starve := min 65535 (l.starve + 1), gangAt := some (n + 100000) } }) ∧
  (∀ (s : State) (core q slot wbase : Nat) (x : Tcb), nextStart s core = some (q, x) → x.saved = none →
    freeSlot (skeinsOn s core) core = some slot → freeWindow (skeinsOn s core) (recTilemem (tcbRec s x)) = some wbase →
    (s.hwOf core).tile.wf = true → absentGrains s core (s.ctx x.ctx).tenant = [] →
    let r := tcbRec s x
    ∃ t k, exec (.skeinStart core) s = .next t ∧ t.skeins.get? (core * 16 + slot) = some k ∧ k.ctx = x.ctx ∧ k.lid = x.lid ∧
      k.index = x.skein ∧ k.lrec = r ∧ k.wbase = wbase ∧ k.wsize = recTilemem r ∧
      (t.hwOf core).queues = (s.hwOf core).queues.modify q (fun l => l.erase x) ∧
      (∀ i < recTilemem r, (t.hwOf core).tile.read (wbase + i) = 0) ∧
      ∀ n < recNply r, ∃ p, t.plies.get? (core * 512 + slot * 32 + n) = some p ∧ p.pc = (recWord r 0 &&& ~~~1) ∧ p.plyid = n ∧
        p.width = recWidth r ∧ p.em = maskLow p.width ∧ p.tlive = maskLow p.width ∧ p.role = recRole r n ∧ p.v = [] ∧
        p.s = [(0, recWord r 1), (1, BitVec.ofNat 64 x.skein), (2, BitVec.ofNat 64 x.nskein), (3, s.launchWord x.ctx x.lid 2)] ∧
        p.tl = 0 ∧ p.stack = [] ∧ p.p = List.replicate 8 0 ∧ p.q = 0 ∧ p.ext = false ∧ p.park = .none ∧ p.out = [] ∧ p.pend = [] ∧
        p.overlapped = [] ∧ p.tiles = []) ∧
  (∀ (s : State) (ctx lid : Nat) (l : Launch), s.launches.get? (ctx * 64 + lid) = some l → l.st = .dealt → l.ended = recNskein l.lrec →
    (l.draining = 0 → grainsLeft s l = [] → s.txns = [] → exec (.kernelBoundary ctx lid) s = .next { s with
      launches := s.launches.set (ctx * 64 + lid) { l with draining := 1 } }) ∧
    (l.draining = 1 → s.classes = [] → s.cores = [] → s.txns = [] → exec (.kernelBoundary ctx lid) s = .next { s with
      launches := s.launches.set (ctx * 64 + lid) { l with draining := 2 } }) ∧
    (∀ g e, l.draining = 1 → s.classes = [(g, e)] → e.ctx = ctx → e.lid = lid → e.cls = .shared → e.wd = false → s.txns = [] →
      ∃ t, exec (.kernelBoundary ctx lid) s = .next t ∧ t.classes = [] ∧ t.txns = [] ∧ t.mem = s.mem ∧
        t.launches.get? (ctx * 64 + lid) = some { l with draining := 2 }) ∧
    (l.draining = 2 → classesLeft s ctx lid = false →
      let noCode (m : CoreMem) : CoreMem := { m with code := m.code.filter fun _ x => decide (x.launch ≠ ctx * 64 + lid) }
      exec (.kernelBoundary ctx lid) s = .next { s with
        cores := List.map (fun (c : Nat × CoreMem) => (c.1, noCode c.2)) s.cores
        launches := s.launches.set (ctx * 64 + lid) { l with st := .finished } })) ∧
  (∀ (s : State) (ctx q key : Nat) (l : Launch) (h : QueueHdr), nextToComplete s ctx q = some (key, l) →
    readQueue s ctx l.lid q = (some h, s) →
    let slot := h.cring + BitVec.ofNat 64 (32 * ((l.seq - 1) % 2 ^ h.log2n))
    let word := queueBase s ctx q + 16
    svcNeed s ctx l.lid true [(slot, 32), (word, 8)] = none →
    let put := svcPut (svcPut s ctx l.lid slot (completionRecord l)) ctx l.lid word (bytesOf 8 l.seq)
    exec (.completionRecordWrite ctx q) s = .next { put with
      lqs := put.lqs.set (ctx * 8 + q) ((put.lq ctx q).1, l.seq)
      launches := put.launches.erase key }) ∧
  ∀ (l : Launch), (completionRecord l).length = 32 ∧ l.seq % 2 ^ 64 = valueOf ((completionRecord l).take 8) ∧
    valueOf (((completionRecord l).drop 8).take 4) = l.nfail % 2 ^ 32 ∧
    valueOf (((completionRecord l).drop 12).take 2) = min l.starve 65535 ∧
    valueOf (((completionRecord l).drop 16).take 8) = (recWord l.lrec 12).toNat ∧
    valueOf ((completionRecord l).drop 28) = ((l.ffirst.map (· % 2 ^ 32)).getD 0xFFFFFFFF) ∧
    (∀ code < 256, l.st = .refused code → valueOf (((completionRecord l).drop 14).take 2) = 2 * 256 + code) ∧
    (l.st = .finished → valueOf (((completionRecord l).drop 14).take 2) =
      if l.nfail ≠ 0 ∨ l.killed = true then 256 else 0)

/-! ## Parked plies, contexts -/

/-- R186, R187, R246, R363, R385, R407, R410, R413, R416, R420, R430, R447, R391: what happens to a ply between its instructions: results
land two cycles before it goes on, or it takes the trap that an access has reported, it ages, times out, is diverted, is asked to leave, and retires once everything has landed; and what
happens to a context: the watchdog, the refill of rates, the mailbox, suspension and the quantum boundaries. The model's own choices
in it: log 46, log 47. -/
def Obligations.PliesProceed : Prop :=
  (∀ (s : State) (key : Nat) (p : Ply), s.plies.get? key = some p →
    let last := p.pend.foldl (fun m x => max m x.due) s.cycle
    (p.landable = true → p.memlost = none → p.mixsize = none →
      (p.park = .switch → exec (.switchPointLanding key) s = .next (s.setPly key { p.landAll with
        park := .none, nextAt := max p.nextAt (last + 2), wakeAt := max p.nextAt (last + 2) })) ∧
      (p.park = .wait .landRoom → p.out ≠ [] → exec (.switchPointLanding key) s = .next (s.setPly key { p.landAll with
        park := .wait (.cycle (last + 2)), nextAt := max p.nextAt (last + 2), wakeAt := max p.nextAt (last + 2) }))) ∧
    (∀ x, p.landable = true → p.park = .switch → p.memlost = some x →
      let landed : Ply := { p.landAll with park := .none, nextAt := max p.nextAt (last + 2), wakeAt := max p.nextAt (last + 2) }
      exec (.switchPointLanding key) s = .next (takeTrap (((s.setPly key landed).modPly key fun q =>
        { q with memlost := none, mixsize := none }).modSkein p.skeinKey fun k => { k with failed := true }) key 0x0C x p.pc)) ∧
    (awake s key p = true → p.aged = false → max p.wakeAt p.nextAt + 512 ≤ s.cycle →
      exec (.plyAging key) s = .next (s.setPly key { p with aged := true })) ∧
    (∀ n, n ≤ s.tick → p.park = .wait (.monitor (some n)) → exec (.waitmTimeout key) s = .next (s.setPly key { p with stage := 2 })) ∧
    (∀ n, n ≤ s.tick → p.park = .wait (.ui (some n)) → exec (.uiwaitTimeout key) s = .next (s.setPly key { p with stage := 2 })) ∧
    (∀ n h, n ≤ s.cycle → p.park = .wait (.poll n h) →
      exec (.pollRetry key) s = .next (s.setPly key { p with park := .wait (.poll 0 h) })) ∧
    (∀ v, divertVector s key p = some v → (s.ctx p.ctx).vecs.length = 64 → ∃ t q, exec (.userInterruptDiversion key) s = .next t ∧
      t.plies.get? key = some q ∧ q.uipc = (p.pc &&& ~~~1) ∧ q.uiem = p.em ∧ q.uist = (BitVec.ofNat 64 (2 * p.floor) ||| 1) ∧
      q.floor = p.stack.length ∧ q.em = p.tlive ∧ q.pc = ((s.ctx p.ctx).uivec &&& ~~~1) ∧ q.park = .none ∧ q.tl = 0 ∧
      q.lx = Latch.off ∧ q.ly = Latch.off ∧ ((t.ctx p.ctx).vecs.getD v VecSt.zero).claim = some p.logic ∧ t.mem = s.mem)) ∧
  (∀ (s : State) (key : Nat) (p : Ply) (k : Skein), s.plies.get? key = some p → s.skeins.get? p.skeinKey = some k → p.park = .retire →
    p.landable = true → p.overlapped = [] → p.tileAt ≤ s.cycle → p.spinAt ≤ s.cycle → p.frozen = false → p.ext = false → p.plyid < 32 →
    (s.spindle p.core p.part).opened = none →
    let failed := k.failed || (k.eng.marks.any fun m => decide (m.issuer = p.plyid)) || p.memlost.isSome
    (∀ n < recNply k.lrec, n < 32 → n ≠ p.plyid → k.retired.getLsbD n = false → ∃ t k', exec (.plyRetirement key) s = .next t ∧
      t.plies = s.plies.erase key ∧ t.skeins.get? p.skeinKey = some k' ∧ k'.retired = k.retired ||| (1#32 <<< p.plyid) ∧
      k'.failed = failed ∧ t.launches = s.launches ∧ t.mem = s.mem) ∧
    (∀ l, recNply k.lrec = 1 → p.plyid = 0 → k.eng.copies = [] → s.launches.get? (k.ctx * 64 + k.lid) = some l →
      (∀ x ∈ (s.hwOf (p.skeinKey / 16)).spindles, x.opened = none ∧ x.drain = none) →
      ∃ t l', exec (.plyRetirement key) s = .next t ∧ t.launches.get? (k.ctx * 64 + k.lid) = some l' ∧ l'.ended = l.ended + 1 ∧
        l'.nfail = l.nfail + failed.toNat ∧ (failed = true → l.ffirst = none → l'.ffirst = some k.index) ∧ t.mem = s.mem)) ∧
  (∀ (s : State) (ctx : Nat) (c : Ctx), s.ctxs.get? ctx = some c →
    let n := c.wdog.toNat % 2 ^ 32
    (n ≠ 0 → n * 1000 ≤ c.idleTicks → ∃ t, exec (.watchdogExpiry ctx) s = .next t ∧
      t.ctxs = s.ctxs.set ctx { c with idleTicks := 0 } ∧ t.mem = s.mem ∧
      ∀ key p, s.plies.get? key = some p → t.plies.get? key = some (if p.ctx = ctx then { p with wdog := true } else p)) ∧
    exec (.contextSuspend ctx) s = .next { s with ctxs := s.ctxs.set ctx { c with suspended := true } } ∧
    exec (.contextResume ctx) s = .next { s with ctxs := s.ctxs.set ctx { c with suspended := false } } ∧
    exec (.mailboxOtherWrite ctx) s = .next { s with ctxs := s.ctxs.set ctx { c with mailStat := 5 } } ∧
    (∀ w x : DWord, w.toNat % 2 ^ 32 / 2 ^ 6 ≠ 0 → exec (.mailboxMsgWrite ctx w x) s = .next { s with
      ctxs := s.ctxs.set ctx { c with mailStat := BitVec.ofNat 64 (w.toNat / 2 ^ 32 * 2 ^ 32) ||| 5 } }) ∧
    (∀ (w x : DWord) (st : Nat) (t : State), w.toNat % 2 ^ 32 / 2 ^ 6 = 0 →
      uiDeliver s ⟨0, 0, 0, c.mailPasid⟩ ctx (w.toNat % 2 ^ 6) x = (st, t) → exec (.mailboxMsgWrite ctx w x) s = .next
        (t.modCtx ctx fun c => { c with mailStat := BitVec.ofNat 64 (w.toNat / 2 ^ 32 * 2 ^ 32) ||| BitVec.ofNat 64 st })) ∧
    (quantumDue s ctx = true →
      (∀ h rest q, c.inSerial = false → c.serial = h :: rest → s.plies.get? h = some q → exec (.quantumBoundary ctx) s = .next { s with
        ctxs := s.ctxs.set ctx { c with inSerial := true }, plies := s.plies.set h { q with stopped := false } }) ∧
      (∀ h q, c.inSerial = true → c.serial = [h] → s.plies.get? h = some q → exec (.quantumBoundary ctx) s = .next { s with
        ctxs := s.ctxs.set ctx { c with serial := [] }, plies := s.plies.set h { q with stopped := true } }) ∧
      (c.inSerial = true → c.serial = [] → ∃ t, exec (.quantumBoundary ctx) s = .next t ∧
        t.ctxs = s.ctxs.set ctx { c with inSerial := false, quantum := c.quantum + 1, quantAt := s.cycle } ∧
        ∀ x ∈ detPlies s ctx, ∀ q, t.plies.get? x.1 = some q → q.quant = 0))) ∧
  (∀ (s : State) (sk : Nat) (k : Skein), s.skeins.get? sk = some k →
    (quiescent s sk k = true → ∃ t, exec (.orphanDetection sk) s = .next t ∧ t.mem = s.mem ∧
      ∀ key p, s.plies.get? key = some p → p.skeinKey = sk → t.plies.get? key = some { p with orphan := true }) ∧
    (∀ gang, k.save ≠ 0 → ∃ t, exec (.preemptRequest sk gang) s = .next t ∧ t.mem = s.mem ∧
      ∀ key p, s.plies.get? key = some p → p.skeinKey = sk → p.preempt = none →
        t.plies.get? key = some { p with preempt := some (if gang then 2 else 1) }) ∧
    (∀ gang, k.save = 0 → exec (.preemptRequest sk gang) s = .next s)) ∧
  ∀ (s : State), s.tick % 100 = 0 → ∃ t, exec .rateCounterReload s = .next t ∧ t.plies = s.plies ∧ t.mem = s.mem ∧
    ∀ n c, s.ctxs.get? n = some c → t.ctxs.get? n = some { c with rates := c.perms.map fun e => e.1.toNat / 2 ^ 32 % 2 ^ 16 }

/-! ## The host and the peers -/

/-- R52, R64, R135, R136: a host physical address names near or far memory by the decoders and host memory otherwise. A host read or write
of device memory uses the key of the host key map or is answered as poison with an error; a snoop is answered with the current line, and
one that invalidates or shares takes the line's ownership away; a request that waits for lines of the host goes on with the last answer, and
what a request for ownership was given exclusively is then the device's. The model's own choices in it: log 19, log 64, log 76. -/
def Obligations.HostRequestsServed : Prop :=
  (∀ (s : State) (b h : Nat), b ≤ h →
    (s.dec0 = some b → h < b + 2 ^ 38 → s.hpaLoc h = h - b) ∧
    (s.dec0 = none → s.dec1 = some b → h < b + 2 ^ 41 → s.hpaLoc h = 2 ^ 60 + (h - b)) ∧
    (s.dec0 = none → s.dec1 = none → s.hpaLoc h = 2 * 2 ^ 60 + h % 2 ^ 52)) ∧
  (∀ (s : State) (hpa : Nat), 2 ≤ tierOf (s.hpaLoc hpa) →
    (∀ n cached, exec (.memrd hpa n cached) s = .next s) ∧ ∀ bytes, exec (.memwr hpa bytes) s = .next s) ∧
  (∀ (s : State) (hpa n : Nat) (bytes : List Byte) (cached : Bool), hpa < 2 ^ 64 → 1 ≤ n → bytes.length = n →
    let loc := s.hpaLoc hpa
    tierOf loc ≤ 1 → OutsideQuiet s loc → loc % 128 + n ≤ 128 →
    (∀ k, s.hostKey loc = some k →
      (∃ t, exec (.memrd hpa n cached) s = .next t ∧ t.txns = [] ∧ t.mem = s.mem ∧ t.keyed = s.keyed ∧ t.plies = s.plies ∧
        t.hostOut = s.hostOut ++ [.memData hpa false ((List.range n).map fun i => s.readByte k (loc + i))] ∧
        (t.dirOf (loc / 128 * 128)).ha = cached) ∧
      (s.MemOk → ∃ t, exec (.memwr hpa bytes) s = .next t ∧ t.txns = [] ∧ t.plies = s.plies ∧
        t.hostOut = s.hostOut ++ [.memDone hpa] ∧ (∀ i < n, t.readByte k (loc + i) = bytes.getD i 0) ∧
        ∀ a, (∀ i < n, a / 32 ≠ (loc + i) / 32) → t.mem.read a = s.mem.read a)) ∧
    (s.hostKey loc = none →
      (∃ t, exec (.memrd hpa n cached) s = .next t ∧ t.mem = s.mem ∧
        t.hostOut = s.hostOut ++ [.error 1, .memData hpa true ((List.range n).map fun i =>
          s.readByte (s.hostKeys.getD (hostRegion loc) 0 % 64) (loc + i))]) ∧
      ∃ t, exec (.memwr hpa bytes) s = .next t ∧ t.mem = s.mem ∧ t.hostOut = s.hostOut ++ [.error 1, .memDone hpa])) ∧
  (∀ (s : State) (loc : Nat) (e : DirEntry), tierOf loc = 2 →
    let line := loc / 64 * 64
    let g := line / 128 * 128
    let data := (List.range 64).map fun i => s.mem.read (line + i)
    (s.txns = [] → s.dir = [(g, e)] → e.gcode = 1 → e.st = .i → e.uoh = 0 → e.hv = false → e.ha = true → s.classes.get? (granuleOf line) = none →
      s.tags.get? (blockOf line) = none → s.sliceHold.get? (homeSlice line) = none →
      (∃ t, exec (.snpcur loc) s = .next t ∧ t.hostOut = s.hostOut ++ [.snoopReply line true data] ∧ (t.dirOf g).ha = true ∧
        t.mem = s.mem ∧ t.txns = []) ∧
      (∃ t, exec (.snpinv loc) s = .next t ∧ t.hostOut = s.hostOut ++ [.snoopReply line true data] ∧ (t.dirOf g).ha = false ∧
        t.mem = s.mem ∧ t.txns = []) ∧
      ∃ t, exec (.snpdata loc) s = .next t ∧ t.hostOut = s.hostOut ++ [.snoopReply line true data] ∧ (t.dirOf g).ha = false ∧
        t.mem = s.mem ∧ t.txns = [])) ∧
  (∀ (s : State) (loc : Nat), tierOf loc ≤ 1 → asksHost s (loc / 64 * 64) = true →
    exec (.biconflict loc) s = .next { s with hostOut := s.hostOut ++ [.biConflictAck loc] }) ∧
  (∀ (s : State) (x : Txn) (e : DirEntry) (l : Nat), s.txns = [x] → x.kind = .linkRd → x.stage = .host → x.quiet = false → x.mixchk = false →
    l % 64 = 0 → tierOf l ≤ 1 → granuleOf x.loc ∉ s.withdrawn → s.dir = [(x.grain, e)] → e.st = .i → e.uoh = 0 →
    (∀ l', l' ≠ l → x.lines = [l, l'] → exec (.birspi l) s = .next { s with txns := [{ x with lines := [l'] }] }) ∧
    (x.lines = [l] → ∃ t, exec (.birspi l) s = .next t ∧ t.txns = [] ∧ (t.dirOf x.grain).ha = false ∧ t.mem = s.mem ∧
      t.hostOut = s.hostOut ++ [.peerData x.aux x.tag false ((List.range x.len).map fun i => s.readByte x.key (x.base + i))])) ∧
  ∀ (s : State) (x : Txn) (l : Nat) (excl : Bool) (bytes : List Byte), s.txns = [x] → x.kind = .rd ∨ x.kind = .own → x.stage = .host →
    x.mixchk = false → x.repl = 0 → x.lines = [l] → l % 64 = 0 → tierOf l = 2 → tierOf x.loc = 2 → granuleOf x.loc ∉ s.withdrawn → s.dir = [] →
    s.tags.get? (blockOf l) = none → s.sliceHold.get? (homeSlice x.loc) = none → (∃ c, x.src = .core c) →
    let span := sectorSpan (blockOf x.loc) x.sect
    ∃ t d, exec (.cxlCacheCompletion l excl bytes) s = .next t ∧ t.txns = [] ∧ t.mem = s.mem.writeBytes l (bytes.take 64) ∧
      Sends s t (.rdata d) ∧ d.hdr.dst = x.src ∧ d.own = decide (x.kind = .own) ∧
      d.bytes = (List.range span.2).map (fun i => t.mem.read (span.1 + i)) ∧ (t.dirOf x.grain).ha = (excl && decide (x.kind = .own))

/-- R412, R456 to R460: a link end comes up with its windows; while it is up, a peer reads and writes the windows this module exports, its
answers go to the copies that wait, user-interrupt messages are delivered and their status returned, and heartbeats are noted. Frames on a
link end that is down or fenced change nothing; sixteen authentication failures in a row fence it. The model's own choices
in it: log 19, log 50, log 58. -/
def Obligations.PeerFramesServed : Prop :=
  (∀ (s : State) (link : Nat) (windows : List (Nat × Nat)) (exports : List (Nat × Nat × Nat)),
    (22 ≤ link → exec (.windesc link windows exports) s = .next s) ∧
    (link < 22 → s.links.get? link = none → ∃ t, exec (.windesc link windows exports) s = .next t ∧
      t.links.get? link = some ⟨true, windows, exports, 0, 0, [], []⟩ ∧ .peerLink link ∉ t.fenced ∧ t.mem = s.mem ∧
      t.hostOut = s.hostOut ++ [.peerWindows link (exports.map fun x => (x.1, x.2.2))])) ∧
  (∀ (s : State) (f : PeerFrame) (u : UiFrame) (seq : BitVec 16), u.link = f.link →
    (s.links.get? f.link = none ∨ (∃ l, s.links.get? f.link = some l ∧ l.up = false) ∨ .peerLink f.link ∈ s.fenced) →
    exec (.rdreq f) s = .next s ∧ exec (.rdrsp f) s = .next s ∧ exec (.wrreq f) s = .next s ∧ exec (.wrack f) s = .next s ∧
      exec (.uimsg u) s = .next s ∧ exec (.uistat u) s = .next s ∧ exec (.hb f.link seq) s = .next s) ∧
  (∀ (s : State) (f : PeerFrame) (l : PeerLink), s.links.get? f.link = some l → l.up = true → .peerLink f.link ∉ s.fenced →
    (∀ base len, l.exports = [(f.window, base, len)] →
      (len < f.offset + f.len → ∃ t, exec (.rdreq f) s = .next t ∧ t.mem = s.mem ∧
        t.hostOut = s.hostOut ++ [.peerData f.link f.tag true []]) ∧
      (len < f.offset + f.bytes.length → ∃ t, exec (.wrreq f) s = .next t ∧ t.mem = s.mem ∧
        t.hostOut = s.hostOut ++ [.peerAck f.link f.tag true]) ∧
      let loc := base + f.offset
      let key := s.hostKeys.getD (hostRegion loc) 0 % 64
      OutsideQuiet s loc → s.classes = [] → tierOf loc ≤ 1 →
      (1 ≤ f.len → f.offset + f.len ≤ len → loc % 128 + f.len ≤ 128 → ∃ t, exec (.rdreq f) s = .next t ∧ t.txns = [] ∧ t.mem = s.mem ∧
        t.hostOut = s.hostOut ++ [.peerData f.link f.tag false ((List.range f.len).map fun i => s.readByte key (loc + i))]) ∧
      (1 ≤ f.bytes.length → f.offset + f.bytes.length ≤ len → loc % 128 + f.bytes.length ≤ 128 → s.MemOk →
        ∃ t, exec (.wrreq f) s = .next t ∧ t.txns = [] ∧ t.hostOut = s.hostOut ++ [.peerAck f.link f.tag false] ∧
        (∀ i < f.bytes.length, t.readByte key (loc + i) = f.bytes.getD i 0) ∧
        ∀ a, (∀ i < f.bytes.length, a / 32 ≠ (loc + i) / 32) → t.mem.read a = s.mem.read a)) ∧
    (∀ (sk : Nat) (k : Skein) (c : Copy), l.pending = [(f.tag, sk, c.n)] → s.skeins.get? sk = some k → k.eng.copies = [c] →
      let free : Copy := { c with waiting := false, verdict := .retry }
      let goes (i : Instr) (c' : Copy) : Prop := exec i s = .next { madeProgress s k.ctx with
        links := s.links.set f.link { l with fails := 0, pending := [] }
        skeins := s.skeins.set sk { k with eng := { k.eng with copies := [c'] } } }
      (f.refused = false → c.phase = .read → goes (.rdrsp f) { free with val := BitVec.ofNat 128 (valueOf f.bytes), phase := .write }) ∧
      (f.refused = false → c.phase = .write → goes (.wrack f) free.advance) ∧
      (f.refused = true → c.phase = .read ∨ c.phase = .write →
        let stopped : Copy := { free with miss := none, stop := some (5, c.curAddr), phase := .stamp, st := .stamping }
        goes (.rdrsp f) stopped ∧ goes (.wrack f) stopped)) ∧
    (∀ seq : BitVec 16, ∃ t, exec (.hb f.link seq) s = .next t ∧ (.peerLink f.link, seq.toNat, s.tick) ∈ t.beats ∧
      (∀ b ∈ t.beats, b.1 = .peerLink f.link → b = (.peerLink f.link, seq.toNat, s.tick)) ∧ t.mem = s.mem) ∧
    (l.fails + 1 < 16 → exec (.authenticationFailure f.link) s = .next { s with
      links := s.links.set f.link { l with fails := l.fails + 1 } }) ∧
    (16 ≤ l.fails + 1 → l.pending = [] → l.uiOut = [] → ∃ t, exec (.authenticationFailure f.link) s = .next t ∧
      .peerLink f.link ∈ t.fenced ∧ t.links.get? f.link = some { l with fails := l.fails + 1, up := false })) ∧
  (∀ (s : State) (u : UiFrame) (l : PeerLink), s.links.get? u.link = some l → l.up = true → .peerLink u.link ∉ s.fenced →
    (∀ st t, uiDeliver { s with links := s.links.set u.link { l with fails := 0 } } ⟨1, u.link, u.sctx, 0⟩ u.ctx u.vec u.payload = (st, t) →
      exec (.uimsg u) s = .next { t with hostOut := t.hostOut ++ [.uiStatus u.link u.tag st] }) ∧
    ∀ key p x w, l.uiOut = [u.tag] → s.plies.get? key = some p → p.out = [x] → x.tag = u.tag → x.arrived = false → x.writes = [w] →
      ∃ t, exec (.uistat u) s = .next t ∧ t.plies.get? key = some { p with
        out := [{ x with arrived := true, writes := [{ w with vals := [BitVec.ofNat 64 u.status] }] }] } ∧
      t.links.get? u.link = some { l with fails := 0, uiOut := [] }) ∧
  ∀ (s : State) (port n m : Nat), s.fibres[port]? = some m → exec (.fibreLoss port n) s = .next { s with fibres := s.fibres.set port (m - n) }

/-! ## Fencing and repair -/

/-- R68, R88 to R90, R124, R125, R132, R137, R166, R463, R465: a held write is performed once the lease horizon has passed; the sweep clears
the leases that have ended; a withdrawn granule loses its content and its translations and can be cleared; a region's content moves to
its new place when nothing uses the old one; replicas that differ are recorded; an agent that has missed four heartbeats is fenced, with
what follows, and a router that has failed ends every launch. The model's own choices in it: log 28, log 57, log 61, log 62, log 69,
log 88. -/
def Obligations.FencingAndRepairComplete : Prop :=
  (∀ (s : State) (x : Txn) (e : DirEntry), s.txns = [x] → x.kind = .wr → x.stage = .directory → x.strict = true → x.repl = 0 →
    x.mixchk = false → granuleOf x.loc ∉ s.withdrawn → s.dir.get? x.grain = some e → e.st = .i → e.uoh = 0 → e.ha = false → e.hv = true →
    tierOf x.loc ≤ 1 → s.sliceHold.get? (homeSlice x.loc) = none →
    (horizonPassed s.tick e = false → exec (.heldWritePerformance x.slice) s = .next s) ∧
    (horizonPassed s.tick e = true → ∃ t a, exec (.heldWritePerformance x.slice) s = .next t ∧ t.txns = [] ∧
      t.mem = (s.putBytes x.key x.loc x.bytes).mem ∧ Sends s t (.ack a) ∧ a.hdr.dst = .core x.core)) ∧
  (∀ (s : State) (g : Nat) (e : DirEntry), s.dir.get? g = some e → e.st ≠ .i → ∃ t, exec .burnisherSweep s = .next t ∧ t.mem = s.mem ∧
    t.dir.get? g = some { e with hv := e.hv && !horizonPassed s.tick e }) ∧
  (∀ (s : State) (loc : Nat), s.MemOk → granuleOf loc ∉ s.withdrawn → s.withdrawn.length < 1024 → s.txns = [] →
    let g := granuleOf loc
    ∃ t, exec (.granuleWithdrawal loc) s = .next t ∧ t.withdrawn = s.withdrawn ++ [g] ∧
      (∃ e, t.classes.get? g = some e ∧ e.wd = true) ∧
      (∀ a, t.mem.read a = if g ≤ a ∧ a < g + 4096 then 0 else s.mem.read a) ∧
      (∀ e ∈ t.ats, g < e.loc ∨ e.loc + 2 ^ e.log2 * 4096 ≤ g) ∧
      ∀ c ∈ t.cores, ∀ e ∈ c.2.tlb, g < e.loc ∨ e.loc + 2 ^ e.log2 * 4096 ≤ g) ∧
  (∀ (s : State) (loc : Nat), granuleOf loc ∈ s.withdrawn → exec (.granuleClear loc) s = .next { s with
    withdrawn := s.withdrawn.erase (granuleOf loc), classes := s.classes.erase (granuleOf loc) }) ∧
  (∀ (s : State) (src dst a b : Nat), s.MemOk → regionLoc s src = some a → regionLoc s dst = some b → tierOf a ≠ tierOf b →
    (underWay s a = true ∨ underWay s b = true → exec (.regionMigration src dst) s = .next s) ∧
    (underWay s a = false → underWay s b = false → s.dir = [] →
      (∀ x ∈ s.replicated, (x.1 < a ∨ a + 2 ^ 21 ≤ x.1) ∧ (x.1 < b ∨ b + 2 ^ 21 ≤ x.1)) →
      ∃ t, exec (.regionMigration src dst) s = .next t ∧ t.plies = s.plies ∧
      (∀ i < 2 ^ 21, t.mem.read (b + i) = s.mem.read (a + i)) ∧ (∀ k, k < b ∨ b + 2 ^ 21 ≤ k → t.mem.read k = s.mem.read k) ∧
      ∀ x ∈ t.classes, (a ≤ x.1 ∧ x.1 < a + 2 ^ 21) ∨ (b ≤ x.1 ∧ x.1 < b + 2 ^ 21) → x.2.cls = .unseen ∧ x.2.wd = true)) ∧
  (∀ (s : State) (c : Nat × Byte) (d d' m : Nat), c ∈ s.mem → tierOf c.1 = 0 → d < 4 → d' < 4 →
    let g := replicaLoc d (granuleOf c.1)
    s.replicated.get? g = some m ∨ (s.replicated.get? g = none ∧ replicasAt s g = some m) → m.testBit d' = true → granuleCells s (replicaLoc d' g) ≠ granuleCells s g →
    ∃ t, exec .replicaCompare s = .next t ∧ g ∈ t.replicaLog ∧ (∀ x ∈ s.replicaLog, x ∈ t.replicaLog) ∧ t.mem = s.mem) ∧
  (∀ (s : State) (a : Agent) (seq : BitVec 16), a ∉ s.fenced → (∃ b ∈ s.beats, b.1 = a) → exec (.heartbeat a seq) s = .next { s with
    beats := s.beats.filter (fun b => decide (b.1 ≠ a)) ++ [(a, seq.toNat, s.tick)] }) ∧
  (∀ (s : State) (a : Agent), a ∉ s.fenced → (∃ b ∈ s.beats, b.1 = a) → (∀ m, a ≠ .router m) →
    ((∀ b ∈ s.beats, b.1 = a → s.tick < b.2.2 + 2000) → a ∉ s.silent → exec (.agentFence a) s = .next { s with silent := s.silent ++ [a] }) ∧
    ((∃ b ∈ s.beats, b.1 = a ∧ b.2.2 + 2000 ≤ s.tick) →
      (∀ n, a = .serviceCore n ∨ a = .optical n → exec (.agentFence a) s = .next { s with fenced := s.fenced ++ [a] }) ∧
      (∀ r, a = .rdc r → ∃ t, exec (.agentFence a) s = .next t ∧ t.fenced = s.fenced ++ [a] ∧ t.rdc = s.rdc.erase r ∧ t.mem = s.mem) ∧
      (∀ p, a = .hostPort p → ∃ t, exec (.agentFence a) s = .next t ∧ t.fenced = s.fenced ++ [a] ∧ t.mem = s.mem) ∧
      (∀ n, a = .slice n → s.classes = [] → s.mons = [] → s.txns = [] → ∃ t, exec (.agentFence a) s = .next t ∧ t.fenced = s.fenced ++ [a] ∧
        t.sliceHold.get? n = some (s.tick + 1025) ∧ t.dir = s.dir.filter (fun g _ => decide (homeSlice g ≠ n)) ∧
        t.tags = s.tags.filter (fun g _ => decide (homeSlice g ≠ n)) ∧ t.mem = s.mem) ∧
      (∀ c sk k l, a = .core c → s.skeins = [(sk, k)] → sk / 16 = c → s.launches = [(k.ctx * 64 + k.lid, l)] → l.bound = none → s.hw = [] →
        s.dir = [] → s.txns = [] → ∃ t l', exec (.agentFence a) s = .next t ∧ t.fenced = s.fenced ++ [a] ∧ t.skeins = [] ∧
          t.launches = [(k.ctx * 64 + k.lid, l')] ∧ l'.ended = l.ended + 1 ∧ l'.nfail = l.nfail + 1 ∧ t.mem = s.mem ∧
          ∀ x ∈ t.plies, x.2.skeinKey ≠ sk))) ∧
  ∀ (s : State) (m : Nat), .router m ∉ s.fenced → s.ctxs = [] → ∃ t, exec (.agentFence (.router m)) s = .next t ∧
    t.fenced = s.fenced ++ [.router m] ∧ t.mem = s.mem ∧ ∀ x ∈ s.launches, x.2.st = .dealing ∨ x.2.st = .dealt → ∃ l, (x.1, l) ∈ t.launches ∧
      l.st = .dealt ∧ l.killed = true ∧ l.ended = recNskein x.2.lrec ∧ l.nfail = x.2.nfail + (recNskein x.2.lrec - x.2.ended)

/-! ## Copy engines, spindles, budgets at work -/

/-- R196, R197, R200, R203, R204, R207, R214, R326, R333: the engine serves the eligible copies on the odd cycles of port A, an element outside
the bounds reads 0 and is not written, and a piece that waits for an answer holds the engine; a copy that is done frees its tile and is
counted on the timeline; the last unit of a drained batch makes the tile READY; every microsecond the budgets are refilled. The model's own
choices in it: log 14, log 31, log 35. -/
def Obligations.EnginesProceed : Prop :=
  (∀ (s : State) (core : Nat), (s.hwOf core).serving = none → eligible s core = [] →
    exec (.copyChunkServe core) s = .next (s.modHw core fun h => { h with deficits := [0, 0, 0, 0] })) ∧
  (∀ (s : State) (core sk n : Nat) (k : Skein) (c : Copy), (s.hwOf core).serving = some (sk, n) → findCopy s sk n = some (k, c) →
    c.waiting = true → exec (.copyChunkServe core) s = .next s) ∧
  (∀ (s : State) (core sk : Nat) (k : Skein) (c : Copy), (s.hwOf core).serving = none → (s.hwOf core).cls = 3 →
    (s.hwOf core).deficits = [0, 0, 0, 0] → eligible s core = [(sk, c)] → sk / 16 = core → s.skeins.get? sk = some k → k.eng.copies = [c] →
    c.st = .queued → c.cls < 4 → isGG c.instr = false → layRows c.layout = 1 → layCols c.layout = 1 → c.row = 0 → c.col = 0 → c.phase = .read →
    c.stop = none → layEsz c.layout ≤ 16 →
    let z := layEsz c.layout
    let h := s.hwOf core
    let turn := s.modHw core fun h => { h with cls := c.cls + 4, deficits := [0, 0, 0, 0].set c.cls (2048 * 2 ^ c.cls - z) }
    let queued (h : CoreHw) : Prop := h.cls = c.cls + 4 ∧ h.deficits = [0, 0, 0, 0].set c.cls (2048 * 2 ^ c.cls - z)
    (c.outside = true → recWord c.coord 2 = 0 → h.tile.wf = true → s.cycle % 2 = 1 → h.clearTo < s.cycle → h.portA ≠ s.cycle → ∃ t c', exec (.copyChunkServe core) s = .next t ∧
      t.skeins.get? sk = some { k with eng := { k.eng with copies := [c'] } } ∧ c'.n = c.n ∧ c'.phase = .done ∧ c'.stop = none ∧
      c'.doneBytes = z ∧ queued (t.hwOf core) ∧ (t.hwOf core).serving = none ∧ t.mem = s.mem ∧
      (isFill c.instr = true → (∀ i < z, (t.hwOf core).tile.read ((c.tileAddr s sk + i) % 2 ^ 21) = 0) ∧
        ∀ a, (∀ i < z, a ≠ (c.tileAddr s sk + i) % 2 ^ 21) → (t.hwOf core).tile.read a = h.tile.read a) ∧
      (isFill c.instr = false → (t.hwOf core).tile = h.tile)) ∧
    (isFill c.instr = false → s.cycle % 2 = 0 ∨ s.cycle ≤ h.clearTo → ∃ t, exec (.copyChunkServe core) s = .next t ∧
      t.skeins.get? sk = some { k with eng := { k.eng with copies := [{ c with left := z, st := .active }] } } ∧
      (t.hwOf core).serving = some (sk, c.n) ∧ (t.hwOf core).tile = h.tile ∧ t.mem = s.mem) ∧
    (∀ (s2 : State) (c2 : Copy), c.outside = false → isFill c.instr = true →
      pieceAccess (madeProgress turn k.ctx) sk k { c with left := z, st := .active } .read c.memAddr z .load 0 = .later s2 c2 →
      c2.n = c.n → s2.skeins.get? sk = some k → ∃ t, exec (.copyChunkServe core) s = .next t ∧
        t.skeins.get? sk = some { k with eng := { k.eng with copies := [{ c2 with waiting := true }] } } ∧
        (t.hwOf core).serving = some (sk, c.n))) ∧
  (∀ (s : State) (sk m : Nat) (k : Skein) (c : Copy) (e : TileEnt), s.skeins.get? sk = some k → k.eng.copies = [c] → c.phase = .done →
    isGG c.instr = false → c.n = k.eng.timeline + 1 → k.eng.ahead = [] → k.eng.fins = [] → k.late = [] → m < recNply k.lrec →
    k.retired.getLsbD m = false → (∀ x ∈ s.plies, x.2.skeinKey = sk → x.2.defer = []) → (s.hwOf (sk / 16)).tiles = [e] →
    c.tile s sk = some e → ∃ t k', exec (.copyDone sk c.n) s = .next t ∧
    t.skeins.get? sk = some k' ∧ k'.eng.copies = [] ∧ k'.eng.timeline = c.n ∧ k'.eng.issued = k.eng.issued ∧ t.mem = s.mem ∧
    (k.eng.issued ≥ c.n + 64 → k'.eng.stats = k.eng.stats) ∧
    (c.stop = none → (k.eng.issued < c.n + 64 → k'.eng.stats = k.eng.stats ++ [⟨c.n, false, 0, c.doneBytes, c.dropped⟩]) ∧
      k'.eng.marks = k.eng.marks) ∧
    (∀ r va, c.stop = some (r, va) → (k.eng.issued < c.n + 64 → k'.eng.stats = k.eng.stats ++ [⟨c.n, true, r, c.doneBytes, c.dropped⟩]) ∧
      k'.eng.marks = k.eng.marks ++ [⟨c.issuer, c.n, va &&& ~~~0xFFF, r⟩]) ∧
    (c.fin = false ∨ c.stop ≠ none → (t.hwOf (sk / 16)).tiles = [{ e with ncpy := e.ncpy - 1 }]) ∧
    (c.fin = true → c.stop = none → isFill c.instr = true → e.st = .filling →
      (t.hwOf (sk / 16)).tiles = [{ e with ncpy := e.ncpy - 1, st := .ready }]) ∧
    (c.fin = true → c.stop = none → isFill c.instr = false → e.st = .draining →
      (t.hwOf (sk / 16)).tiles = [{ e with ncpy := e.ncpy - 1, st := .empty, part := false }])) ∧
  (∀ (s : State) (core part slot m : Nat) (b : Batch) (k : Skein) (e : TileEnt), (s.spindle core part).drain = some b →
    (s.spindle core part).drained = true → slot < 16 → b.owner / 32 = core * 16 + slot → s.skeins.get? (core * 16 + slot) = some k →
    b.n = k.spTimeline + 1 → k.spAhead = [] → m < recNply k.lrec → k.retired.getLsbD m = false → (s.hwOf core).tiles = [e] →
    e.slot = slot → e.handle = refHandle b.dref → ∃ t k', exec (.batchComplete core part) s = .next t ∧
    t.skeins.get? (core * 16 + slot) = some k' ∧ k'.spTimeline = b.n ∧ k'.spAhead = [] ∧ (t.spindle core part).drain = none ∧
    (t.hwOf core).tiles = [{ e with st := .ready, spn := false, part := b.part || e.part }] ∧ (t.hwOf core).tile = (s.hwOf core).tile ∧
    t.mem = s.mem) ∧
  (∀ (s : State) (core part : Nat), (s.spindle core part).drain = none ∨ (s.spindle core part).drained = false →
    exec (.batchComplete core part) s = .next s) ∧
  ∀ (s : State), (s.tick % 100 ≠ 0 → exec .budgetRefill s = .next s) ∧
    (s.tick % 100 = 0 → ∃ t, exec .budgetRefill s = .next t ∧ t.plies = s.plies ∧ t.mem = s.mem ∧
      ∀ core h ctx b f cap, s.hw.get? core = some h → h.energy.get? ctx = some (b, f, cap) → ∃ h', t.hw.get? core = some h' ∧
        h'.energy.get? ctx = some (BitVec.ofNat 64 (min (b.toNat + f.toNat) cap.toNat), f, cap) ∧ h'.tile = h.tile)

/-! ## The module -/

/-- R52, R63, R77, R104, R461, R466 to R470: a wheel register takes effect at slot 0 of a later turn; gates switch the domain and return;
after a reset the module runs if its image passes the checks and else stands in recovery, which an image that passes ends; the report of
its measurements answers an attestation request; a tenant key, a decoder and the page-request allocation are set. The model's own choices
in it: log 5, log 52, log 53, log 56, log 59. -/
def Obligations.ModuleBootsAndConfigures : Prop :=
  (∀ (s : State) (reg : Nat) (x : DWord), (5 ≤ reg → exec (.wheelRegisterWrite reg x) s = .next s) ∧
    (reg < 5 → s.wheelNext = [] → exec (.wheelRegisterWrite reg x) s = .next { s with
      wheelNext := s.wheel.set reg (if reg = 4 then x &&& 0xFF else x) ++ [BitVec.ofNat 64 (s.mesh / 64)] })) ∧
  (∀ (s : State) (a b c d e n : DWord), s.wheelNext = [a, b, c, d, e, n] →
    (n.toNat < s.mesh / 64 → exec .wheelSettingEffect s = .next { s with wheel := [a, b, c, d, e], wheelNext := [] }) ∧
    (s.mesh / 64 ≤ n.toNat → exec .wheelSettingEffect s = .next s)) ∧
  (∀ (s : State) (svc dom : Nat) (target : DWord) (c : SvcCore), s.svcs.get? svc = some c →
    ((∀ g ∈ c.gates, g.1 ≠ target) → exec (.gateEntry svc target) s = .next s) ∧
    (c.gates = [(target, dom, false)] → c.stack.length < 16 → exec (.gateEntry svc target) s = .next { s with
      svcs := s.svcs.set svc { c with curdom := dom % 256, stack := c.curdom :: c.stack } }) ∧
    (c.gates = [(target, dom, false)] → 16 ≤ c.stack.length → exec (.gateEntry svc target) s = .next s) ∧
    (∀ d rest, c.gates = [(target, dom, true)] → c.stack = d :: rest → exec (.gateEntry svc target) s = .next { s with
      svcs := s.svcs.set svc { c with curdom := d, stack := rest } }) ∧
    (c.gates = [(target, dom, true)] → c.stack = [] → exec (.gateEntry svc target) s = .next s)) ∧
  (∀ (f : Fuses) (img : List Byte), imgWord img 0 ≠ 0x494C563936304657 ∨ fieldOf (imgWord img 2) 32 32 % 64 ≠ 0 ∨
    shake256 32 (imgBytes img 64 1952) ≠ f.keyHash ∨ imgSvn img < f.svn → imageOk f img = false) ∧
  (∀ (s : State) (img : List Byte),
    let runs (t : State) (flash : List Byte) : Prop := t.phase = .running ∧ t.flash = flash ∧ t.hostOut = s.hostOut ++ [.ready] ∧
      t.plies = [] ∧ t.skeins = [] ∧ t.launches = [] ∧ t.ctxs = [] ∧ t.wheel = State.reset.wheel ∧ t.fbcfg = State.reset.fbcfg ∧
      t.fuses.keyHash = s.fuses.keyHash ∧ t.fuses.svn = (if (imgWord flash 2).getLsbD 0 then imgSvn flash else s.fuses.svn)
    (imageOk s.fuses s.flash = true → ∃ t, exec .moduleReset s = .next t ∧ runs t s.flash) ∧
    (imageOk s.fuses s.flash = false → ∃ t, exec .moduleReset s = .next t ∧ t.phase = .recovery ∧ t.fuses = s.fuses ∧ t.plies = [] ∧
      t.hostOut = s.hostOut) ∧
    (s.phase = .recovery → imageOk s.fuses img = true → ∃ t, exec (.recoveryImage img) s = .next t ∧ runs t img) ∧
    (s.phase ≠ .recovery ∨ imageOk s.fuses img = false → exec (.recoveryImage img) s = .next s)) ∧
  (∀ (s : State) (nonce : List Byte),
    (s.phase ≠ .running → exec (.attestationRequest nonce) s = .next s) ∧
    (s.phase = .running → ∃ sig, exec (.attestationRequest nonce) s = .next { s with hostOut := s.hostOut ++ [.report (padTo 32 nonce ++
      padTo 32 Config.romMeasurement ++ shake256 32 (imgSigned s.flash) ++ shake256 32 s.fuses.defect ++
      shake256 32 (s.fuses.keyHash ++ bytesOf 8 s.fuses.svn) ++ bytesOf 8 (imgSvn s.flash) ++ sig)] })) ∧
  (∀ (s : State) (key : Nat), (key < 64 → exec (.tenantKeyLoad key) s = .next { s with
      tenantKeys := s.tenantKeys.set key (s.tenantKeys.getD key 0 + 1) }) ∧
    (64 ≤ key → exec (.tenantKeyLoad key) s = .next s)) ∧
  ∀ (s : State) (n : Nat),
    (n % 2 ^ 38 = 0 → exec (.configurationSpaceWrite (.decoderBase 0 n)) s = .next { s with dec0 := some n }) ∧
    (n % 2 ^ 41 = 0 → exec (.configurationSpaceWrite (.decoderBase 1 n)) s = .next { s with dec1 := some n }) ∧
    exec (.configurationSpaceWrite (.pageRequestAllocation n)) s = .next { s with prgAlloc := n }

/-- R60, R462, R474 to R478: a watch unit restarts where it is configured and counts the events of its scope; the watch page is written
between an odd and an even sequence number; the clock falls with too much power or heat and rises after a calm millisecond; a context is
written with its tables, and goes with everything that names it. The model's own choices
in it: log 54, log 55, log 60. -/
def Obligations.WatchesPowerAndContexts : Prop :=
  (∀ (s : State) (c u : Nat) (x : DWord),
    let fresh : WatchUnit := ⟨x, 2 ^ 64 - 1, 0, 0, 0, List.replicate 16 0⟩
    (c < 128 → u < 4 → exec (.wcfgWrite (.core c u) x) s = .next { s with watch := s.watch.set (4 * c + u) fresh }) ∧
    (c < 4 → u < 16 → exec (.wcfgWrite (.die c u) x) s = .next { s with watch := s.watch.set (512 + 16 * c + u) fresh }) ∧
    (128 ≤ c ∨ 4 ≤ u → exec (.wcfgWrite (.core c u) x) s = .next s) ∧ (4 ≤ c ∨ 16 ≤ u → exec (.wcfgWrite (.die c u) x) s = .next s)) ∧
  (∀ (s : State) (c u stream ctx v : Nat) (w : WatchUnit), c < 128 → u < 4 → 1 ≤ stream → stream ≤ 5 → s.watch.get? (4 * c + u) = some w →
    let f (lo n : Nat) : Nat := w.cfg.toNat / 2 ^ lo % 2 ^ n
    let hears : Prop := w.cfg.getLsbD 63 = true ∧ f 46 8 = stream ∧ (w.cfg.getLsbD 62 = true → f 54 8 = ctx)
    ∃ t, exec (.watchEvent (.core c) stream ctx v) s = .next t ∧ t.plies = s.plies ∧ t.mem = s.mem ∧
      (¬ hears → t.watch.get? (4 * c + u) = some w) ∧
      (hears → t.watch.get? (4 * c + u) = some { w with
        cnt := (w.cnt + 1) % 2 ^ 64, sum := min (w.sum + v) (2 ^ 64 - 1), min := min w.min v, max := max w.max v
        bins := w.bins.modify (min (if w.cfg.getLsbD 45 then (v - f 0 39) / 2 ^ f 39 6 else Nat.log2 (v + 1) - f 39 6) 15)
          (fun n => min (n + 1) (2 ^ 32 - 1)) })) ∧
  (∀ (s : State) (ctx : Nat) (c : Ctx), s.ctxs.get? ctx = some c →
    let va := c.word 13 &&& ~~~0xFFF
    (c.watchen.getLsbD 0 = false ∨ va = 0 ∨ c.killed = true → exec (.watchPageWrite ctx) s = .next s) ∧
    (c.watchen.getLsbD 0 = true → va ≠ 0 → c.killed = false → svcNeed s ctx 64 true [(va, 4096)] = none → exec (.watchPageWrite ctx) s = .next
      ((svcPut (svcPut (svcPut s ctx 64 va (bytesOf 8 (c.watchSeq + 1))) ctx 64 (va + 64) (c.watchUnits.flatMap (watchRecord s))) ctx 64 va
        (bytesOf 8 (c.watchSeq + 2))).modCtx ctx fun c => { c with watchSeq := c.watchSeq + 2 }))) ∧
  (∀ (s : State) (watts : Nat) (temps : List Nat),
    let cut := (if 3000 < watts ∧ s.refilled < s.drawn then 100 else 0) + if (∃ x ∈ temps, (105 + 256) * 16 < x) then 100 else 0
    ∃ t, exec (.powerWindow watts temps) s = .next t ∧ t.clock = max 1800 (s.clock - cut) ∧ t.drawn = 0 ∧ t.refilled = 0 ∧
      t.raiseAt = (if watts < 2900 ∧ (∀ x ∈ temps, x < (100 + 256) * 16) ∧ cut = 0 then s.raiseAt else s.tick) ∧
      Sends s t (.watchEvent .module 9 256 watts) ∧ t.plies = s.plies ∧ t.mem = s.mem) ∧
  (∀ (s : State), (s.clock < 2700 → s.raiseAt + 100000 ≤ s.tick →
      exec .clockRaise s = .next { s with clock := min 2700 (s.clock + 100), raiseAt := s.tick }) ∧
    (2700 ≤ s.clock ∨ s.tick < s.raiseAt + 100000 → exec .clockRaise s = .next s)) ∧
  (∀ (s : State) (x : ContextSpec),
    let w0 := recWord x.desc 0
    let n := w0.toNat / 2 ^ 56
    (w0.getLsbD 20 = true → s.fbcfg.getLsbD 16 = false → exec (.contextCreation x) s = .next s) ∧
    (s.ctxs.has n = true → hasLaunches s n = true → (s.ctx n).tenant ≠ w0.toNat / 2 ^ 53 % 8 → exec (.contextCreation x) s = .next s) ∧
    (w0.getLsbD 20 = false ∨ s.fbcfg.getLsbD 16 = true → s.ctxs.get? n = none → ∃ t c, exec (.contextCreation x) s = .next t ∧
      t.ctxs.get? n = some c ∧ (∀ i < 32, c.word i = x.desc.getD i (descReset i)) ∧ c.xvec = (x.xvec &&& ~~~0x7FF) ∧ c.killed = false ∧
      (∀ i < 64, c.vectors.getD i 0 = x.vectors.getD i 0 ∧ c.perms.getD i (0, 0) = x.perms.getD i (0, 0)) ∧
      (∀ i < 256, i < x.rat.length → c.rat[i]? = x.rat[i]?) ∧ c.mailPasid = x.mailboxPasid ∧ c.watchUnits = x.watchUnits.take 16 ∧ t.plies = s.plies ∧ t.mem = s.mem ∧
      ∀ m, m ≠ n → t.ctxs.get? m = s.ctxs.get? m)) ∧
  ∀ (s : State) (ctx : Nat),
    (s.ctxs.get? ctx = none → exec (.contextTeardown ctx) s = .next s) ∧
    (hasLaunches s ctx = true → (s.ctx ctx).killed = false → exec (.contextTeardown ctx) s = .next s) ∧
    ((s.ctxs.get? ctx).isSome = true → hasLaunches s ctx = false ∨ (s.ctx ctx).killed = true → ∃ t, exec (.contextTeardown ctx) s = .next t ∧
      (∀ n, n ≠ ctx → t.ctxs.get? n = s.ctxs.get? n) ∧ (∀ c, s.ctxs = [(ctx, c)] → t.ctxs = []) ∧ (∀ x ∈ t.plies, x.2.ctx ≠ ctx) ∧
      (∀ x ∈ t.skeins, x.2.ctx ≠ ctx) ∧ (∀ x ∈ t.launches, x.2.ctx ≠ ctx) ∧ (∀ x ∈ t.trees, x.2.ctx ≠ ctx) ∧ t.mem = s.mem)

/-! ## Steps, encodings, invariants, reset -/

/-- R18, R20, R384, R391: when no message is to be delivered and nothing else is due, the chosen ply fetches the one or two parcels at its PC
from where its translation leads, lowest byte first (or as its core's instruction cache still holds them; a line that only the host has
is waited for), and the step is exec of the
instruction they decode to, in the state that gives the ply the turn and keeps its parcels, followed by what `settle` adds; a deterministic
ply stops before a serial action instead. The model's own choice in it: log 89. -/
def Obligations.StepRunsDecoded : Prop :=
  (∀ (s : State) (p : Ply) (va : DWord) (loc : Nat), p.verdict = .retry → canonical va = true →
    let a := s.attrAt p.core p.ctx p.lid va
    let now := s.readByte a.key (loc + 1) ++ s.readByte a.key loc
    a.target = 0 → attrBad a = false → replBad a loc = false → (tierOf loc ≤ 1 → a.key / 8 = (s.ctx p.ctx).tenant) →
    lookup s p.core (s.ctx p.ctx).pasid va false false true = .ok loc →
    (codeHere s p a loc = true → (∀ x, (s.core p.core).code.get? loc = some x → x.parcel = now) → fetchParcel s p va = .ok now) ∧
    (codeHere s p a loc = true → ∃ q, fetchParcel s p va = .ok q ∧ (q = now ∨ ∃ x, (s.core p.core).code.get? loc = some x ∧ q = x.parcel)) ∧
    (codeHere s p a loc = false → (s.core p.core).code.get? loc = none → fetchParcel s p va = .line va loc)) ∧
  (∀ (s : State) (p : Ply) (lo hi : Parcel) (i : Instr), fetchParcel s p p.pc = .ok lo →
    (lo.getLsbD 0 = false → decodeBytes [lo.extractLsb' 0 8, lo.extractLsb' 8 8] = .ok (i, []) → fetch s p = .ok i) ∧
    (lo.getLsbD 0 = true → fetchParcel s p (p.pc + 2) = .ok hi →
      decodeBytes [lo.extractLsb' 0 8, lo.extractLsb' 8 8, hi.extractLsb' 0 8, hi.extractLsb' 8 8] = .ok (i, []) → fetch s p = .ok i)) ∧
  (∀ (s : State) (key : Nat) (turn : Turn) (p : Ply) (i : Instr), s.phase = .running → takeNet s = none → dueStep s = none →
    chooseTurn s = some (key, turn) → s.plies.get? key = some p → fetch s p = .ok i →
    (stopsFor s key p turn i = false → ∀ t, exec i (takeTurn (keepCode s p i) key p turn) = .next t → step s = .next (settle s key p i t)) ∧
    (stopsFor s key p turn i = false → ∀ f, exec i (takeTurn (keepCode s p i) key p turn) = .fault f → step s = .fault f) ∧
    (stopsFor s key p turn i = true → step s = .next (noteSerial s p.ctx key p))) ∧
  ∀ (s : State) (p : Ply) (i : Instr), keepCode s p i = { s with cores := (keepCode s p i).cores }

/-- R22: the parcel 0x0000 at a ply's PC is no instruction: the ply takes the trap ILLEGAL, with XVAL 0. -/
def Obligations.ZeroParcelTraps : Prop :=
  (∀ rest : List Byte, decodeBytes (0 :: 0 :: rest) = .error .zeroParcel) ∧
  ∀ (s : State) (key : Nat) (turn : Turn) (p : Ply), s.phase = .running → takeNet s = none → dueStep s = none →
    chooseTurn s = some (key, turn) → s.plies.get? key = some p → fetchParcel s p p.pc = .ok 0 → s.det p = false →
    step s = .next (takeTrap s key 0x01 0 p.pc)

/-- R24, R25, R27, R34 to R38: words written out from the encodings of the spec are the instructions they stand for. -/
def Obligations.DecodeWords : Prop :=
  let word (w : Word) (i : Instr) : Prop :=
    decodeBytes [w.extractLsb' 0 8, w.extractLsb' 8 8, w.extractLsb' 16 8, w.extractLsb' 24 8] = .ok (i, [])
  word 0x42041285 (.icmp ⟨false, .v 4⟩ (.v 9) 2 2 false) ∧
  word 0x018304E5 (.shflx (.v 2) ⟨true, .v 3⟩ 1 false) ∧
  word 0xF0C41525 (.st (.v 10) 4 (.v 6) 3 3 false) ∧
  word 0xD046093B (.atom (.v 4) 6 (.v 2) 13 true) ∧
  word 0x8B4AD157 (.mona (.s 8) 10 .zero 0 2 true) ∧
  word 0x0069B559 (.waitm ⟨false, .s 9⟩ false) ∧
  word 0x402A0949 (.tldt (.v 4) 10 (.v 1) 0 true false) ∧
  word 0x6203D3AD (.bar (.s 9) ⟨false, .v 3⟩ 2 3 false) ∧
  word 0x606CD5B9 (.tktTake (.s 10) ⟨false, .s 12⟩ 3 false) ∧
  word 0x015AD9C9 (.tlrd (.s 12) true false) ∧
  word 0x0168E9E5 (.spawn (.s 20) ⟨false, .s 8⟩ 1 false) ∧
  decodeBytes [0xCC, 0xF0] = .ok (.iaddi5H (.v 3) 30 false, [])

/-- R18, R23 to R38: decoding the words of an instruction that R40 accepts gives it back, with every operand, and the bytes behind it. -/
def Obligations.DecodeOfEncode : Prop :=
  ∀ (i : Instr) (rest : List Byte), i.WellFormed → encode i ≠ .none → decodeBytes ((encode i).bytes ++ rest) = .ok (i, rest)

/-- Every step keeps the module's memory in canonical form: locations strictly rising, no byte 0 listed. That an unlisted byte reads 0 is
the model's choice (log 7). -/
def Obligations.MemoryStaysCanonical : Prop := ∀ s t : State, s.MemOk → step s = .next t → t.MemOk

/-- R213, R325, R397, R412: every step keeps the parts of the cores, skeins and contexts: tile memory in canonical form, four spindles,
sixteen barriers, sixty-four vectors. The model's own choices
in it: log 13. -/
def Obligations.PartsStayFormed : Prop := ∀ s t : State, Formed s → step s = .next t → Formed t

/-- R79, R104, R467: after reset the wheel and the fault buffer's registers hold the values of their tables; no ply, skein, launch or context
exists, memory lists nothing, and the first step is the boot ROM's. The model's own choices
in it: log 4, log 8. -/
def Obligations.ResetState : Prop :=
  State.reset.wheel = [0xA832107698543210, 0xA876543298107654, 0xA832107698543210, 0xA876543298107654, 0] ∧
  State.reset.fbcfg = 0x0F ∧ State.reset.fbcnt = [0, 0, 0, 0] ∧ State.reset.phase = .reset ∧ State.reset.plies = [] ∧
  State.reset.skeins = [] ∧ State.reset.launches = [] ∧ State.reset.ctxs = [] ∧ State.reset.mem = [] ∧ State.reset.MemOk ∧
  Formed State.reset ∧ step State.reset = exec .moduleReset State.reset
end

