-- ==== Sys2Proof/Laws/Table.lean ====
section
/-! SUPPORT. What the operations on tables do to the values under their keys. -/

namespace Sys2Proof

variable {α : Type}

@[simp] theorem Table.get?_nil (k : Nat) : Table.get? ([] : Table α) k = none := rfl

@[simp] theorem Table.get?_set_self (t : Table α) (k : Nat) (x : α) : (t.set k x).get? k = some x := by
  induction t with
  | nil => simp [Table.set, Table.get?]
  | cons e t ih =>
    obtain ⟨j, a⟩ := e
    simp only [Table.set]
    split
    · rename_i h
      simp [Table.get?, Nat.ne_of_lt h, ih]
    · split <;> simp [Table.get?]

@[simp] theorem Table.get?_set_other (t : Table α) {k j : Nat} (x : α) (h : j ≠ k) : (t.set k x).get? j = t.get? j := by
  induction t with
  | nil => simp [Table.set, Table.get?, Ne.symm h]
  | cons e t ih =>
    obtain ⟨i, a⟩ := e
    simp only [Table.set]
    split
    · simp [Table.get?, ih]
    · split
      · rename_i hk
        subst hk
        simp [Table.get?, Ne.symm h]
      · simp [Table.get?, Ne.symm h]

theorem Table.get?_set (t : Table α) (k j : Nat) (x : α) : (t.set k x).get? j = if j = k then some x else t.get? j := by
  by_cases h : j = k
  · subst h; simp
  · simp [h]

@[simp] theorem Table.get?_erase_other (t : Table α) {k j : Nat} (h : j ≠ k) : (t.erase k).get? j = t.get? j := by
  induction t with
  | nil => rfl
  | cons e t ih =>
    obtain ⟨i, a⟩ := e
    simp only [Table.erase]
    split
    · rename_i hk
      subst hk
      simp [Table.get?, Ne.symm h]
    · simp [Table.get?, ih]

@[simp] theorem Table.get?_modify_self (t : Table α) (k : Nat) (f : α → α) : (t.modify k f).get? k = (t.get? k).map f := by
  unfold Table.modify
  cases h : t.get? k <;> simp [h]

@[simp] theorem Table.get?_modify_other (t : Table α) {k j : Nat} (f : α → α) (h : j ≠ k) : (t.modify k f).get? j = t.get? j := by
  unfold Table.modify
  cases t.get? k <;> simp [h]

theorem Table.set_set (t : Table α) (k : Nat) (x y : α) : (t.set k x).set k y = t.set k y := by
  induction t with
  | nil => simp [Table.set]
  | cons e t ih =>
    obtain ⟨i, a⟩ := e
    simp only [Table.set]
    split
    · rename_i h
      simp [Table.set, h, ih]
    · split
      · simp [Table.set]
      · simp [Table.set]

end Sys2Proof
end

