-- ==== Sys2Proof/Laws/Issue.lean ====
section
/-! SUPPORT. What reading, issuing and completing an instruction can do, once for every instruction. -/

namespace Sys2Proof.Machine

/-! ## Register writes touch registers only -/

/-- The fields that hold register values may differ; every other is equal. -/
def RegsOnly (p q : Ply) : Prop :=
  q = { p with v := q.v, s := q.s, o := q.o, banks := q.banks, lx := q.lx, ly := q.ly, p := q.p, q := q.q }

theorem RegsOnly.refl (p : Ply) : RegsOnly p p := rfl

theorem RegsOnly.trans {p q r : Ply} (h : RegsOnly p q) (g : RegsOnly q r) : RegsOnly p r := by
  unfold RegsOnly at *
  rw [g, h]

theorem setONow_regsOnly (p : Ply) (l : List OEntry) : RegsOnly p (p.setONow l) := by
  unfold RegsOnly Ply.setONow
  split <;> rfl

theorem write_regsOnly (p : Ply) (w : Write) : RegsOnly p (p.write w) := by
  unfold Ply.write
  split
  · rfl
  · exact setONow_regsOnly _ _
  all_goals rfl

theorem vacate_regsOnly (p : Ply) (sl : Slot) : RegsOnly p (p.vacate sl) := by
  unfold Ply.vacate
  split
  · rfl
  · exact setONow_regsOnly _ _
  all_goals rfl

theorem foldl_regsOnly {β : Type} (f : Ply → β → Ply) (hf : ∀ p x, RegsOnly p (f p x)) (l : List β) (p : Ply) :
    RegsOnly p (l.foldl f p) := by
  induction l generalizing p with
  | nil => rfl
  | cons x l ih => exact (hf p x).trans (ih _)

theorem vacated_regsOnly (i : Instr) (p : Ply) : RegsOnly p (vacated i p) :=
  foldl_regsOnly _ (fun p _ => foldl_regsOnly _ vacate_regsOnly _ p) _ p

theorem commit_eq (p : Ply) (t : Nat) (b : Bool) : ∃ q, RegsOnly p q ∧ p.commit t b = { q with pend := (p.commit t b).pend } := by
  refine ⟨(p.pend.filter fun x => decide (x.due ≤ x.write.readAt t b)).foldl (fun q x => q.write x.write) p, ?_, rfl⟩
  exact foldl_regsOnly (fun q (x : Pend) => q.write x.write) (fun p (x : Pend) => write_regsOnly p x.write) _ p

/-- What making the due writes leaves alone. -/
theorem commit_keeps (p : Ply) (t : Nat) (b : Bool) :
    p.commit t b = { p with
      v := (p.commit t b).v, s := (p.commit t b).s, o := (p.commit t b).o, banks := (p.commit t b).banks, lx := (p.commit t b).lx
      ly := (p.commit t b).ly, p := (p.commit t b).p, q := (p.commit t b).q, pend := (p.commit t b).pend } := by
  obtain ⟨q, hq, he⟩ := commit_eq p t b
  rw [he]
  unfold RegsOnly at hq
  rw [hq]

section
variable (p : Ply) (t : Nat) (b : Bool)
@[simp] theorem commit_core : (p.commit t b).core = p.core := by rw [commit_keeps]
@[simp] theorem commit_slot : (p.commit t b).slot = p.slot := by rw [commit_keeps]
@[simp] theorem commit_plyid : (p.commit t b).plyid = p.plyid := by rw [commit_keeps]
@[simp] theorem commit_ctx : (p.commit t b).ctx = p.ctx := by rw [commit_keeps]
@[simp] theorem commit_lid : (p.commit t b).lid = p.lid := by rw [commit_keeps]
@[simp] theorem commit_skix : (p.commit t b).skix = p.skix := by rw [commit_keeps]
@[simp] theorem commit_width : (p.commit t b).width = p.width := by rw [commit_keeps]
@[simp] theorem commit_role : (p.commit t b).role = p.role := by rw [commit_keeps]
@[simp] theorem commit_base : (p.commit t b).base = p.base := by rw [commit_keeps]
@[simp] theorem commit_ext : (p.commit t b).ext = p.ext := by rw [commit_keeps]
@[simp] theorem commit_pc : (p.commit t b).pc = p.pc := by rw [commit_keeps]
@[simp] theorem commit_em : (p.commit t b).em = p.em := by rw [commit_keeps]
@[simp] theorem commit_tlive : (p.commit t b).tlive = p.tlive := by rw [commit_keeps]
@[simp] theorem commit_lyNew : (p.commit t b).lyNew = p.lyNew := by rw [commit_keeps]
@[simp] theorem commit_out : (p.commit t b).out = p.out := by rw [commit_keeps]
@[simp] theorem commit_stack : (p.commit t b).stack = p.stack := by rw [commit_keeps]
@[simp] theorem commit_floor : (p.commit t b).floor = p.floor := by rw [commit_keeps]
@[simp] theorem commit_tl : (p.commit t b).tl = p.tl := by rw [commit_keeps]
@[simp] theorem commit_stat : (p.commit t b).stat = p.stat := by rw [commit_keeps]
@[simp] theorem commit_frm : (p.commit t b).frm = p.frm := by rw [commit_keeps]
@[simp] theorem commit_mon : (p.commit t b).mon = p.mon := by rw [commit_keeps]
@[simp] theorem commit_owe : (p.commit t b).owe = p.owe := by rw [commit_keeps]
@[simp] theorem commit_held : (p.commit t b).held = p.held := by rw [commit_keeps]
@[simp] theorem commit_stage : (p.commit t b).stage = p.stage := by rw [commit_keeps]
@[simp] theorem commit_strict : (p.commit t b).strict = p.strict := by rw [commit_keeps]
@[simp] theorem commit_work : (p.commit t b).work = p.work := by rw [commit_keeps]
@[simp] theorem commit_retired : (p.commit t b).retired = p.retired := by rw [commit_keeps]
@[simp] theorem commit_quant : (p.commit t b).quant = p.quant := by rw [commit_keeps]
@[simp] theorem commit_waited : (p.commit t b).waited = p.waited := by rw [commit_keeps]
@[simp] theorem commit_verdict : (p.commit t b).verdict = p.verdict := by rw [commit_keeps]
@[simp] theorem commit_batch : (p.commit t b).batch = p.batch := by rw [commit_keeps]
@[simp] theorem commit_partKey : (p.commit t b).partKey = p.partKey := by simp [Ply.partKey]
@[simp] theorem commit_skeinKey : (p.commit t b).skeinKey = p.skeinKey := by simp [Ply.skeinKey]
end

/-! ## Issue -/

theorem dynIllegal_commit (i : Instr) (s : State) (p : Ply) (t k : Nat) (b : Bool) (c : Ply) (n : Nat) :
    dynIllegal { s.setPly k c with cycle := n } (p.commit t b) i = dynIllegal s p i := by
  have hr : ({ s.setPly k c with cycle := n } : State).launchRec (p.commit t b) = s.launchRec p := by
    simp [State.launchRec, State.skein?, State.setPly]
  unfold dynIllegal
  simp only [hr, commit_role, commit_width]

theorem regpool_commit (i : Instr) (p : Ply) (t : Nat) (b : Bool) : (p.commit t b).regpool i = p.regpool i := by
  simp only [Ply.regpool, Ply.regpoolOf, commit_ext, commit_base]

/-- An instruction that is ready issues: its meaning runs on the state at its issue cycle, and its ending is carried out. -/
theorem issue_ready {i : Instr} {s : State} {key : Nat} {p : Ply} (h : Ready i s key p) (body : Env → State → Res) :
    issue i body s = .next (match body (envOf i s key p) (baseOf i s key p) with
      | .done s' e => finish i (envOf i s key p) (heldOf i s p) e s'
      | .wait s' c stage => s'.modPly key fun q => q.waitOn c stage (if stage = 0 then none else some (heldOf i s p))
      | .trap cause val => takeTrap (baseOf i s key p) key cause val p.pc
      | .gone s' => s') := by
  unfold issue
  simp only [h.turn, h.here]
  unfold issueFor
  have e1 : max s.cycle (p.readyAt i) = issueAt i s p := rfl
  have e2 : p.commit (issueAt i s p) (readsBeats i) = issuePly i s p := rfl
  simp only [e1, e2]
  have hs : (issuePly i s p).stage = p.stage := by simp [issuePly]
  have hp : (issuePly i s p).pc = p.pc := by simp [issuePly]
  have hh : (issuePly i s p).held = p.held := by simp [issuePly]
  cases hc : p.held with
  | some hl =>
    have he : envOf i s key p = ⟨key, issuePly i s p, issueAt i s p, hl.ops, hl.preds, p.stage,
        p.pc + BitVec.ofNat 64 (encode i).size, (encode i).value⟩ := by simp [envOf, heldOf, hc]
    have hb : baseOf i s key p = ({ s.setPly key (issuePly i s p) with cycle := issueAt i s p } : State).modPly key
        (fun q => { q with park := .none }) := by
      simp [baseOf, issued, freeOf, hc, State.modPly, State.setPly, Table.modify, Table.set_set]
    have hd : heldOf i s p = hl := by simp [heldOf, hc]
    rw [he, hb, hd]
    simp only [hh, hc, hs, hp] <;> rfl
  | none =>
    have f := h.fresh hc
    have hb : baseOf i s key p = { { s.setPly key (issuePly i s p) with cycle := issueAt i s p } with
        free := ((issuePly i s p).readAll (issueAt i s p) i s.free).2 } := by
      simp [baseOf, issued, freeOf, hc, State.setPly]
    have hd : heldOf i s p = ((issuePly i s p).readAll (issueAt i s p) i s.free).1 := by simp [heldOf, hc]
    have h2 : dynIllegal { s.setPly key (issuePly i s p) with cycle := issueAt i s p } (issuePly i s p) i = false := by
      unfold issuePly
      rw [dynIllegal_commit]
      exact f.declared
    have h3 : ¬ (issuePly i s p).tl < levelOf i := by
      simp only [issuePly, commit_tl]
      exact Nat.not_lt.2 f.level
    have h4 : (issuePly i s p).regpool i = none := by
      unfold issuePly
      rw [regpool_commit]
      exact f.pool
    have h5 : (afterStrict i && decide ((issuePly i s p).strict ≠ 0)) = false := by
      cases ha : afterStrict i with
      | false => rfl
      | true => simp [issuePly, f.strict ha]
    have h6 : (landsOf i && decide (8 ≤ (issuePly i s p).out.length)) = false := by
      cases ha : landsOf i with
      | false => rfl
      | true => simpa [issuePly] using f.room ha
    have h7 : (if ({ s.setPly key (issuePly i s p) with cycle := issueAt i s p } : State).debug (issuePly i s p) &&
        !(i.shape.thread && decide ((issuePly i s p).em = 0)) then (issuePly i s p).debugTrap (issueAt i s p) i else none) = none := by
      have hdb : ({ s.setPly key (issuePly i s p) with cycle := issueAt i s p } : State).debug (issuePly i s p) = s.debug p := by
        simp [State.debug, State.setPly, issuePly]
      have hem : (issuePly i s p).em = p.em := by simp [issuePly]
      rw [hdb, hem]
      cases hg : s.debug p with
      | false => rfl
      | true =>
        rcases f.plain hg with h8 | h8
        · simp [h8.1, h8.2]
        · simp [h8]
    simp only [hh, hc, h.legal, h2, h3, h4, h5, h6, h7, Bool.not_true, Bool.or_self, Bool.false_eq_true, if_false]
    rw [hb]
    simp only [hs, hp, envOf, hd]
    rfl

/-! ## Completion -/

theorem realWrites_dst (d : Name) (w : Width) (m : DWord) (vals : List QWord) (hm : m ≠ 0 ∨ d.isS = true) :
    realWrites (dstWrites d w m vals) = dstWrites d w m vals := by
  unfold realWrites
  rw [List.filter_eq_self]
  intro x hx
  unfold dstWrites at hx
  cases d <;> cases w <;> simp_all [Name.isS] <;> rcases hx with rfl | rfl | rfl | rfl <;> simp_all

theorem realWrites_dst_zero (d : Name) (w : Width) (vals : List QWord) (hd : d.isS = false) :
    realWrites (dstWrites d w 0 vals) = [] := by
  unfold realWrites
  rw [List.filter_eq_nil_iff]
  intro x hx
  unfold dstWrites at hx
  cases d <;> cases w <;> simp_all [Name.isS] <;> rcases hx with rfl | rfl | rfl | rfl <;> simp_all

/-- Where a lane instruction writes: nowhere but its destination, and nothing without an active thread. -/
theorem realWrites_lane (i : Instr) (v : Env) (d : Name) (w : Width) (g : Nat → QWord) (hu : d.isS = i.shape.uniform) :
    realWrites (laneEffect i v d w g).writes = laneWrites i v.p d w g := by
  unfold laneEffect laneWrites
  cases hi : i.shape.uniform with
  | true => simpa [hi] using realWrites_dst d w 1 [g 0] (.inl (by decide))
  | false =>
    by_cases he : v.p.em = 0
    · simp only [Bool.false_eq_true, if_false, he]
      exact realWrites_dst_zero d w _ (by rw [hu, hi])
    · simp only [Bool.false_eq_true, if_false, if_neg he]
      exact realWrites_dst d w _ _ (.inl he)

/-- The state after completing an instruction whose ply still exists. -/
theorem finish_eq (i : Instr) (v : Env) (hl : Held) (e : Effect) {s : State} {p : Ply} (h : s.plies.get? v.key = some p) :
    finish i v hl e s = (s.setPly v.key (finishPly i v hl e p)).modPart p.partKey
      fun pt => { pt with stageFree := max pt.stageFree (v.t + v.p.hold i) } := by
  unfold finish
  rw [h]

/-- Completing leaves everything but its ply and an issue stage as it was. -/
theorem finish_rest (i : Instr) (v : Env) (hl : Held) (e : Effect) (s : State) :
    finish i v hl e s = { s with plies := (finish i v hl e s).plies, parts := (finish i v hl e s).parts } := by
  unfold finish
  split <;> rfl

theorem finish_plies (i : Instr) (v : Env) (hl : Held) (e : Effect) {s : State} {p : Ply} (h : s.plies.get? v.key = some p) :
    (finish i v hl e s).plies = s.plies.set v.key (finishPly i v hl e p) := by
  rw [finish_eq i v hl e h]
  rfl

section
variable (i : Instr) (v : Env) (hl : Held) (e : Effect) (m : DWord) (lt : Option (List DWord)) (p : Ply)

theorem IssueOnly.refl : IssueOnly p p := rfl

theorem IssueOnly.trans {p q r : Ply} (h : IssueOnly p q) (g : IssueOnly q r) : IssueOnly p r := by
  unfold IssueOnly at *
  rw [g, h]

theorem noteReads_only : IssueOnly p (noteReads i hl p) := by
  unfold noteReads
  split <;> rfl

theorem settleLy_only : IssueOnly p (settleLy p) := by
  unfold settleLy
  split <;> rfl

theorem latched_only : IssueOnly p (latched i m lt p) := by
  unfold latched
  split
  · rfl
  · split
    · rfl
    · split <;> rfl

theorem advanced_only : IssueOnly p (advanced i v e p) := rfl

theorem settlePark_only : IssueOnly p (settlePark p) := by
  unfold settlePark
  split <;> rfl

/-- The fields of a ply that completing an instruction changes. -/
theorem finishPly_only : IssueOnly (vacated i p) (finishPly i v hl e p) :=
  (noteReads_only i hl _).trans ((settleLy_only _).trans ((latched_only i _ _ _).trans
    ((advanced_only i v e _).trans (settlePark_only _))))

theorem settlePark_field {β : Type} (f : Ply → β) (h : ∀ q : Ply, f q.dropLatches = f q) : f (settlePark p) = f p := by
  unfold settlePark
  split
  · rfl
  · exact h p

theorem before_pend : (latched i m lt (settleLy (noteReads i hl (vacated i p)))).pend = p.pend := by
  have h1 := vacated_regsOnly i p
  have h2 : ∀ q : Ply, (noteReads i hl q).pend = q.pend := fun q => by unfold noteReads; split <;> rfl
  have h3 : ∀ q : Ply, (settleLy q).pend = q.pend := fun q => by unfold settleLy; split <;> rfl
  have h4 : ∀ q : Ply, (latched i m lt q).pend = q.pend := fun q => by
    unfold latched
    split
    · rfl
    · split
      · rfl
      · split <;> rfl
  rw [h4, h3, h2, h1]

theorem before_out : (latched i m lt (settleLy (noteReads i hl (vacated i p)))).out = p.out := by
  have h1 := vacated_regsOnly i p
  have h2 : ∀ q : Ply, (noteReads i hl q).out = q.out := fun q => by unfold noteReads; split <;> rfl
  have h3 : ∀ q : Ply, (settleLy q).out = q.out := fun q => by unfold settleLy; split <;> rfl
  have h4 : ∀ q : Ply, (latched i m lt q).out = q.out := fun q => by
    unfold latched
    split
    · rfl
    · split
      · rfl
      · split <;> rfl
  rw [h4, h3, h2, h1]

theorem before_retired : (latched i m lt (settleLy (noteReads i hl (vacated i p)))).retired = p.retired := by
  have h1 := vacated_regsOnly i p
  have h2 : ∀ q : Ply, (noteReads i hl q).retired = q.retired := fun q => by unfold noteReads; split <;> rfl
  have h3 : ∀ q : Ply, (settleLy q).retired = q.retired := fun q => by unfold settleLy; split <;> rfl
  have h4 : ∀ q : Ply, (latched i m lt q).retired = q.retired := fun q => by
    unfold latched
    split
    · rfl
    · split
      · rfl
      · split <;> rfl
  rw [h4, h3, h2, h1]

theorem before_stat : (latched i m lt (settleLy (noteReads i hl (vacated i p)))).stat = (noteReads i hl p).stat := by
  have h1 := vacated_regsOnly i p
  have h2 : (noteReads i hl (vacated i p)).stat = (noteReads i hl p).stat := by
    unfold RegsOnly at h1
    rw [h1]
    unfold noteReads
    split <;> rfl
  have h3 : ∀ q : Ply, (settleLy q).stat = q.stat := fun q => by unfold settleLy; split <;> rfl
  have h4 : ∀ q : Ply, (latched i m lt q).stat = q.stat := fun q => by
    unfold latched
    split
    · rfl
    · split
      · rfl
      · split <;> rfl
  rw [h4, h3, h2]

@[simp] theorem finishPly_pc : (finishPly i v hl e p).pc = e.target.getD v.next := settlePark_field (f := (·.pc)) _ fun _ => rfl
@[simp] theorem finishPly_park : (finishPly i v hl e p).park = parkAfter i e.park := settlePark_field (f := (·.park)) _ fun _ => rfl
@[simp] theorem finishPly_out : (finishPly i v hl e p).out = p.out ++ e.land.toList :=
  (settlePark_field (f := (·.out)) _ fun _ => rfl).trans (congrArg (· ++ e.land.toList) (before_out i hl _ _ p))
@[simp] theorem finishPly_retired : (finishPly i v hl e p).retired = p.retired + 1 :=
  (settlePark_field (f := (·.retired)) _ fun _ => rfl).trans (congrArg (· + 1) (before_retired i hl _ _ p))
theorem finishPly_stat : (finishPly i v hl e p).stat = (noteReads i hl p).stat :=
  (settlePark_field (f := (·.stat)) _ fun _ => rfl).trans (before_stat i hl _ _ p)
theorem finishPly_pend : (finishPly i v hl e p).pend =
    (match e.lat with
    | some n => pendWhole v.t n (realWrites e.writes) p.pend
    | none => pendWith v.t (latency (pipeOf i)) (realWrites e.writes) p.pend) := by
  refine (settlePark_field (f := (·.pend)) _ fun _ => rfl).trans ?_
  show (match e.lat with
    | some n => pendWhole v.t n (realWrites e.writes) (latched i _ e.latch _).pend
    | none => pendWith v.t (latency (pipeOf i)) (realWrites e.writes) (latched i _ e.latch _).pend) = _
  rw [before_pend]
@[simp] theorem finishPly_held : (finishPly i v hl e p).held = none := settlePark_field (f := (·.held)) _ fun _ => rfl
@[simp] theorem finishPly_stage : (finishPly i v hl e p).stage = 0 := settlePark_field (f := (·.stage)) _ fun _ => rfl

end

theorem vacate_latches (p : Ply) (sl : Slot) : (p.vacate sl).lx = p.lx ∧ (p.vacate sl).ly = p.ly := by
  unfold Ply.vacate Ply.setONow
  split
  · exact ⟨rfl, rfl⟩
  · split <;> exact ⟨rfl, rfl⟩
  all_goals exact ⟨rfl, rfl⟩

theorem foldl_latches {β : Type} (f : Ply → β → Ply) (hf : ∀ p x, (f p x).lx = p.lx ∧ (f p x).ly = p.ly) (l : List β) (p : Ply) :
    (l.foldl f p).lx = p.lx ∧ (l.foldl f p).ly = p.ly := by
  induction l generalizing p with
  | nil => exact ⟨rfl, rfl⟩
  | cons x l ih => exact ⟨(ih _).1.trans (hf p x).1, (ih _).2.trans (hf p x).2⟩

theorem vacated_latches (i : Instr) (p : Ply) : (vacated i p).lx = p.lx ∧ (vacated i p).ly = p.ly :=
  foldl_latches _ (fun p _ => foldl_latches _ vacate_latches _ p) _ p

/-- The latches after an instruction that issues on. -/
theorem finishPly_latch (i : Instr) (v : Env) (hl : Held) (e : Effect) (p : Ply) (hm : e.latchMask = none) (hv : v.p.em = p.em)
    (hk : e.park = .none) : LatchAfter i p e.latch (finishPly i v hl e p) := by
  have hn : (noteReads i hl (vacated i p)).lx = p.lx ∧ (noteReads i hl (vacated i p)).ly = p.ly ∧
      (noteReads i hl (vacated i p)).lyNew = p.lyNew ∧ (noteReads i hl (vacated i p)).width = p.width := by
    have h1 := vacated_latches i p
    have h2 : (vacated i p).lyNew = p.lyNew ∧ (vacated i p).width = p.width := by rw [vacated_regsOnly i p]; exact ⟨rfl, rfl⟩
    unfold noteReads
    split <;> exact ⟨h1.1, h1.2, h2.1, h2.2⟩
  have hp : (advanced i v e (latched i (e.latchMask.getD v.p.em) e.latch (settleLy (noteReads i hl (vacated i p))))).park =
      if i.sw then .switch else .none := by
    show parkAfter i e.park = _
    rw [hk]
    rfl
  generalize hq : noteReads i hl (vacated i p) = q at *
  unfold finishPly
  rw [hq]
  unfold settlePark
  rw [hp, hm, Option.getD_none, hv]
  unfold LatchAfter
  cases hs : i.sw with
  | true => exact ⟨rfl, rfl, rfl⟩
  | false =>
    have hy : (settleLy q).lx = p.lx ∧ (settleLy q).ly = lyAfter p ∧ (settleLy q).lyNew = none ∧
        (settleLy q).width = p.width := by
      unfold settleLy lyAfter
      rw [← hn.2.2.1]
      cases hw : q.lyNew with
      | none => exact ⟨hn.1, hn.2.1, hw, hn.2.2.2⟩
      | some w =>
        refine ⟨hn.1, ?_, rfl, hn.2.2.2⟩
        show q.ly.write q.width w.mask w.vals = _
        rw [hn.2.1, hn.2.2.2]
    generalize settleLy q = r at *
    have hl : (latched i p.em e.latch r).lx = lxAfter i p e.latch ∧ (latched i p.em e.latch r).ly = r.ly ∧
        (latched i p.em e.latch r).lyNew = lyNewAfter i p e.latch := by
      unfold latched lxAfter lyNewAfter
      cases e.latch with
      | none => exact ⟨hy.1, rfl, hy.2.2.1⟩
      | some vals =>
        by_cases he : p.em = 0#64
        · simp [he, hy.1, hy.2.2.1]
        · cases hu : i.shape.uniform with
          | true => simp [hy.1, hy.2.2.1]
          | false => cases hpi : i.shape.pipe <;> simp [he, hy]
    exact ⟨hl.1, hl.2.1.trans hy.2.1, hl.2.2⟩

end Sys2Proof.Machine
end

