-- ==== Sys2Proof/Laws/Lanes.lean ====
section
/-! SUPPORT. What a lane instruction does, once for all of them: from its value in each thread to its next state. -/

namespace Sys2Proof.Machine

/-- The base state holds the ply at its issue cycle. -/
@[simp] theorem baseOf_self (i : Instr) (s : State) (key : Nat) (p : Ply) : (baseOf i s key p).plies.get? key = some (issued i s p) :=
  Table.get?_set_self _ _ _

theorem baseOf_others (i : Instr) (s : State) (key : Nat) (p : Ply) {k : Nat} (h : k ≠ key) :
    (baseOf i s key p).plies.get? k = s.plies.get? k := Table.get?_set_other _ _ h

/-- The ply as its instruction runs differs from the ply at the issue cycle in the park only. -/
theorem issued_eq (i : Instr) (s : State) (p : Ply) : issued i s p = { issuePly i s p with park := (issued i s p).park } := by
  unfold issued
  split <;> rfl

theorem issued_stat (i : Instr) (s : State) (p : Ply) :
    ({ issued i s p with stat := p.stat ||| (0 : FFlags).setWidth 64 } : Ply) = issued i s p := by
  have h : (issued i s p).stat = p.stat ||| (0 : FFlags).setWidth 64 := by
    rw [issued_eq]
    simp [issuePly]
  rw [← h]

/-- A ply with another PLYSTAT and park. -/
def withStat (x : DWord × Park) (p : Ply) : Ply := { p with stat := x.1, park := x.2 }

theorem vacate_stat (x : DWord × Park) (p : Ply) (sl : Slot) : Ply.vacate (withStat x p) sl = withStat x (p.vacate sl) := by
  unfold Ply.vacate
  split
  · rfl
  · unfold Ply.setONow Ply.oNow withStat
    cases p.banks <;> rfl
  all_goals rfl

theorem foldl_stat {β : Type} (x : DWord × Park) (f : Ply → β → Ply) (hf : ∀ p b, f (withStat x p) b = withStat x (f p b)) (l : List β)
    (p : Ply) : l.foldl f (withStat x p) = withStat x (l.foldl f p) := by
  induction l generalizing p with
  | nil => rfl
  | cons b l ih => rw [List.foldl_cons, hf, ih, List.foldl_cons]

theorem vacated_stat (i : Instr) (x : DWord × Park) (p : Ply) : vacated i (withStat x p) = withStat x (vacated i p) :=
  foldl_stat x (fun (p : Ply) (u : Use) => (slotsOf u.name u.width).foldl Ply.vacate p)
    (fun p _ => foldl_stat x _ (vacate_stat x) _ p) _ p

/-- Completing results and a latch value on a state that is the base state but for the sticky flags of the ply. -/
theorem lane_done {i : Instr} {s : State} {key : Nat} {p : Ply} (ws : List Write) (lt : Option (List DWord)) (fl : FFlags)
    (s' : State) (hs : s' = { baseOf i s key p with plies := s'.plies })
    (hp : s'.plies.get? key = some { issued i s p with stat := p.stat ||| fl.setWidth 64 })
    (ho : ∀ k, k ≠ key → s'.plies.get? k = s.plies.get? k) :
    ∃ q, LaneDone i s key p (realWrites ws) lt fl
      (finish i (envOf i s key p) (heldOf i s p) { writes := ws, latch := lt } s') q := by
  rw [issued_eq] at hp
  generalize (issued i s p).park = pk at hp
  generalize hc : ({ issuePly i s p with park := pk, stat := p.stat ||| fl.setWidth 64 } : Ply) = c at *
  have hpl := finish_plies i (envOf i s key p) (heldOf i s p) { writes := ws, latch := lt } (s := s') (p := c) hp
  have hk : (envOf i s key p).key = key := rfl
  refine ⟨finishPly i (envOf i s key p) (heldOf i s p) { writes := ws, latch := lt } c, ?_⟩
  constructor
  · rw [hpl, hk]; simp
  · simp [envOf]
  · rw [finishPly_pend]
    subst hc
    rfl
  · rw [finishPly_out]
    subst hc
    simp [issuePly]
  · rw [finishPly_park]; rfl
  · have := finishPly_latch i (envOf i s key p) (heldOf i s p) { writes := ws, latch := lt } c rfl (by subst hc; rfl) rfl
    subst hc
    exact this
  · rw [finishPly_retired]
    subst hc
    simp [issuePly]
  · rw [finishPly_stat]
    subst hc
    unfold noteReads
    have he : (issuePly i s p).em = p.em := by simp [issuePly]
    by_cases h : i.shape.thread = true ∧ p.em = 0
    · simp [h.1, h.2, he]
    · have h' : (i.shape.thread && decide ((issuePly i s p).em = 0)) = false := by
        rw [he]
        cases ht : i.shape.thread with
        | false => rfl
        | true => simpa using fun hz => h ⟨ht, hz⟩
      simp only [h', if_neg h, Bool.false_eq_true, if_false, BitVec.or_assoc]
  · have h1 := finishPly_only i (envOf i s key p) (heldOf i s p) { writes := ws, latch := lt } c
    have h2 : vacated i c = { vacated i (issuePly i s p) with stat := (vacated i c).stat, park := (vacated i c).park } := by
      have hw : c = withStat (p.stat ||| fl.setWidth 64, pk) (issuePly i s p) := hc.symm
      rw [hw, vacated_stat]
      rfl
    unfold IssueOnly at *
    rw [h1, h2]
  · constructor
    · rw [finish_rest, hs]
      rfl
    · intro k hne
      rw [hpl, hk, Table.get?_set_other _ _ hne, ho k hne]
    · intro a
      rw [finish_rest, hs]
      rfl

/-! ## The shapes of lane instructions -/

/-- A destination that is an s-name makes the instruction uniform, and no other does, in every legal instruction of a shape. -/
def DstUniform (i : Instr) (d : Name) : Prop := i.legal = true → d.isS = i.shape.uniform

theorem envOf_p (i : Instr) (s : State) (key : Nat) (p : Ply) : (envOf i s key p).p = issuePly i s p := rfl

theorem laneWrites_issue (i : Instr) (s : State) (p : Ply) (d : Name) (w : Width) (g : Nat → QWord) :
    laneWrites i (issuePly i s p) d w g = laneWrites i p d w g := by
  simp [laneWrites, issuePly]

theorem laneEffect_eq (i : Instr) (v : Env) (d : Name) (w : Width) (g : Nat → QWord) :
    laneEffect i v d w g = { writes := (laneEffect i v d w g).writes, latch := laneLatch i v.p g } := rfl

theorem laneLatch_issue (i : Instr) (s : State) (p : Ply) (g : Nat → QWord) :
    laneLatch i (issuePly i s p) g = laneLatch i p g := by
  simp [laneLatch, issuePly]

/-- A lane instruction without flags yields its value. -/
theorem lanePure_yields {i : Instr} {d : Name} {w : Width} {g : Env → Nat → QWord} (hu : DstUniform i d)
    (he : ∀ s, exec i s = lanePure i d w g s) : Yields i d w g := by
  intro s key p h
  rw [he]
  unfold lanePure
  rw [issue_ready h]
  obtain ⟨q, hq⟩ := lane_done (laneEffect i (envOf i s key p) d w (g (envOf i s key p))).writes
    (laneLatch i (issuePly i s p) (g (envOf i s key p))) 0 (baseOf i s key p) rfl (by rw [baseOf_self, issued_stat])
    (fun k hk => baseOf_others i s key p hk)
  rw [realWrites_lane _ _ _ _ _ (hu h.legal), envOf_p, laneWrites_issue, laneLatch_issue] at hq
  refine ⟨_, q, rfl, ?_⟩
  have hl := laneEffect_eq i (envOf i s key p) d w (g (envOf i s key p))
  rw [envOf_p, laneLatch_issue] at hl
  rw [hl]
  exact hq

theorem threads_issue (i : Instr) (s : State) (key : Nat) (p : Ply) : (envOf i s key p).threads i = laneThreads i p := by
  simp [Env.threads, laneThreads, envOf_p, issuePly]

/-- A lane instruction with flags, none of them enabled, yields its value. -/
theorem laneFlags_yields {i : Instr} {d : Name} {w : Width} {g : Env → Nat → QWord × FFlags} (hu : DstUniform i d)
    (he : ∀ s, exec i s = laneFlags i d w g s) : YieldsFlags i d w g := by
  intro s key p h hf
  rw [he]
  unfold laneFlags
  rw [issue_ready h]
  have hfrm : (envOf i s key p).p.frm = p.frm := by simp [envOf_p, issuePly]
  have hn : fpxVal (envOf i s key p).p.frm ((envOf i s key p).threads i) (fun k => (g (envOf i s key p) k).2) = none := by
    rw [hfrm, threads_issue]
    unfold fpxVal
    rw [List.find?_eq_none.2]
    · rfl
    · intro k hk
      simp [hf k hk]
  simp only [hn]
  have hst : (issued i s p).stat = p.stat := by
    rw [issued_eq]
    simp [issuePly]
  have hpl : (addFlags (baseOf i s key p) (envOf i s key p).key ((envOf i s key p).threads i)
      fun k => (g (envOf i s key p) k).2).plies = (baseOf i s key p).plies.set key { issued i s p with
        stat := p.stat ||| (raised (laneThreads i p) fun k => (g (envOf i s key p) k).2).setWidth 64 } := by
    have hk : (envOf i s key p).key = key := rfl
    rw [threads_issue, hk]
    unfold addFlags State.modPly Table.modify
    simp only [baseOf_self]
    rw [hst]
    rfl
  obtain ⟨q, hq⟩ := lane_done (laneEffect i (envOf i s key p) d w fun k => (g (envOf i s key p) k).1).writes
    (laneLatch i (issuePly i s p) fun k => (g (envOf i s key p) k).1)
    (raised (laneThreads i p) fun k => (g (envOf i s key p) k).2)
    (addFlags (baseOf i s key p) (envOf i s key p).key ((envOf i s key p).threads i) fun k => (g (envOf i s key p) k).2) rfl
    (by rw [hpl, Table.get?_set_self])
    (fun k hk => by rw [hpl, Table.get?_set_other _ _ hk, baseOf_others _ _ _ _ hk])
  rw [realWrites_lane _ _ _ _ _ (hu h.legal), envOf_p, laneWrites_issue, laneLatch_issue] at hq
  refine ⟨_, q, rfl, ?_⟩
  have hl := laneEffect_eq i (envOf i s key p) d w fun k => (g (envOf i s key p) k).1
  rw [envOf_p, laneLatch_issue] at hl
  rw [hl]
  exact hq

/-- A lane instruction with an enabled flag traps with FPX. -/
theorem laneFlags_traps {i : Instr} {d : Name} {w : Width} {g : Env → Nat → QWord × FFlags}
    (he : ∀ s, exec i s = laneFlags i d w g s) : FpxTraps i g := by
  intro s key p k h hf
  rw [he]
  unfold laneFlags
  rw [issue_ready h]
  have hfrm : (envOf i s key p).p.frm = p.frm := by simp [envOf_p, issuePly]
  have hn : fpxVal (envOf i s key p).p.frm ((envOf i s key p).threads i) (fun k => (g (envOf i s key p) k).2) =
      some ((g (envOf i s key p) k).2.setWidth 64 ||| fieldAt 8 k) := by
    rw [hfrm, threads_issue]
    unfold fpxVal
    rw [hf]
    rfl
  simp only [hn]
  rfl

/-! ## Other instructions: from the ending of the meaning to the next state -/

theorem does_of {i : Instr} {body : Env → State → Res} {c : Env → State → Prop} {st : Env → State → State}
    {e : Env → State → Effect} (he : ∀ s, exec i s = issue i body s) (hb : ∀ v s, c v s → body v s = .done (st v s) (e v s)) :
    Does i c st e := by
  intro s key p h hc
  rw [he, issue_ready h]
  simp only [hb _ _ hc]

theorem traps_of {i : Instr} {body : Env → State → Res} {c : Env → State → Prop} {cause : Nat} {val : Env → State → DWord}
    (he : ∀ s, exec i s = issue i body s) (hb : ∀ v s, c v s → body v s = .trap cause (val v s)) : Traps i c cause val := by
  intro s key p h hc
  rw [he, issue_ready h]
  simp only [hb _ _ hc]

theorem waits_of {i : Instr} {body : Env → State → Res} {c : Env → State → Prop} {st : Env → State → State}
    {w : Env → State → Cond} {stage : Env → Nat} (he : ∀ s, exec i s = issue i body s)
    (hb : ∀ v s, c v s → body v s = .wait (st v s) (w v s) (stage v)) : Waits i c st w stage := by
  intro s key p h hc
  rw [he, issue_ready h]
  simp only [hb _ _ hc]

end Sys2Proof.Machine
end

