-- ==== Sys2Proof/Laws/Memory.lean ====
section
/-! SUPPORT. What the operations on byte memories do: they keep the canonical form, a read after a write gives the byte written,
and every other byte reads as before. -/

namespace Sys2Proof.Machine

/-! ## The canonical form -/

theorem Memory.wf_cons (a : Nat) (x : Byte) (m : Memory) :
    Memory.wf ((a, x) :: m) = true ↔ x ≠ 0 ∧ (∀ c ∈ m, a < c.1) ∧ Memory.wf m = true := by
  induction m generalizing a x with
  | nil => simp [Memory.wf]
  | cons e m ih =>
    obtain ⟨b, y⟩ := e
    have h := ih b y
    simp only [Memory.wf, Bool.and_eq_true, decide_eq_true_eq, List.mem_cons, forall_eq_or_imp] at h ⊢
    constructor
    · rintro ⟨⟨hx, hab⟩, hm⟩
      refine ⟨hx, ⟨hab, fun c hc => ?_⟩, hm⟩
      exact Nat.lt_trans hab ((h.mp hm).2.1 c hc)
    · rintro ⟨hx, ⟨hab, -⟩, hm⟩
      exact ⟨⟨hx, hab⟩, hm⟩

theorem Memory.wf_nil : Memory.wf [] = true := rfl

theorem Memory.mem_write {m : Memory} {a : Nat} {v : Byte} {c : Host.Cell} (h : c ∈ m.write a v) : c ∈ m ∨ c = (a, v) := by
  induction m with
  | nil =>
    simp only [Memory.write] at h
    split at h <;> simp_all
  | cons e m ih =>
    obtain ⟨b, x⟩ := e
    simp only [Memory.write] at h
    split at h
    · rcases List.mem_cons.mp h with rfl | h
      · simp
      · rcases ih h with h | h <;> simp [h]
    · split at h
      · split at h
        · simp [h]
        · rcases List.mem_cons.mp h with rfl | h
          · simp
          · simp [h]
      · split at h
        · exact .inl h
        · rcases List.mem_cons.mp h with rfl | h
          · simp
          · exact .inl h

theorem Memory.write_wf {m : Memory} (h : m.wf = true) (a : Nat) (v : Byte) : (m.write a v).wf = true := by
  induction m with
  | nil =>
    simp only [Memory.write]
    split <;> simp_all [Memory.wf]
  | cons e m ih =>
    obtain ⟨b, x⟩ := e
    obtain ⟨hx, hb, hm⟩ := (Memory.wf_cons b x m).mp h
    simp only [Memory.write]
    split
    · rename_i hlt
      refine (Memory.wf_cons b x _).mpr ⟨hx, fun c hc => ?_, ih hm⟩
      rcases Memory.mem_write hc with hc | rfl
      · exact hb c hc
      · exact hlt
    · split
      · rename_i _ he
        subst he
        split
        · exact hm
        · rename_i hv
          exact (Memory.wf_cons b v m).mpr ⟨hv, hb, hm⟩
      · rename_i hge hne
        split
        · exact h
        · rename_i hv
          refine (Memory.wf_cons a v _).mpr ⟨hv, fun c hc => ?_, h⟩
          rcases List.mem_cons.mp hc with rfl | hc
          · simp only; omega
          · have := hb c hc
            omega

theorem Memory.writeBytes_wf {m : Memory} (h : m.wf = true) (a : Nat) (l : List Byte) : (m.writeBytes a l).wf = true := by
  induction l generalizing m a with
  | nil => exact h
  | cons v l ih => exact ih (Memory.write_wf h a v) (a + 1)

theorem Memory.filter_wf {m : Memory} (h : m.wf = true) (f : Host.Cell → Bool) : Memory.wf (List.filter f m) = true := by
  induction m with
  | nil => rfl
  | cons e m ih =>
    obtain ⟨b, x⟩ := e
    obtain ⟨hx, hb, hm⟩ := (Memory.wf_cons b x m).mp h
    by_cases hf : f (b, x) = true
    · rw [List.filter_cons_of_pos hf]
      exact (Memory.wf_cons b x _).mpr ⟨hx, fun c hc => hb c ((List.mem_filter.mp hc).1), ih hm⟩
    · rw [List.filter_cons_of_neg hf]
      exact ih hm

/-! ## Reading -/

theorem Memory.read_below {m : Memory} {a : Nat} (h : ∀ c ∈ m, a < c.1) : m.read a = 0 := by
  cases m with
  | nil => rfl
  | cons e m =>
    obtain ⟨b, x⟩ := e
    have hb : a < b := h (b, x) (by simp)
    simp [Memory.read, hb, Nat.ne_of_gt hb]

theorem Memory.read_write {m : Memory} (h : m.wf = true) (a : Nat) (v : Byte) (b : Nat) :
    (m.write a v).read b = if b = a then v else m.read b := by
  induction m with
  | nil =>
    by_cases hv : v = 0
    · simp [Memory.write, Memory.read, hv]
    · simp only [Memory.write, hv, if_false, Memory.read]
      by_cases hb : a = b
      · simp [hb]
      · simp [hb, Ne.symm hb]
  | cons e m ih =>
    obtain ⟨c, x⟩ := e
    obtain ⟨hx, hc, hm⟩ := (Memory.wf_cons c x m).mp h
    simp only [Memory.write]
    split
    · rename_i hlt
      simp only [Memory.read]
      by_cases h1 : c = b
      · subst h1
        simp [Nat.ne_of_lt hlt]
      · by_cases h2 : b < c
        · have : b ≠ a := by omega
          simp [h1, h2, this]
        · simp [h1, h2, ih hm]
    · rename_i hge
      split
      · rename_i he
        subst he
        split
        · rename_i hv
          subst hv
          by_cases hb : b = c
          · subst hb
            simp [Memory.read_below hc]
          · by_cases h2 : b < c
            · rw [Memory.read_below fun y hy => Nat.lt_trans h2 (hc y hy)]
              simp [Memory.read, hb, h2, Ne.symm hb]
            · simp [Memory.read, hb, h2, Ne.symm hb]
        · by_cases hb : b = c
          · subst hb
            simp [Memory.read]
          · simp [Memory.read, hb, Ne.symm hb]
      · rename_i hne
        have hlt : a < c := by omega
        split
        · rename_i hv
          subst hv
          by_cases hb : b = a
          · subst hb
            simp [Memory.read, hlt, Nat.ne_of_gt hlt]
          · simp [hb]
        · by_cases hb : b = a
          · subst hb
            simp [Memory.read]
          · have hba : ¬ a = b := Ne.symm hb
            by_cases h2 : b < a
            · have h3 : b < c := Nat.lt_trans h2 hlt
              simp [Memory.read, hb, hba, h2, h3, Nat.ne_of_gt h3]
            · simp [Memory.read, hb, hba, h2]

theorem Memory.read_write_self {m : Memory} (h : m.wf = true) (a : Nat) (v : Byte) : (m.write a v).read a = v := by
  rw [Memory.read_write h, if_pos rfl]

theorem Memory.read_write_other {m : Memory} (h : m.wf = true) {a b : Nat} (v : Byte) (hb : b ≠ a) :
    (m.write a v).read b = m.read b := by rw [Memory.read_write h, if_neg hb]

theorem Memory.read_writeBytes {m : Memory} (h : m.wf = true) (a : Nat) (l : List Byte) (b : Nat) :
    (m.writeBytes a l).read b = if a ≤ b ∧ b < a + l.length then l.getD (b - a) 0 else m.read b := by
  induction l generalizing m a with
  | nil =>
    have : ¬ (a ≤ b ∧ b < a + ([] : List Byte).length) := by simp
    simp only [Memory.writeBytes, this, if_false]
  | cons v l ih =>
    simp only [Memory.writeBytes, ih (Memory.write_wf h a v), Memory.read_write h, List.length_cons]
    by_cases h1 : b = a
    · subst h1
      have h2 : ¬ (b + 1 ≤ b ∧ b < b + 1 + l.length) := by omega
      rw [if_neg h2, if_pos rfl, if_pos (by omega), Nat.sub_self]
      rfl
    · by_cases h2 : a + 1 ≤ b ∧ b < a + 1 + l.length
      · have h3 : a ≤ b ∧ b < a + (l.length + 1) := by omega
        obtain ⟨k, hk⟩ : ∃ k, b - a = k + 1 := ⟨b - a - 1, by omega⟩
        have hk' : b - (a + 1) = k := by omega
        simp [h2, h3, hk, hk']
      · have h3 : ¬ (a ≤ b ∧ b < a + (l.length + 1)) := by omega
        rw [if_neg h2, if_neg h1, if_neg h3]

/-- Memories in canonical form that read alike are equal. -/
theorem Memory.ext {m n : Memory} (hm : m.wf = true) (hn : n.wf = true) (h : ∀ a, m.read a = n.read a) : m = n := by
  induction m generalizing n with
  | nil =>
    cases n with
    | nil => rfl
    | cons e n =>
      obtain ⟨b, y⟩ := e
      have := h b
      simp [Memory.read] at this
      exact absurd this.symm ((Memory.wf_cons b y n).mp hn).1
  | cons e m ih =>
    obtain ⟨a, x⟩ := e
    obtain ⟨hx, ha, hm'⟩ := (Memory.wf_cons a x m).mp hm
    cases n with
    | nil =>
      have := h a
      simp [Memory.read] at this
      exact absurd this hx
    | cons e' n =>
      obtain ⟨b, y⟩ := e'
      obtain ⟨hy, hb, hn'⟩ := (Memory.wf_cons b y n).mp hn
      have hab : a = b := by
        rcases Nat.lt_trichotomy a b with hlt | he | hlt
        · have := h a
          simp [Memory.read, hlt, Nat.ne_of_gt hlt] at this
          exact absurd this hx
        · exact he
        · have := h b
          simp [Memory.read, hlt, Nat.ne_of_gt hlt] at this
          exact absurd this.symm hy
      subst hab
      have hxy : x = y := by simpa [Memory.read] using h a
      subst hxy
      congr 1
      refine ih hm' hn' fun c => ?_
      by_cases hc : c ≤ a
      · rw [Memory.read_below fun e he => Nat.lt_of_le_of_lt hc (ha e he),
          Memory.read_below fun e he => Nat.lt_of_le_of_lt hc (hb e he)]
      · have := h c
        have h1 : ¬ a = c := by omega
        have h2 : ¬ c < a := by omega
        simpa [Memory.read, h1, h2] using this

/-! ## Runs of bytes put in at once -/

theorem Memory.cellsOf_wf (a : Nat) (l : List Byte) : (cellsOf a l).wf = true ∧ ∀ c ∈ cellsOf a l, a ≤ c.1 ∧ c.1 < a + l.length := by
  induction l generalizing a with
  | nil => simp [cellsOf, Memory.wf]
  | cons v l ih =>
    obtain ⟨hw, hr⟩ := ih (a + 1)
    simp only [cellsOf]
    split
    · refine ⟨hw, fun c hc => ?_⟩
      have := hr c hc
      simp only [List.length_cons]
      omega
    · rename_i hv
      refine ⟨(Memory.wf_cons a v _).mpr ⟨hv, fun c hc => (hr c hc).1, hw⟩, fun c hc => ?_⟩
      rcases List.mem_cons.mp hc with rfl | hc
      · simp
      · have := hr c hc
        simp only [List.length_cons]
        omega

theorem Memory.append_wf {m n : Memory} (hm : m.wf = true) (hn : n.wf = true) (h : ∀ c ∈ m, ∀ d ∈ n, c.1 < d.1) :
    Memory.wf (m ++ n) = true := by
  induction m with
  | nil => exact hn
  | cons e m ih =>
    obtain ⟨a, x⟩ := e
    obtain ⟨hx, ha, hm'⟩ := (Memory.wf_cons a x m).mp hm
    rw [List.cons_append]
    refine (Memory.wf_cons a x _).mpr ⟨hx, fun c hc => ?_, ih hm' fun c hc => h c (List.mem_cons_of_mem _ hc)⟩
    rcases List.mem_append.mp hc with hc | hc
    · exact ha c hc
    · exact h (a, x) (List.mem_cons_self ..) c hc

theorem Memory.takeWhile_wf {m : Memory} (h : m.wf = true) (f : Host.Cell → Bool) : Memory.wf (List.takeWhile f m) = true := by
  induction m with
  | nil => rfl
  | cons e m ih =>
    obtain ⟨b, x⟩ := e
    obtain ⟨hx, hb, hm⟩ := (Memory.wf_cons b x m).mp h
    simp only [List.takeWhile]
    split
    · refine (Memory.wf_cons b x _).mpr ⟨hx, fun c hc => hb c ?_, ih hm⟩
      exact (List.takeWhile_sublist _).subset hc
    · rfl

theorem Memory.dropWhile_wf {m : Memory} (h : m.wf = true) (n : Nat) :
    Memory.wf (List.dropWhile (fun c => decide (c.1 < n)) m) = true ∧
      ∀ c ∈ List.dropWhile (fun (c : Host.Cell) => decide (c.1 < n)) m, n ≤ c.1 := by
  induction m with
  | nil => simp [Memory.wf]
  | cons e m ih =>
    obtain ⟨b, x⟩ := e
    obtain ⟨hx, hb, hm⟩ := (Memory.wf_cons b x m).mp h
    simp only [List.dropWhile]
    split
    · exact ih hm
    · rename_i hlt
      have hn : n ≤ b := by simpa using hlt
      refine ⟨h, fun c hc => ?_⟩
      rcases List.mem_cons.mp hc with rfl | hc
      · exact hn
      · exact Nat.le_of_lt (Nat.lt_of_le_of_lt hn (hb c hc))

theorem Memory.splice_wf {m : Memory} (h : m.wf = true) (a : Nat) (l : List Byte) : (m.splice a l).wf = true := by
  unfold Memory.splice
  obtain ⟨hd, hd'⟩ := Memory.dropWhile_wf h (a + l.length)
  obtain ⟨hc, hc'⟩ := Memory.cellsOf_wf a l
  have ht : ∀ c ∈ List.takeWhile (fun (c : Host.Cell) => decide (c.1 < a)) m, c.1 < a := fun c hc =>
    of_decide_eq_true (List.all_eq_true.mp (List.all_takeWhile (l := m)) c hc)
  refine Memory.append_wf (Memory.append_wf (Memory.takeWhile_wf h _) hc fun c h1 d h2 => ?_) hd fun c h1 d h2 => ?_
  · exact Nat.lt_of_lt_of_le (ht c h1) (hc' d h2).1
  · rcases List.mem_append.mp h1 with h1 | h1
    · exact Nat.lt_of_lt_of_le (ht c h1) (Nat.le_trans (Nat.le_add_right _ _) (hd' d h2))
    · exact Nat.lt_of_lt_of_le (hc' c h1).2 (hd' d h2)

/-! ## The module's memory -/

theorem rekey_wf {s : State} (h : s.mem.wf = true) (key sec : Nat) : (s.rekey key sec).mem.wf = true := by
  unfold State.rekey
  generalize s.keyed.get? sec = o
  cases o with
  | none => exact h
  | some k =>
    by_cases hk : k = s.keyId key
    · simp only [hk, ↓reduceIte]
      exact h
    · simp only [hk, ↓reduceIte]
      exact Memory.writeBytes_wf h _ _

theorem rekeys_wf {s : State} (h : s.mem.wf = true) (key : Nat) (l : List Nat) :
    (l.foldl (fun s sec => s.rekey key sec) s).mem.wf = true := by
  induction l generalizing s with
  | nil => exact h
  | cons x l ih => exact ih (rekey_wf h key x)

theorem putBytes_wf {s : State} (h : s.mem.wf = true) (key loc : Nat) (l : List Byte) : (s.putBytes key loc l).mem.wf = true := by
  simp only [State.putBytes]
  refine Memory.writeBytes_wf ?_ _ _
  by_cases hc : (decide (2 ≤ tierOf loc) || l.isEmpty) = true
  · rw [if_pos hc]
    exact h
  · rw [if_neg hc]
    exact rekeys_wf h key _

theorem reset_mem_wf : State.reset.mem.wf = true := rfl

end Sys2Proof.Machine
end

