-- ==== Sys2Proof/Laws/State.lean ====
section
/-! SUPPORT. Each field of the state after each plain update of it: the field updated holds the new value, every other is
as before. -/

namespace Sys2Proof.Machine

section
variable (s : State) (k : Nat) (x : Ply)
@[simp] theorem State.setPly_phase : (s.setPly k x).phase = s.phase := rfl
@[simp] theorem State.setPly_flash : (s.setPly k x).flash = s.flash := rfl
@[simp] theorem State.setPly_fuses : (s.setPly k x).fuses = s.fuses := rfl
@[simp] theorem State.setPly_net : (s.setPly k x).net = s.net := rfl
@[simp] theorem State.setPly_cur : (s.setPly k x).cur = s.cur := rfl
@[simp] theorem State.setPly_free : (s.setPly k x).free = s.free := rfl
@[simp] theorem State.setPly_cycle : (s.setPly k x).cycle = s.cycle := rfl
@[simp] theorem State.setPly_tick : (s.setPly k x).tick = s.tick := rfl
@[simp] theorem State.setPly_tickAt : (s.setPly k x).tickAt = s.tickAt := rfl
@[simp] theorem State.setPly_clock : (s.setPly k x).clock = s.clock := rfl
@[simp] theorem State.setPly_uses : (s.setPly k x).uses = s.uses := rfl
@[simp] theorem State.setPly_wheel : (s.setPly k x).wheel = s.wheel := rfl
@[simp] theorem State.setPly_wheelNext : (s.setPly k x).wheelNext = s.wheelNext := rfl
@[simp] theorem State.setPly_plies : (s.setPly k x).plies = s.plies.set k x := rfl
@[simp] theorem State.setPly_skeins : (s.setPly k x).skeins = s.skeins := rfl
@[simp] theorem State.setPly_launches : (s.setPly k x).launches = s.launches := rfl
@[simp] theorem State.setPly_mem : (s.setPly k x).mem = s.mem := rfl
@[simp] theorem State.setPly_keyed : (s.setPly k x).keyed = s.keyed := rfl
@[simp] theorem State.setPly_cores : (s.setPly k x).cores = s.cores := rfl
@[simp] theorem State.setPly_dieTlbs : (s.setPly k x).dieTlbs = s.dieTlbs := rfl
@[simp] theorem State.setPly_ats : (s.setPly k x).ats = s.ats := rfl
@[simp] theorem State.setPly_misses : (s.setPly k x).misses = s.misses := rfl
@[simp] theorem State.setPly_faults : (s.setPly k x).faults = s.faults := rfl
@[simp] theorem State.setPly_fbcfg : (s.setPly k x).fbcfg = s.fbcfg := rfl
@[simp] theorem State.setPly_fbcnt : (s.setPly k x).fbcnt = s.fbcnt := rfl
@[simp] theorem State.setPly_prgAlloc : (s.setPly k x).prgAlloc = s.prgAlloc := rfl
@[simp] theorem State.setPly_dec0 : (s.setPly k x).dec0 = s.dec0 := rfl
@[simp] theorem State.setPly_dec1 : (s.setPly k x).dec1 = s.dec1 := rfl
@[simp] theorem State.setPly_dir : (s.setPly k x).dir = s.dir := rfl
@[simp] theorem State.setPly_tags : (s.setPly k x).tags = s.tags := rfl
@[simp] theorem State.setPly_rdc : (s.setPly k x).rdc = s.rdc := rfl
@[simp] theorem State.setPly_classes : (s.setPly k x).classes = s.classes := rfl
@[simp] theorem State.setPly_withdrawn : (s.setPly k x).withdrawn = s.withdrawn := rfl
@[simp] theorem State.setPly_mons : (s.setPly k x).mons = s.mons := rfl
@[simp] theorem State.setPly_txns : (s.setPly k x).txns = s.txns := rfl
@[simp] theorem State.setPly_nextTxn : (s.setPly k x).nextTxn = s.nextTxn := rfl
@[simp] theorem State.setPly_mixlog : (s.setPly k x).mixlog = s.mixlog := rfl
@[simp] theorem State.setPly_fenced : (s.setPly k x).fenced = s.fenced := rfl
@[simp] theorem State.setPly_sliceHold : (s.setPly k x).sliceHold = s.sliceHold := rfl
@[simp] theorem State.setPly_invals : (s.setPly k x).invals = s.invals := rfl
@[simp] theorem State.setPly_hostOut : (s.setPly k x).hostOut = s.hostOut := rfl
@[simp] theorem State.setPly_parts : (s.setPly k x).parts = s.parts := rfl
@[simp] theorem State.setPly_ctxs : (s.setPly k x).ctxs = s.ctxs := rfl
@[simp] theorem State.setPly_hw : (s.setPly k x).hw = s.hw := rfl
@[simp] theorem State.setPly_aside : (s.setPly k x).aside = s.aside := rfl
@[simp] theorem State.setPly_cursor : (s.setPly k x).cursor = s.cursor := rfl
@[simp] theorem State.setPly_lqs : (s.setPly k x).lqs = s.lqs := rfl
@[simp] theorem State.setPly_trees : (s.setPly k x).trees = s.trees := rfl
@[simp] theorem State.setPly_nodes : (s.setPly k x).nodes = s.nodes := rfl
@[simp] theorem State.setPly_watch : (s.setPly k x).watch = s.watch := rfl
@[simp] theorem State.setPly_links : (s.setPly k x).links = s.links := rfl
@[simp] theorem State.setPly_fibres : (s.setPly k x).fibres = s.fibres := rfl
@[simp] theorem State.setPly_beats : (s.setPly k x).beats = s.beats := rfl
@[simp] theorem State.setPly_silent : (s.setPly k x).silent = s.silent := rfl
@[simp] theorem State.setPly_uidrop : (s.setPly k x).uidrop = s.uidrop := rfl
@[simp] theorem State.setPly_hostKeys : (s.setPly k x).hostKeys = s.hostKeys := rfl
@[simp] theorem State.setPly_tenantKeys : (s.setPly k x).tenantKeys = s.tenantKeys := rfl
@[simp] theorem State.setPly_replicaLog : (s.setPly k x).replicaLog = s.replicaLog := rfl
@[simp] theorem State.setPly_svcs : (s.setPly k x).svcs = s.svcs := rfl
@[simp] theorem State.setPly_drawn : (s.setPly k x).drawn = s.drawn := rfl
@[simp] theorem State.setPly_refilled : (s.setPly k x).refilled = s.refilled := rfl
@[simp] theorem State.setPly_raiseAt : (s.setPly k x).raiseAt = s.raiseAt := rfl
@[simp] theorem State.setPly_flits : (s.setPly k x).flits = s.flits := rfl
@[simp] theorem State.setPly_meshAt : (s.setPly k x).meshAt = s.meshAt := rfl
@[simp] theorem State.setPly_replicated : (s.setPly k x).replicated = s.replicated := rfl
@[simp] theorem State.setPly_descAt : (s.setPly k x).descAt = s.descAt := rfl
@[simp] theorem State.setPly_dieMisses : (s.setPly k x).dieMisses = s.dieMisses := rfl
end

section
variable (s : State) (k : Nat) (f : Ply → Ply)
@[simp] theorem State.modPly_phase : (s.modPly k f).phase = s.phase := rfl
@[simp] theorem State.modPly_flash : (s.modPly k f).flash = s.flash := rfl
@[simp] theorem State.modPly_fuses : (s.modPly k f).fuses = s.fuses := rfl
@[simp] theorem State.modPly_net : (s.modPly k f).net = s.net := rfl
@[simp] theorem State.modPly_cur : (s.modPly k f).cur = s.cur := rfl
@[simp] theorem State.modPly_free : (s.modPly k f).free = s.free := rfl
@[simp] theorem State.modPly_cycle : (s.modPly k f).cycle = s.cycle := rfl
@[simp] theorem State.modPly_tick : (s.modPly k f).tick = s.tick := rfl
@[simp] theorem State.modPly_tickAt : (s.modPly k f).tickAt = s.tickAt := rfl
@[simp] theorem State.modPly_clock : (s.modPly k f).clock = s.clock := rfl
@[simp] theorem State.modPly_uses : (s.modPly k f).uses = s.uses := rfl
@[simp] theorem State.modPly_wheel : (s.modPly k f).wheel = s.wheel := rfl
@[simp] theorem State.modPly_wheelNext : (s.modPly k f).wheelNext = s.wheelNext := rfl
@[simp] theorem State.modPly_plies : (s.modPly k f).plies = s.plies.modify k f := rfl
@[simp] theorem State.modPly_skeins : (s.modPly k f).skeins = s.skeins := rfl
@[simp] theorem State.modPly_launches : (s.modPly k f).launches = s.launches := rfl
@[simp] theorem State.modPly_mem : (s.modPly k f).mem = s.mem := rfl
@[simp] theorem State.modPly_keyed : (s.modPly k f).keyed = s.keyed := rfl
@[simp] theorem State.modPly_cores : (s.modPly k f).cores = s.cores := rfl
@[simp] theorem State.modPly_dieTlbs : (s.modPly k f).dieTlbs = s.dieTlbs := rfl
@[simp] theorem State.modPly_ats : (s.modPly k f).ats = s.ats := rfl
@[simp] theorem State.modPly_misses : (s.modPly k f).misses = s.misses := rfl
@[simp] theorem State.modPly_faults : (s.modPly k f).faults = s.faults := rfl
@[simp] theorem State.modPly_fbcfg : (s.modPly k f).fbcfg = s.fbcfg := rfl
@[simp] theorem State.modPly_fbcnt : (s.modPly k f).fbcnt = s.fbcnt := rfl
@[simp] theorem State.modPly_prgAlloc : (s.modPly k f).prgAlloc = s.prgAlloc := rfl
@[simp] theorem State.modPly_dec0 : (s.modPly k f).dec0 = s.dec0 := rfl
@[simp] theorem State.modPly_dec1 : (s.modPly k f).dec1 = s.dec1 := rfl
@[simp] theorem State.modPly_dir : (s.modPly k f).dir = s.dir := rfl
@[simp] theorem State.modPly_tags : (s.modPly k f).tags = s.tags := rfl
@[simp] theorem State.modPly_rdc : (s.modPly k f).rdc = s.rdc := rfl
@[simp] theorem State.modPly_classes : (s.modPly k f).classes = s.classes := rfl
@[simp] theorem State.modPly_withdrawn : (s.modPly k f).withdrawn = s.withdrawn := rfl
@[simp] theorem State.modPly_mons : (s.modPly k f).mons = s.mons := rfl
@[simp] theorem State.modPly_txns : (s.modPly k f).txns = s.txns := rfl
@[simp] theorem State.modPly_nextTxn : (s.modPly k f).nextTxn = s.nextTxn := rfl
@[simp] theorem State.modPly_mixlog : (s.modPly k f).mixlog = s.mixlog := rfl
@[simp] theorem State.modPly_fenced : (s.modPly k f).fenced = s.fenced := rfl
@[simp] theorem State.modPly_sliceHold : (s.modPly k f).sliceHold = s.sliceHold := rfl
@[simp] theorem State.modPly_invals : (s.modPly k f).invals = s.invals := rfl
@[simp] theorem State.modPly_hostOut : (s.modPly k f).hostOut = s.hostOut := rfl
@[simp] theorem State.modPly_parts : (s.modPly k f).parts = s.parts := rfl
@[simp] theorem State.modPly_ctxs : (s.modPly k f).ctxs = s.ctxs := rfl
@[simp] theorem State.modPly_hw : (s.modPly k f).hw = s.hw := rfl
@[simp] theorem State.modPly_aside : (s.modPly k f).aside = s.aside := rfl
@[simp] theorem State.modPly_cursor : (s.modPly k f).cursor = s.cursor := rfl
@[simp] theorem State.modPly_lqs : (s.modPly k f).lqs = s.lqs := rfl
@[simp] theorem State.modPly_trees : (s.modPly k f).trees = s.trees := rfl
@[simp] theorem State.modPly_nodes : (s.modPly k f).nodes = s.nodes := rfl
@[simp] theorem State.modPly_watch : (s.modPly k f).watch = s.watch := rfl
@[simp] theorem State.modPly_links : (s.modPly k f).links = s.links := rfl
@[simp] theorem State.modPly_fibres : (s.modPly k f).fibres = s.fibres := rfl
@[simp] theorem State.modPly_beats : (s.modPly k f).beats = s.beats := rfl
@[simp] theorem State.modPly_silent : (s.modPly k f).silent = s.silent := rfl
@[simp] theorem State.modPly_uidrop : (s.modPly k f).uidrop = s.uidrop := rfl
@[simp] theorem State.modPly_hostKeys : (s.modPly k f).hostKeys = s.hostKeys := rfl
@[simp] theorem State.modPly_tenantKeys : (s.modPly k f).tenantKeys = s.tenantKeys := rfl
@[simp] theorem State.modPly_replicaLog : (s.modPly k f).replicaLog = s.replicaLog := rfl
@[simp] theorem State.modPly_svcs : (s.modPly k f).svcs = s.svcs := rfl
@[simp] theorem State.modPly_drawn : (s.modPly k f).drawn = s.drawn := rfl
@[simp] theorem State.modPly_refilled : (s.modPly k f).refilled = s.refilled := rfl
@[simp] theorem State.modPly_raiseAt : (s.modPly k f).raiseAt = s.raiseAt := rfl
@[simp] theorem State.modPly_flits : (s.modPly k f).flits = s.flits := rfl
@[simp] theorem State.modPly_meshAt : (s.modPly k f).meshAt = s.meshAt := rfl
@[simp] theorem State.modPly_replicated : (s.modPly k f).replicated = s.replicated := rfl
@[simp] theorem State.modPly_descAt : (s.modPly k f).descAt = s.descAt := rfl
@[simp] theorem State.modPly_dieMisses : (s.modPly k f).dieMisses = s.dieMisses := rfl
end

section
variable (s : State) (k : Nat) (f : Part → Part)
@[simp] theorem State.modPart_phase : (s.modPart k f).phase = s.phase := rfl
@[simp] theorem State.modPart_flash : (s.modPart k f).flash = s.flash := rfl
@[simp] theorem State.modPart_fuses : (s.modPart k f).fuses = s.fuses := rfl
@[simp] theorem State.modPart_net : (s.modPart k f).net = s.net := rfl
@[simp] theorem State.modPart_cur : (s.modPart k f).cur = s.cur := rfl
@[simp] theorem State.modPart_free : (s.modPart k f).free = s.free := rfl
@[simp] theorem State.modPart_cycle : (s.modPart k f).cycle = s.cycle := rfl
@[simp] theorem State.modPart_tick : (s.modPart k f).tick = s.tick := rfl
@[simp] theorem State.modPart_tickAt : (s.modPart k f).tickAt = s.tickAt := rfl
@[simp] theorem State.modPart_clock : (s.modPart k f).clock = s.clock := rfl
@[simp] theorem State.modPart_uses : (s.modPart k f).uses = s.uses := rfl
@[simp] theorem State.modPart_wheel : (s.modPart k f).wheel = s.wheel := rfl
@[simp] theorem State.modPart_wheelNext : (s.modPart k f).wheelNext = s.wheelNext := rfl
@[simp] theorem State.modPart_plies : (s.modPart k f).plies = s.plies := rfl
@[simp] theorem State.modPart_skeins : (s.modPart k f).skeins = s.skeins := rfl
@[simp] theorem State.modPart_launches : (s.modPart k f).launches = s.launches := rfl
@[simp] theorem State.modPart_mem : (s.modPart k f).mem = s.mem := rfl
@[simp] theorem State.modPart_keyed : (s.modPart k f).keyed = s.keyed := rfl
@[simp] theorem State.modPart_cores : (s.modPart k f).cores = s.cores := rfl
@[simp] theorem State.modPart_dieTlbs : (s.modPart k f).dieTlbs = s.dieTlbs := rfl
@[simp] theorem State.modPart_ats : (s.modPart k f).ats = s.ats := rfl
@[simp] theorem State.modPart_misses : (s.modPart k f).misses = s.misses := rfl
@[simp] theorem State.modPart_faults : (s.modPart k f).faults = s.faults := rfl
@[simp] theorem State.modPart_fbcfg : (s.modPart k f).fbcfg = s.fbcfg := rfl
@[simp] theorem State.modPart_fbcnt : (s.modPart k f).fbcnt = s.fbcnt := rfl
@[simp] theorem State.modPart_prgAlloc : (s.modPart k f).prgAlloc = s.prgAlloc := rfl
@[simp] theorem State.modPart_dec0 : (s.modPart k f).dec0 = s.dec0 := rfl
@[simp] theorem State.modPart_dec1 : (s.modPart k f).dec1 = s.dec1 := rfl
@[simp] theorem State.modPart_dir : (s.modPart k f).dir = s.dir := rfl
@[simp] theorem State.modPart_tags : (s.modPart k f).tags = s.tags := rfl
@[simp] theorem State.modPart_rdc : (s.modPart k f).rdc = s.rdc := rfl
@[simp] theorem State.modPart_classes : (s.modPart k f).classes = s.classes := rfl
@[simp] theorem State.modPart_withdrawn : (s.modPart k f).withdrawn = s.withdrawn := rfl
@[simp] theorem State.modPart_mons : (s.modPart k f).mons = s.mons := rfl
@[simp] theorem State.modPart_txns : (s.modPart k f).txns = s.txns := rfl
@[simp] theorem State.modPart_nextTxn : (s.modPart k f).nextTxn = s.nextTxn := rfl
@[simp] theorem State.modPart_mixlog : (s.modPart k f).mixlog = s.mixlog := rfl
@[simp] theorem State.modPart_fenced : (s.modPart k f).fenced = s.fenced := rfl
@[simp] theorem State.modPart_sliceHold : (s.modPart k f).sliceHold = s.sliceHold := rfl
@[simp] theorem State.modPart_invals : (s.modPart k f).invals = s.invals := rfl
@[simp] theorem State.modPart_hostOut : (s.modPart k f).hostOut = s.hostOut := rfl
@[simp] theorem State.modPart_parts : (s.modPart k f).parts = s.parts.set k (f (s.part k)) := rfl
@[simp] theorem State.modPart_ctxs : (s.modPart k f).ctxs = s.ctxs := rfl
@[simp] theorem State.modPart_hw : (s.modPart k f).hw = s.hw := rfl
@[simp] theorem State.modPart_aside : (s.modPart k f).aside = s.aside := rfl
@[simp] theorem State.modPart_cursor : (s.modPart k f).cursor = s.cursor := rfl
@[simp] theorem State.modPart_lqs : (s.modPart k f).lqs = s.lqs := rfl
@[simp] theorem State.modPart_trees : (s.modPart k f).trees = s.trees := rfl
@[simp] theorem State.modPart_nodes : (s.modPart k f).nodes = s.nodes := rfl
@[simp] theorem State.modPart_watch : (s.modPart k f).watch = s.watch := rfl
@[simp] theorem State.modPart_links : (s.modPart k f).links = s.links := rfl
@[simp] theorem State.modPart_fibres : (s.modPart k f).fibres = s.fibres := rfl
@[simp] theorem State.modPart_beats : (s.modPart k f).beats = s.beats := rfl
@[simp] theorem State.modPart_silent : (s.modPart k f).silent = s.silent := rfl
@[simp] theorem State.modPart_uidrop : (s.modPart k f).uidrop = s.uidrop := rfl
@[simp] theorem State.modPart_hostKeys : (s.modPart k f).hostKeys = s.hostKeys := rfl
@[simp] theorem State.modPart_tenantKeys : (s.modPart k f).tenantKeys = s.tenantKeys := rfl
@[simp] theorem State.modPart_replicaLog : (s.modPart k f).replicaLog = s.replicaLog := rfl
@[simp] theorem State.modPart_svcs : (s.modPart k f).svcs = s.svcs := rfl
@[simp] theorem State.modPart_drawn : (s.modPart k f).drawn = s.drawn := rfl
@[simp] theorem State.modPart_refilled : (s.modPart k f).refilled = s.refilled := rfl
@[simp] theorem State.modPart_raiseAt : (s.modPart k f).raiseAt = s.raiseAt := rfl
@[simp] theorem State.modPart_flits : (s.modPart k f).flits = s.flits := rfl
@[simp] theorem State.modPart_meshAt : (s.modPart k f).meshAt = s.meshAt := rfl
@[simp] theorem State.modPart_replicated : (s.modPart k f).replicated = s.replicated := rfl
@[simp] theorem State.modPart_descAt : (s.modPart k f).descAt = s.descAt := rfl
@[simp] theorem State.modPart_dieMisses : (s.modPart k f).dieMisses = s.dieMisses := rfl
end

section
variable (s : State) (k : Nat) (f : Skein → Skein)
@[simp] theorem State.modSkein_phase : (s.modSkein k f).phase = s.phase := rfl
@[simp] theorem State.modSkein_flash : (s.modSkein k f).flash = s.flash := rfl
@[simp] theorem State.modSkein_fuses : (s.modSkein k f).fuses = s.fuses := rfl
@[simp] theorem State.modSkein_net : (s.modSkein k f).net = s.net := rfl
@[simp] theorem State.modSkein_cur : (s.modSkein k f).cur = s.cur := rfl
@[simp] theorem State.modSkein_free : (s.modSkein k f).free = s.free := rfl
@[simp] theorem State.modSkein_cycle : (s.modSkein k f).cycle = s.cycle := rfl
@[simp] theorem State.modSkein_tick : (s.modSkein k f).tick = s.tick := rfl
@[simp] theorem State.modSkein_tickAt : (s.modSkein k f).tickAt = s.tickAt := rfl
@[simp] theorem State.modSkein_clock : (s.modSkein k f).clock = s.clock := rfl
@[simp] theorem State.modSkein_uses : (s.modSkein k f).uses = s.uses := rfl
@[simp] theorem State.modSkein_wheel : (s.modSkein k f).wheel = s.wheel := rfl
@[simp] theorem State.modSkein_wheelNext : (s.modSkein k f).wheelNext = s.wheelNext := rfl
@[simp] theorem State.modSkein_plies : (s.modSkein k f).plies = s.plies := rfl
@[simp] theorem State.modSkein_skeins : (s.modSkein k f).skeins = s.skeins.modify k f := rfl
@[simp] theorem State.modSkein_launches : (s.modSkein k f).launches = s.launches := rfl
@[simp] theorem State.modSkein_mem : (s.modSkein k f).mem = s.mem := rfl
@[simp] theorem State.modSkein_keyed : (s.modSkein k f).keyed = s.keyed := rfl
@[simp] theorem State.modSkein_cores : (s.modSkein k f).cores = s.cores := rfl
@[simp] theorem State.modSkein_dieTlbs : (s.modSkein k f).dieTlbs = s.dieTlbs := rfl
@[simp] theorem State.modSkein_ats : (s.modSkein k f).ats = s.ats := rfl
@[simp] theorem State.modSkein_misses : (s.modSkein k f).misses = s.misses := rfl
@[simp] theorem State.modSkein_faults : (s.modSkein k f).faults = s.faults := rfl
@[simp] theorem State.modSkein_fbcfg : (s.modSkein k f).fbcfg = s.fbcfg := rfl
@[simp] theorem State.modSkein_fbcnt : (s.modSkein k f).fbcnt = s.fbcnt := rfl
@[simp] theorem State.modSkein_prgAlloc : (s.modSkein k f).prgAlloc = s.prgAlloc := rfl
@[simp] theorem State.modSkein_dec0 : (s.modSkein k f).dec0 = s.dec0 := rfl
@[simp] theorem State.modSkein_dec1 : (s.modSkein k f).dec1 = s.dec1 := rfl
@[simp] theorem State.modSkein_dir : (s.modSkein k f).dir = s.dir := rfl
@[simp] theorem State.modSkein_tags : (s.modSkein k f).tags = s.tags := rfl
@[simp] theorem State.modSkein_rdc : (s.modSkein k f).rdc = s.rdc := rfl
@[simp] theorem State.modSkein_classes : (s.modSkein k f).classes = s.classes := rfl
@[simp] theorem State.modSkein_withdrawn : (s.modSkein k f).withdrawn = s.withdrawn := rfl
@[simp] theorem State.modSkein_mons : (s.modSkein k f).mons = s.mons := rfl
@[simp] theorem State.modSkein_txns : (s.modSkein k f).txns = s.txns := rfl
@[simp] theorem State.modSkein_nextTxn : (s.modSkein k f).nextTxn = s.nextTxn := rfl
@[simp] theorem State.modSkein_mixlog : (s.modSkein k f).mixlog = s.mixlog := rfl
@[simp] theorem State.modSkein_fenced : (s.modSkein k f).fenced = s.fenced := rfl
@[simp] theorem State.modSkein_sliceHold : (s.modSkein k f).sliceHold = s.sliceHold := rfl
@[simp] theorem State.modSkein_invals : (s.modSkein k f).invals = s.invals := rfl
@[simp] theorem State.modSkein_hostOut : (s.modSkein k f).hostOut = s.hostOut := rfl
@[simp] theorem State.modSkein_parts : (s.modSkein k f).parts = s.parts := rfl
@[simp] theorem State.modSkein_ctxs : (s.modSkein k f).ctxs = s.ctxs := rfl
@[simp] theorem State.modSkein_hw : (s.modSkein k f).hw = s.hw := rfl
@[simp] theorem State.modSkein_aside : (s.modSkein k f).aside = s.aside := rfl
@[simp] theorem State.modSkein_cursor : (s.modSkein k f).cursor = s.cursor := rfl
@[simp] theorem State.modSkein_lqs : (s.modSkein k f).lqs = s.lqs := rfl
@[simp] theorem State.modSkein_trees : (s.modSkein k f).trees = s.trees := rfl
@[simp] theorem State.modSkein_nodes : (s.modSkein k f).nodes = s.nodes := rfl
@[simp] theorem State.modSkein_watch : (s.modSkein k f).watch = s.watch := rfl
@[simp] theorem State.modSkein_links : (s.modSkein k f).links = s.links := rfl
@[simp] theorem State.modSkein_fibres : (s.modSkein k f).fibres = s.fibres := rfl
@[simp] theorem State.modSkein_beats : (s.modSkein k f).beats = s.beats := rfl
@[simp] theorem State.modSkein_silent : (s.modSkein k f).silent = s.silent := rfl
@[simp] theorem State.modSkein_uidrop : (s.modSkein k f).uidrop = s.uidrop := rfl
@[simp] theorem State.modSkein_hostKeys : (s.modSkein k f).hostKeys = s.hostKeys := rfl
@[simp] theorem State.modSkein_tenantKeys : (s.modSkein k f).tenantKeys = s.tenantKeys := rfl
@[simp] theorem State.modSkein_replicaLog : (s.modSkein k f).replicaLog = s.replicaLog := rfl
@[simp] theorem State.modSkein_svcs : (s.modSkein k f).svcs = s.svcs := rfl
@[simp] theorem State.modSkein_drawn : (s.modSkein k f).drawn = s.drawn := rfl
@[simp] theorem State.modSkein_refilled : (s.modSkein k f).refilled = s.refilled := rfl
@[simp] theorem State.modSkein_raiseAt : (s.modSkein k f).raiseAt = s.raiseAt := rfl
@[simp] theorem State.modSkein_flits : (s.modSkein k f).flits = s.flits := rfl
@[simp] theorem State.modSkein_meshAt : (s.modSkein k f).meshAt = s.meshAt := rfl
@[simp] theorem State.modSkein_replicated : (s.modSkein k f).replicated = s.replicated := rfl
@[simp] theorem State.modSkein_descAt : (s.modSkein k f).descAt = s.descAt := rfl
@[simp] theorem State.modSkein_dieMisses : (s.modSkein k f).dieMisses = s.dieMisses := rfl
end

section
variable (s : State) (k : Nat) (f : Ctx → Ctx)
@[simp] theorem State.modCtx_phase : (s.modCtx k f).phase = s.phase := rfl
@[simp] theorem State.modCtx_flash : (s.modCtx k f).flash = s.flash := rfl
@[simp] theorem State.modCtx_fuses : (s.modCtx k f).fuses = s.fuses := rfl
@[simp] theorem State.modCtx_net : (s.modCtx k f).net = s.net := rfl
@[simp] theorem State.modCtx_cur : (s.modCtx k f).cur = s.cur := rfl
@[simp] theorem State.modCtx_free : (s.modCtx k f).free = s.free := rfl
@[simp] theorem State.modCtx_cycle : (s.modCtx k f).cycle = s.cycle := rfl
@[simp] theorem State.modCtx_tick : (s.modCtx k f).tick = s.tick := rfl
@[simp] theorem State.modCtx_tickAt : (s.modCtx k f).tickAt = s.tickAt := rfl
@[simp] theorem State.modCtx_clock : (s.modCtx k f).clock = s.clock := rfl
@[simp] theorem State.modCtx_uses : (s.modCtx k f).uses = s.uses := rfl
@[simp] theorem State.modCtx_wheel : (s.modCtx k f).wheel = s.wheel := rfl
@[simp] theorem State.modCtx_wheelNext : (s.modCtx k f).wheelNext = s.wheelNext := rfl
@[simp] theorem State.modCtx_plies : (s.modCtx k f).plies = s.plies := rfl
@[simp] theorem State.modCtx_skeins : (s.modCtx k f).skeins = s.skeins := rfl
@[simp] theorem State.modCtx_launches : (s.modCtx k f).launches = s.launches := rfl
@[simp] theorem State.modCtx_mem : (s.modCtx k f).mem = s.mem := rfl
@[simp] theorem State.modCtx_keyed : (s.modCtx k f).keyed = s.keyed := rfl
@[simp] theorem State.modCtx_cores : (s.modCtx k f).cores = s.cores := rfl
@[simp] theorem State.modCtx_dieTlbs : (s.modCtx k f).dieTlbs = s.dieTlbs := rfl
@[simp] theorem State.modCtx_ats : (s.modCtx k f).ats = s.ats := rfl
@[simp] theorem State.modCtx_misses : (s.modCtx k f).misses = s.misses := rfl
@[simp] theorem State.modCtx_faults : (s.modCtx k f).faults = s.faults := rfl
@[simp] theorem State.modCtx_fbcfg : (s.modCtx k f).fbcfg = s.fbcfg := rfl
@[simp] theorem State.modCtx_fbcnt : (s.modCtx k f).fbcnt = s.fbcnt := rfl
@[simp] theorem State.modCtx_prgAlloc : (s.modCtx k f).prgAlloc = s.prgAlloc := rfl
@[simp] theorem State.modCtx_dec0 : (s.modCtx k f).dec0 = s.dec0 := rfl
@[simp] theorem State.modCtx_dec1 : (s.modCtx k f).dec1 = s.dec1 := rfl
@[simp] theorem State.modCtx_dir : (s.modCtx k f).dir = s.dir := rfl
@[simp] theorem State.modCtx_tags : (s.modCtx k f).tags = s.tags := rfl
@[simp] theorem State.modCtx_rdc : (s.modCtx k f).rdc = s.rdc := rfl
@[simp] theorem State.modCtx_classes : (s.modCtx k f).classes = s.classes := rfl
@[simp] theorem State.modCtx_withdrawn : (s.modCtx k f).withdrawn = s.withdrawn := rfl
@[simp] theorem State.modCtx_mons : (s.modCtx k f).mons = s.mons := rfl
@[simp] theorem State.modCtx_txns : (s.modCtx k f).txns = s.txns := rfl
@[simp] theorem State.modCtx_nextTxn : (s.modCtx k f).nextTxn = s.nextTxn := rfl
@[simp] theorem State.modCtx_mixlog : (s.modCtx k f).mixlog = s.mixlog := rfl
@[simp] theorem State.modCtx_fenced : (s.modCtx k f).fenced = s.fenced := rfl
@[simp] theorem State.modCtx_sliceHold : (s.modCtx k f).sliceHold = s.sliceHold := rfl
@[simp] theorem State.modCtx_invals : (s.modCtx k f).invals = s.invals := rfl
@[simp] theorem State.modCtx_hostOut : (s.modCtx k f).hostOut = s.hostOut := rfl
@[simp] theorem State.modCtx_parts : (s.modCtx k f).parts = s.parts := rfl
@[simp] theorem State.modCtx_ctxs : (s.modCtx k f).ctxs = s.ctxs.modify k f := rfl
@[simp] theorem State.modCtx_hw : (s.modCtx k f).hw = s.hw := rfl
@[simp] theorem State.modCtx_aside : (s.modCtx k f).aside = s.aside := rfl
@[simp] theorem State.modCtx_cursor : (s.modCtx k f).cursor = s.cursor := rfl
@[simp] theorem State.modCtx_lqs : (s.modCtx k f).lqs = s.lqs := rfl
@[simp] theorem State.modCtx_trees : (s.modCtx k f).trees = s.trees := rfl
@[simp] theorem State.modCtx_nodes : (s.modCtx k f).nodes = s.nodes := rfl
@[simp] theorem State.modCtx_watch : (s.modCtx k f).watch = s.watch := rfl
@[simp] theorem State.modCtx_links : (s.modCtx k f).links = s.links := rfl
@[simp] theorem State.modCtx_fibres : (s.modCtx k f).fibres = s.fibres := rfl
@[simp] theorem State.modCtx_beats : (s.modCtx k f).beats = s.beats := rfl
@[simp] theorem State.modCtx_silent : (s.modCtx k f).silent = s.silent := rfl
@[simp] theorem State.modCtx_uidrop : (s.modCtx k f).uidrop = s.uidrop := rfl
@[simp] theorem State.modCtx_hostKeys : (s.modCtx k f).hostKeys = s.hostKeys := rfl
@[simp] theorem State.modCtx_tenantKeys : (s.modCtx k f).tenantKeys = s.tenantKeys := rfl
@[simp] theorem State.modCtx_replicaLog : (s.modCtx k f).replicaLog = s.replicaLog := rfl
@[simp] theorem State.modCtx_svcs : (s.modCtx k f).svcs = s.svcs := rfl
@[simp] theorem State.modCtx_drawn : (s.modCtx k f).drawn = s.drawn := rfl
@[simp] theorem State.modCtx_refilled : (s.modCtx k f).refilled = s.refilled := rfl
@[simp] theorem State.modCtx_raiseAt : (s.modCtx k f).raiseAt = s.raiseAt := rfl
@[simp] theorem State.modCtx_flits : (s.modCtx k f).flits = s.flits := rfl
@[simp] theorem State.modCtx_meshAt : (s.modCtx k f).meshAt = s.meshAt := rfl
@[simp] theorem State.modCtx_replicated : (s.modCtx k f).replicated = s.replicated := rfl
@[simp] theorem State.modCtx_descAt : (s.modCtx k f).descAt = s.descAt := rfl
@[simp] theorem State.modCtx_dieMisses : (s.modCtx k f).dieMisses = s.dieMisses := rfl
end

section
variable (s : State) (k : Nat) (f : Launch → Launch)
@[simp] theorem State.modLaunch_phase : (s.modLaunch k f).phase = s.phase := rfl
@[simp] theorem State.modLaunch_flash : (s.modLaunch k f).flash = s.flash := rfl
@[simp] theorem State.modLaunch_fuses : (s.modLaunch k f).fuses = s.fuses := rfl
@[simp] theorem State.modLaunch_net : (s.modLaunch k f).net = s.net := rfl
@[simp] theorem State.modLaunch_cur : (s.modLaunch k f).cur = s.cur := rfl
@[simp] theorem State.modLaunch_free : (s.modLaunch k f).free = s.free := rfl
@[simp] theorem State.modLaunch_cycle : (s.modLaunch k f).cycle = s.cycle := rfl
@[simp] theorem State.modLaunch_tick : (s.modLaunch k f).tick = s.tick := rfl
@[simp] theorem State.modLaunch_tickAt : (s.modLaunch k f).tickAt = s.tickAt := rfl
@[simp] theorem State.modLaunch_clock : (s.modLaunch k f).clock = s.clock := rfl
@[simp] theorem State.modLaunch_uses : (s.modLaunch k f).uses = s.uses := rfl
@[simp] theorem State.modLaunch_wheel : (s.modLaunch k f).wheel = s.wheel := rfl
@[simp] theorem State.modLaunch_wheelNext : (s.modLaunch k f).wheelNext = s.wheelNext := rfl
@[simp] theorem State.modLaunch_plies : (s.modLaunch k f).plies = s.plies := rfl
@[simp] theorem State.modLaunch_skeins : (s.modLaunch k f).skeins = s.skeins := rfl
@[simp] theorem State.modLaunch_launches : (s.modLaunch k f).launches = s.launches.modify k f := rfl
@[simp] theorem State.modLaunch_mem : (s.modLaunch k f).mem = s.mem := rfl
@[simp] theorem State.modLaunch_keyed : (s.modLaunch k f).keyed = s.keyed := rfl
@[simp] theorem State.modLaunch_cores : (s.modLaunch k f).cores = s.cores := rfl
@[simp] theorem State.modLaunch_dieTlbs : (s.modLaunch k f).dieTlbs = s.dieTlbs := rfl
@[simp] theorem State.modLaunch_ats : (s.modLaunch k f).ats = s.ats := rfl
@[simp] theorem State.modLaunch_misses : (s.modLaunch k f).misses = s.misses := rfl
@[simp] theorem State.modLaunch_faults : (s.modLaunch k f).faults = s.faults := rfl
@[simp] theorem State.modLaunch_fbcfg : (s.modLaunch k f).fbcfg = s.fbcfg := rfl
@[simp] theorem State.modLaunch_fbcnt : (s.modLaunch k f).fbcnt = s.fbcnt := rfl
@[simp] theorem State.modLaunch_prgAlloc : (s.modLaunch k f).prgAlloc = s.prgAlloc := rfl
@[simp] theorem State.modLaunch_dec0 : (s.modLaunch k f).dec0 = s.dec0 := rfl
@[simp] theorem State.modLaunch_dec1 : (s.modLaunch k f).dec1 = s.dec1 := rfl
@[simp] theorem State.modLaunch_dir : (s.modLaunch k f).dir = s.dir := rfl
@[simp] theorem State.modLaunch_tags : (s.modLaunch k f).tags = s.tags := rfl
@[simp] theorem State.modLaunch_rdc : (s.modLaunch k f).rdc = s.rdc := rfl
@[simp] theorem State.modLaunch_classes : (s.modLaunch k f).classes = s.classes := rfl
@[simp] theorem State.modLaunch_withdrawn : (s.modLaunch k f).withdrawn = s.withdrawn := rfl
@[simp] theorem State.modLaunch_mons : (s.modLaunch k f).mons = s.mons := rfl
@[simp] theorem State.modLaunch_txns : (s.modLaunch k f).txns = s.txns := rfl
@[simp] theorem State.modLaunch_nextTxn : (s.modLaunch k f).nextTxn = s.nextTxn := rfl
@[simp] theorem State.modLaunch_mixlog : (s.modLaunch k f).mixlog = s.mixlog := rfl
@[simp] theorem State.modLaunch_fenced : (s.modLaunch k f).fenced = s.fenced := rfl
@[simp] theorem State.modLaunch_sliceHold : (s.modLaunch k f).sliceHold = s.sliceHold := rfl
@[simp] theorem State.modLaunch_invals : (s.modLaunch k f).invals = s.invals := rfl
@[simp] theorem State.modLaunch_hostOut : (s.modLaunch k f).hostOut = s.hostOut := rfl
@[simp] theorem State.modLaunch_parts : (s.modLaunch k f).parts = s.parts := rfl
@[simp] theorem State.modLaunch_ctxs : (s.modLaunch k f).ctxs = s.ctxs := rfl
@[simp] theorem State.modLaunch_hw : (s.modLaunch k f).hw = s.hw := rfl
@[simp] theorem State.modLaunch_aside : (s.modLaunch k f).aside = s.aside := rfl
@[simp] theorem State.modLaunch_cursor : (s.modLaunch k f).cursor = s.cursor := rfl
@[simp] theorem State.modLaunch_lqs : (s.modLaunch k f).lqs = s.lqs := rfl
@[simp] theorem State.modLaunch_trees : (s.modLaunch k f).trees = s.trees := rfl
@[simp] theorem State.modLaunch_nodes : (s.modLaunch k f).nodes = s.nodes := rfl
@[simp] theorem State.modLaunch_watch : (s.modLaunch k f).watch = s.watch := rfl
@[simp] theorem State.modLaunch_links : (s.modLaunch k f).links = s.links := rfl
@[simp] theorem State.modLaunch_fibres : (s.modLaunch k f).fibres = s.fibres := rfl
@[simp] theorem State.modLaunch_beats : (s.modLaunch k f).beats = s.beats := rfl
@[simp] theorem State.modLaunch_silent : (s.modLaunch k f).silent = s.silent := rfl
@[simp] theorem State.modLaunch_uidrop : (s.modLaunch k f).uidrop = s.uidrop := rfl
@[simp] theorem State.modLaunch_hostKeys : (s.modLaunch k f).hostKeys = s.hostKeys := rfl
@[simp] theorem State.modLaunch_tenantKeys : (s.modLaunch k f).tenantKeys = s.tenantKeys := rfl
@[simp] theorem State.modLaunch_replicaLog : (s.modLaunch k f).replicaLog = s.replicaLog := rfl
@[simp] theorem State.modLaunch_svcs : (s.modLaunch k f).svcs = s.svcs := rfl
@[simp] theorem State.modLaunch_drawn : (s.modLaunch k f).drawn = s.drawn := rfl
@[simp] theorem State.modLaunch_refilled : (s.modLaunch k f).refilled = s.refilled := rfl
@[simp] theorem State.modLaunch_raiseAt : (s.modLaunch k f).raiseAt = s.raiseAt := rfl
@[simp] theorem State.modLaunch_flits : (s.modLaunch k f).flits = s.flits := rfl
@[simp] theorem State.modLaunch_meshAt : (s.modLaunch k f).meshAt = s.meshAt := rfl
@[simp] theorem State.modLaunch_replicated : (s.modLaunch k f).replicated = s.replicated := rfl
@[simp] theorem State.modLaunch_descAt : (s.modLaunch k f).descAt = s.descAt := rfl
@[simp] theorem State.modLaunch_dieMisses : (s.modLaunch k f).dieMisses = s.dieMisses := rfl
end

section
variable (s : State) (k : Nat) (f : CoreHw → CoreHw)
@[simp] theorem State.modHw_phase : (s.modHw k f).phase = s.phase := rfl
@[simp] theorem State.modHw_flash : (s.modHw k f).flash = s.flash := rfl
@[simp] theorem State.modHw_fuses : (s.modHw k f).fuses = s.fuses := rfl
@[simp] theorem State.modHw_net : (s.modHw k f).net = s.net := rfl
@[simp] theorem State.modHw_cur : (s.modHw k f).cur = s.cur := rfl
@[simp] theorem State.modHw_free : (s.modHw k f).free = s.free := rfl
@[simp] theorem State.modHw_cycle : (s.modHw k f).cycle = s.cycle := rfl
@[simp] theorem State.modHw_tick : (s.modHw k f).tick = s.tick := rfl
@[simp] theorem State.modHw_tickAt : (s.modHw k f).tickAt = s.tickAt := rfl
@[simp] theorem State.modHw_clock : (s.modHw k f).clock = s.clock := rfl
@[simp] theorem State.modHw_uses : (s.modHw k f).uses = s.uses := rfl
@[simp] theorem State.modHw_wheel : (s.modHw k f).wheel = s.wheel := rfl
@[simp] theorem State.modHw_wheelNext : (s.modHw k f).wheelNext = s.wheelNext := rfl
@[simp] theorem State.modHw_plies : (s.modHw k f).plies = s.plies := rfl
@[simp] theorem State.modHw_skeins : (s.modHw k f).skeins = s.skeins := rfl
@[simp] theorem State.modHw_launches : (s.modHw k f).launches = s.launches := rfl
@[simp] theorem State.modHw_mem : (s.modHw k f).mem = s.mem := rfl
@[simp] theorem State.modHw_keyed : (s.modHw k f).keyed = s.keyed := rfl
@[simp] theorem State.modHw_cores : (s.modHw k f).cores = s.cores := rfl
@[simp] theorem State.modHw_dieTlbs : (s.modHw k f).dieTlbs = s.dieTlbs := rfl
@[simp] theorem State.modHw_ats : (s.modHw k f).ats = s.ats := rfl
@[simp] theorem State.modHw_misses : (s.modHw k f).misses = s.misses := rfl
@[simp] theorem State.modHw_faults : (s.modHw k f).faults = s.faults := rfl
@[simp] theorem State.modHw_fbcfg : (s.modHw k f).fbcfg = s.fbcfg := rfl
@[simp] theorem State.modHw_fbcnt : (s.modHw k f).fbcnt = s.fbcnt := rfl
@[simp] theorem State.modHw_prgAlloc : (s.modHw k f).prgAlloc = s.prgAlloc := rfl
@[simp] theorem State.modHw_dec0 : (s.modHw k f).dec0 = s.dec0 := rfl
@[simp] theorem State.modHw_dec1 : (s.modHw k f).dec1 = s.dec1 := rfl
@[simp] theorem State.modHw_dir : (s.modHw k f).dir = s.dir := rfl
@[simp] theorem State.modHw_tags : (s.modHw k f).tags = s.tags := rfl
@[simp] theorem State.modHw_rdc : (s.modHw k f).rdc = s.rdc := rfl
@[simp] theorem State.modHw_classes : (s.modHw k f).classes = s.classes := rfl
@[simp] theorem State.modHw_withdrawn : (s.modHw k f).withdrawn = s.withdrawn := rfl
@[simp] theorem State.modHw_mons : (s.modHw k f).mons = s.mons := rfl
@[simp] theorem State.modHw_txns : (s.modHw k f).txns = s.txns := rfl
@[simp] theorem State.modHw_nextTxn : (s.modHw k f).nextTxn = s.nextTxn := rfl
@[simp] theorem State.modHw_mixlog : (s.modHw k f).mixlog = s.mixlog := rfl
@[simp] theorem State.modHw_fenced : (s.modHw k f).fenced = s.fenced := rfl
@[simp] theorem State.modHw_sliceHold : (s.modHw k f).sliceHold = s.sliceHold := rfl
@[simp] theorem State.modHw_invals : (s.modHw k f).invals = s.invals := rfl
@[simp] theorem State.modHw_hostOut : (s.modHw k f).hostOut = s.hostOut := rfl
@[simp] theorem State.modHw_parts : (s.modHw k f).parts = s.parts := rfl
@[simp] theorem State.modHw_ctxs : (s.modHw k f).ctxs = s.ctxs := rfl
@[simp] theorem State.modHw_hw : (s.modHw k f).hw = s.hw.set k (f (s.hwOf k)) := rfl
@[simp] theorem State.modHw_aside : (s.modHw k f).aside = s.aside := rfl
@[simp] theorem State.modHw_cursor : (s.modHw k f).cursor = s.cursor := rfl
@[simp] theorem State.modHw_lqs : (s.modHw k f).lqs = s.lqs := rfl
@[simp] theorem State.modHw_trees : (s.modHw k f).trees = s.trees := rfl
@[simp] theorem State.modHw_nodes : (s.modHw k f).nodes = s.nodes := rfl
@[simp] theorem State.modHw_watch : (s.modHw k f).watch = s.watch := rfl
@[simp] theorem State.modHw_links : (s.modHw k f).links = s.links := rfl
@[simp] theorem State.modHw_fibres : (s.modHw k f).fibres = s.fibres := rfl
@[simp] theorem State.modHw_beats : (s.modHw k f).beats = s.beats := rfl
@[simp] theorem State.modHw_silent : (s.modHw k f).silent = s.silent := rfl
@[simp] theorem State.modHw_uidrop : (s.modHw k f).uidrop = s.uidrop := rfl
@[simp] theorem State.modHw_hostKeys : (s.modHw k f).hostKeys = s.hostKeys := rfl
@[simp] theorem State.modHw_tenantKeys : (s.modHw k f).tenantKeys = s.tenantKeys := rfl
@[simp] theorem State.modHw_replicaLog : (s.modHw k f).replicaLog = s.replicaLog := rfl
@[simp] theorem State.modHw_svcs : (s.modHw k f).svcs = s.svcs := rfl
@[simp] theorem State.modHw_drawn : (s.modHw k f).drawn = s.drawn := rfl
@[simp] theorem State.modHw_refilled : (s.modHw k f).refilled = s.refilled := rfl
@[simp] theorem State.modHw_raiseAt : (s.modHw k f).raiseAt = s.raiseAt := rfl
@[simp] theorem State.modHw_flits : (s.modHw k f).flits = s.flits := rfl
@[simp] theorem State.modHw_meshAt : (s.modHw k f).meshAt = s.meshAt := rfl
@[simp] theorem State.modHw_replicated : (s.modHw k f).replicated = s.replicated := rfl
@[simp] theorem State.modHw_descAt : (s.modHw k f).descAt = s.descAt := rfl
@[simp] theorem State.modHw_dieMisses : (s.modHw k f).dieMisses = s.dieMisses := rfl
end

section
variable (s : State) (k : Nat) (f : CoreMem → CoreMem)
@[simp] theorem State.modCore_phase : (s.modCore k f).phase = s.phase := rfl
@[simp] theorem State.modCore_flash : (s.modCore k f).flash = s.flash := rfl
@[simp] theorem State.modCore_fuses : (s.modCore k f).fuses = s.fuses := rfl
@[simp] theorem State.modCore_net : (s.modCore k f).net = s.net := rfl
@[simp] theorem State.modCore_cur : (s.modCore k f).cur = s.cur := rfl
@[simp] theorem State.modCore_free : (s.modCore k f).free = s.free := rfl
@[simp] theorem State.modCore_cycle : (s.modCore k f).cycle = s.cycle := rfl
@[simp] theorem State.modCore_tick : (s.modCore k f).tick = s.tick := rfl
@[simp] theorem State.modCore_tickAt : (s.modCore k f).tickAt = s.tickAt := rfl
@[simp] theorem State.modCore_clock : (s.modCore k f).clock = s.clock := rfl
@[simp] theorem State.modCore_uses : (s.modCore k f).uses = s.uses := rfl
@[simp] theorem State.modCore_wheel : (s.modCore k f).wheel = s.wheel := rfl
@[simp] theorem State.modCore_wheelNext : (s.modCore k f).wheelNext = s.wheelNext := rfl
@[simp] theorem State.modCore_plies : (s.modCore k f).plies = s.plies := rfl
@[simp] theorem State.modCore_skeins : (s.modCore k f).skeins = s.skeins := rfl
@[simp] theorem State.modCore_launches : (s.modCore k f).launches = s.launches := rfl
@[simp] theorem State.modCore_mem : (s.modCore k f).mem = s.mem := rfl
@[simp] theorem State.modCore_keyed : (s.modCore k f).keyed = s.keyed := rfl
@[simp] theorem State.modCore_cores : (s.modCore k f).cores = s.cores.set k (f (s.core k)) := rfl
@[simp] theorem State.modCore_dieTlbs : (s.modCore k f).dieTlbs = s.dieTlbs := rfl
@[simp] theorem State.modCore_ats : (s.modCore k f).ats = s.ats := rfl
@[simp] theorem State.modCore_misses : (s.modCore k f).misses = s.misses := rfl
@[simp] theorem State.modCore_faults : (s.modCore k f).faults = s.faults := rfl
@[simp] theorem State.modCore_fbcfg : (s.modCore k f).fbcfg = s.fbcfg := rfl
@[simp] theorem State.modCore_fbcnt : (s.modCore k f).fbcnt = s.fbcnt := rfl
@[simp] theorem State.modCore_prgAlloc : (s.modCore k f).prgAlloc = s.prgAlloc := rfl
@[simp] theorem State.modCore_dec0 : (s.modCore k f).dec0 = s.dec0 := rfl
@[simp] theorem State.modCore_dec1 : (s.modCore k f).dec1 = s.dec1 := rfl
@[simp] theorem State.modCore_dir : (s.modCore k f).dir = s.dir := rfl
@[simp] theorem State.modCore_tags : (s.modCore k f).tags = s.tags := rfl
@[simp] theorem State.modCore_rdc : (s.modCore k f).rdc = s.rdc := rfl
@[simp] theorem State.modCore_classes : (s.modCore k f).classes = s.classes := rfl
@[simp] theorem State.modCore_withdrawn : (s.modCore k f).withdrawn = s.withdrawn := rfl
@[simp] theorem State.modCore_mons : (s.modCore k f).mons = s.mons := rfl
@[simp] theorem State.modCore_txns : (s.modCore k f).txns = s.txns := rfl
@[simp] theorem State.modCore_nextTxn : (s.modCore k f).nextTxn = s.nextTxn := rfl
@[simp] theorem State.modCore_mixlog : (s.modCore k f).mixlog = s.mixlog := rfl
@[simp] theorem State.modCore_fenced : (s.modCore k f).fenced = s.fenced := rfl
@[simp] theorem State.modCore_sliceHold : (s.modCore k f).sliceHold = s.sliceHold := rfl
@[simp] theorem State.modCore_invals : (s.modCore k f).invals = s.invals := rfl
@[simp] theorem State.modCore_hostOut : (s.modCore k f).hostOut = s.hostOut := rfl
@[simp] theorem State.modCore_parts : (s.modCore k f).parts = s.parts := rfl
@[simp] theorem State.modCore_ctxs : (s.modCore k f).ctxs = s.ctxs := rfl
@[simp] theorem State.modCore_hw : (s.modCore k f).hw = s.hw := rfl
@[simp] theorem State.modCore_aside : (s.modCore k f).aside = s.aside := rfl
@[simp] theorem State.modCore_cursor : (s.modCore k f).cursor = s.cursor := rfl
@[simp] theorem State.modCore_lqs : (s.modCore k f).lqs = s.lqs := rfl
@[simp] theorem State.modCore_trees : (s.modCore k f).trees = s.trees := rfl
@[simp] theorem State.modCore_nodes : (s.modCore k f).nodes = s.nodes := rfl
@[simp] theorem State.modCore_watch : (s.modCore k f).watch = s.watch := rfl
@[simp] theorem State.modCore_links : (s.modCore k f).links = s.links := rfl
@[simp] theorem State.modCore_fibres : (s.modCore k f).fibres = s.fibres := rfl
@[simp] theorem State.modCore_beats : (s.modCore k f).beats = s.beats := rfl
@[simp] theorem State.modCore_silent : (s.modCore k f).silent = s.silent := rfl
@[simp] theorem State.modCore_uidrop : (s.modCore k f).uidrop = s.uidrop := rfl
@[simp] theorem State.modCore_hostKeys : (s.modCore k f).hostKeys = s.hostKeys := rfl
@[simp] theorem State.modCore_tenantKeys : (s.modCore k f).tenantKeys = s.tenantKeys := rfl
@[simp] theorem State.modCore_replicaLog : (s.modCore k f).replicaLog = s.replicaLog := rfl
@[simp] theorem State.modCore_svcs : (s.modCore k f).svcs = s.svcs := rfl
@[simp] theorem State.modCore_drawn : (s.modCore k f).drawn = s.drawn := rfl
@[simp] theorem State.modCore_refilled : (s.modCore k f).refilled = s.refilled := rfl
@[simp] theorem State.modCore_raiseAt : (s.modCore k f).raiseAt = s.raiseAt := rfl
@[simp] theorem State.modCore_flits : (s.modCore k f).flits = s.flits := rfl
@[simp] theorem State.modCore_meshAt : (s.modCore k f).meshAt = s.meshAt := rfl
@[simp] theorem State.modCore_replicated : (s.modCore k f).replicated = s.replicated := rfl
@[simp] theorem State.modCore_descAt : (s.modCore k f).descAt = s.descAt := rfl
@[simp] theorem State.modCore_dieMisses : (s.modCore k f).dieMisses = s.dieMisses := rfl
end

section
variable (s : State) (i : Instr)
@[simp] theorem State.send_phase : (s.send i).phase = s.phase := rfl
@[simp] theorem State.send_flash : (s.send i).flash = s.flash := rfl
@[simp] theorem State.send_fuses : (s.send i).fuses = s.fuses := rfl
@[simp] theorem State.send_net : (s.send i).net = s.net ++ [i] := rfl
@[simp] theorem State.send_cur : (s.send i).cur = s.cur := rfl
@[simp] theorem State.send_free : (s.send i).free = s.free := rfl
@[simp] theorem State.send_cycle : (s.send i).cycle = s.cycle := rfl
@[simp] theorem State.send_tick : (s.send i).tick = s.tick := rfl
@[simp] theorem State.send_tickAt : (s.send i).tickAt = s.tickAt := rfl
@[simp] theorem State.send_clock : (s.send i).clock = s.clock := rfl
@[simp] theorem State.send_uses : (s.send i).uses = s.uses := rfl
@[simp] theorem State.send_wheel : (s.send i).wheel = s.wheel := rfl
@[simp] theorem State.send_wheelNext : (s.send i).wheelNext = s.wheelNext := rfl
@[simp] theorem State.send_plies : (s.send i).plies = s.plies := rfl
@[simp] theorem State.send_skeins : (s.send i).skeins = s.skeins := rfl
@[simp] theorem State.send_launches : (s.send i).launches = s.launches := rfl
@[simp] theorem State.send_mem : (s.send i).mem = s.mem := rfl
@[simp] theorem State.send_keyed : (s.send i).keyed = s.keyed := rfl
@[simp] theorem State.send_cores : (s.send i).cores = s.cores := rfl
@[simp] theorem State.send_dieTlbs : (s.send i).dieTlbs = s.dieTlbs := rfl
@[simp] theorem State.send_ats : (s.send i).ats = s.ats := rfl
@[simp] theorem State.send_misses : (s.send i).misses = s.misses := rfl
@[simp] theorem State.send_faults : (s.send i).faults = s.faults := rfl
@[simp] theorem State.send_fbcfg : (s.send i).fbcfg = s.fbcfg := rfl
@[simp] theorem State.send_fbcnt : (s.send i).fbcnt = s.fbcnt := rfl
@[simp] theorem State.send_prgAlloc : (s.send i).prgAlloc = s.prgAlloc := rfl
@[simp] theorem State.send_dec0 : (s.send i).dec0 = s.dec0 := rfl
@[simp] theorem State.send_dec1 : (s.send i).dec1 = s.dec1 := rfl
@[simp] theorem State.send_dir : (s.send i).dir = s.dir := rfl
@[simp] theorem State.send_tags : (s.send i).tags = s.tags := rfl
@[simp] theorem State.send_rdc : (s.send i).rdc = s.rdc := rfl
@[simp] theorem State.send_classes : (s.send i).classes = s.classes := rfl
@[simp] theorem State.send_withdrawn : (s.send i).withdrawn = s.withdrawn := rfl
@[simp] theorem State.send_mons : (s.send i).mons = s.mons := rfl
@[simp] theorem State.send_txns : (s.send i).txns = s.txns := rfl
@[simp] theorem State.send_nextTxn : (s.send i).nextTxn = s.nextTxn := rfl
@[simp] theorem State.send_mixlog : (s.send i).mixlog = s.mixlog := rfl
@[simp] theorem State.send_fenced : (s.send i).fenced = s.fenced := rfl
@[simp] theorem State.send_sliceHold : (s.send i).sliceHold = s.sliceHold := rfl
@[simp] theorem State.send_invals : (s.send i).invals = s.invals := rfl
@[simp] theorem State.send_hostOut : (s.send i).hostOut = s.hostOut := rfl
@[simp] theorem State.send_parts : (s.send i).parts = s.parts := rfl
@[simp] theorem State.send_ctxs : (s.send i).ctxs = s.ctxs := rfl
@[simp] theorem State.send_hw : (s.send i).hw = s.hw := rfl
@[simp] theorem State.send_aside : (s.send i).aside = s.aside := rfl
@[simp] theorem State.send_cursor : (s.send i).cursor = s.cursor := rfl
@[simp] theorem State.send_lqs : (s.send i).lqs = s.lqs := rfl
@[simp] theorem State.send_trees : (s.send i).trees = s.trees := rfl
@[simp] theorem State.send_nodes : (s.send i).nodes = s.nodes := rfl
@[simp] theorem State.send_watch : (s.send i).watch = s.watch := rfl
@[simp] theorem State.send_links : (s.send i).links = s.links := rfl
@[simp] theorem State.send_fibres : (s.send i).fibres = s.fibres := rfl
@[simp] theorem State.send_beats : (s.send i).beats = s.beats := rfl
@[simp] theorem State.send_silent : (s.send i).silent = s.silent := rfl
@[simp] theorem State.send_uidrop : (s.send i).uidrop = s.uidrop := rfl
@[simp] theorem State.send_hostKeys : (s.send i).hostKeys = s.hostKeys := rfl
@[simp] theorem State.send_tenantKeys : (s.send i).tenantKeys = s.tenantKeys := rfl
@[simp] theorem State.send_replicaLog : (s.send i).replicaLog = s.replicaLog := rfl
@[simp] theorem State.send_svcs : (s.send i).svcs = s.svcs := rfl
@[simp] theorem State.send_drawn : (s.send i).drawn = s.drawn := rfl
@[simp] theorem State.send_refilled : (s.send i).refilled = s.refilled := rfl
@[simp] theorem State.send_raiseAt : (s.send i).raiseAt = s.raiseAt := rfl
@[simp] theorem State.send_flits : (s.send i).flits = s.flits := rfl
@[simp] theorem State.send_meshAt : (s.send i).meshAt = s.meshAt := rfl
@[simp] theorem State.send_replicated : (s.send i).replicated = s.replicated := rfl
@[simp] theorem State.send_descAt : (s.send i).descAt = s.descAt := rfl
@[simp] theorem State.send_dieMisses : (s.send i).dieMisses = s.dieMisses := rfl
end

section
variable (s : State) (m : HostMsg)
@[simp] theorem State.tellHost_phase : (s.tellHost m).phase = s.phase := rfl
@[simp] theorem State.tellHost_flash : (s.tellHost m).flash = s.flash := rfl
@[simp] theorem State.tellHost_fuses : (s.tellHost m).fuses = s.fuses := rfl
@[simp] theorem State.tellHost_net : (s.tellHost m).net = s.net := rfl
@[simp] theorem State.tellHost_cur : (s.tellHost m).cur = s.cur := rfl
@[simp] theorem State.tellHost_free : (s.tellHost m).free = s.free := rfl
@[simp] theorem State.tellHost_cycle : (s.tellHost m).cycle = s.cycle := rfl
@[simp] theorem State.tellHost_tick : (s.tellHost m).tick = s.tick := rfl
@[simp] theorem State.tellHost_tickAt : (s.tellHost m).tickAt = s.tickAt := rfl
@[simp] theorem State.tellHost_clock : (s.tellHost m).clock = s.clock := rfl
@[simp] theorem State.tellHost_uses : (s.tellHost m).uses = s.uses := rfl
@[simp] theorem State.tellHost_wheel : (s.tellHost m).wheel = s.wheel := rfl
@[simp] theorem State.tellHost_wheelNext : (s.tellHost m).wheelNext = s.wheelNext := rfl
@[simp] theorem State.tellHost_plies : (s.tellHost m).plies = s.plies := rfl
@[simp] theorem State.tellHost_skeins : (s.tellHost m).skeins = s.skeins := rfl
@[simp] theorem State.tellHost_launches : (s.tellHost m).launches = s.launches := rfl
@[simp] theorem State.tellHost_mem : (s.tellHost m).mem = s.mem := rfl
@[simp] theorem State.tellHost_keyed : (s.tellHost m).keyed = s.keyed := rfl
@[simp] theorem State.tellHost_cores : (s.tellHost m).cores = s.cores := rfl
@[simp] theorem State.tellHost_dieTlbs : (s.tellHost m).dieTlbs = s.dieTlbs := rfl
@[simp] theorem State.tellHost_ats : (s.tellHost m).ats = s.ats := rfl
@[simp] theorem State.tellHost_misses : (s.tellHost m).misses = s.misses := rfl
@[simp] theorem State.tellHost_faults : (s.tellHost m).faults = s.faults := rfl
@[simp] theorem State.tellHost_fbcfg : (s.tellHost m).fbcfg = s.fbcfg := rfl
@[simp] theorem State.tellHost_fbcnt : (s.tellHost m).fbcnt = s.fbcnt := rfl
@[simp] theorem State.tellHost_prgAlloc : (s.tellHost m).prgAlloc = s.prgAlloc := rfl
@[simp] theorem State.tellHost_dec0 : (s.tellHost m).dec0 = s.dec0 := rfl
@[simp] theorem State.tellHost_dec1 : (s.tellHost m).dec1 = s.dec1 := rfl
@[simp] theorem State.tellHost_dir : (s.tellHost m).dir = s.dir := rfl
@[simp] theorem State.tellHost_tags : (s.tellHost m).tags = s.tags := rfl
@[simp] theorem State.tellHost_rdc : (s.tellHost m).rdc = s.rdc := rfl
@[simp] theorem State.tellHost_classes : (s.tellHost m).classes = s.classes := rfl
@[simp] theorem State.tellHost_withdrawn : (s.tellHost m).withdrawn = s.withdrawn := rfl
@[simp] theorem State.tellHost_mons : (s.tellHost m).mons = s.mons := rfl
@[simp] theorem State.tellHost_txns : (s.tellHost m).txns = s.txns := rfl
@[simp] theorem State.tellHost_nextTxn : (s.tellHost m).nextTxn = s.nextTxn := rfl
@[simp] theorem State.tellHost_mixlog : (s.tellHost m).mixlog = s.mixlog := rfl
@[simp] theorem State.tellHost_fenced : (s.tellHost m).fenced = s.fenced := rfl
@[simp] theorem State.tellHost_sliceHold : (s.tellHost m).sliceHold = s.sliceHold := rfl
@[simp] theorem State.tellHost_invals : (s.tellHost m).invals = s.invals := rfl
@[simp] theorem State.tellHost_hostOut : (s.tellHost m).hostOut = s.hostOut ++ [m] := rfl
@[simp] theorem State.tellHost_parts : (s.tellHost m).parts = s.parts := rfl
@[simp] theorem State.tellHost_ctxs : (s.tellHost m).ctxs = s.ctxs := rfl
@[simp] theorem State.tellHost_hw : (s.tellHost m).hw = s.hw := rfl
@[simp] theorem State.tellHost_aside : (s.tellHost m).aside = s.aside := rfl
@[simp] theorem State.tellHost_cursor : (s.tellHost m).cursor = s.cursor := rfl
@[simp] theorem State.tellHost_lqs : (s.tellHost m).lqs = s.lqs := rfl
@[simp] theorem State.tellHost_trees : (s.tellHost m).trees = s.trees := rfl
@[simp] theorem State.tellHost_nodes : (s.tellHost m).nodes = s.nodes := rfl
@[simp] theorem State.tellHost_watch : (s.tellHost m).watch = s.watch := rfl
@[simp] theorem State.tellHost_links : (s.tellHost m).links = s.links := rfl
@[simp] theorem State.tellHost_fibres : (s.tellHost m).fibres = s.fibres := rfl
@[simp] theorem State.tellHost_beats : (s.tellHost m).beats = s.beats := rfl
@[simp] theorem State.tellHost_silent : (s.tellHost m).silent = s.silent := rfl
@[simp] theorem State.tellHost_uidrop : (s.tellHost m).uidrop = s.uidrop := rfl
@[simp] theorem State.tellHost_hostKeys : (s.tellHost m).hostKeys = s.hostKeys := rfl
@[simp] theorem State.tellHost_tenantKeys : (s.tellHost m).tenantKeys = s.tenantKeys := rfl
@[simp] theorem State.tellHost_replicaLog : (s.tellHost m).replicaLog = s.replicaLog := rfl
@[simp] theorem State.tellHost_svcs : (s.tellHost m).svcs = s.svcs := rfl
@[simp] theorem State.tellHost_drawn : (s.tellHost m).drawn = s.drawn := rfl
@[simp] theorem State.tellHost_refilled : (s.tellHost m).refilled = s.refilled := rfl
@[simp] theorem State.tellHost_raiseAt : (s.tellHost m).raiseAt = s.raiseAt := rfl
@[simp] theorem State.tellHost_flits : (s.tellHost m).flits = s.flits := rfl
@[simp] theorem State.tellHost_meshAt : (s.tellHost m).meshAt = s.meshAt := rfl
@[simp] theorem State.tellHost_replicated : (s.tellHost m).replicated = s.replicated := rfl
@[simp] theorem State.tellHost_descAt : (s.tellHost m).descAt = s.descAt := rfl
@[simp] theorem State.tellHost_dieMisses : (s.tellHost m).dieMisses = s.dieMisses := rfl
end

end Sys2Proof.Machine
end

