-- ==== Sys2Proof/Machine/Views.lean ====
section
/-! DEFINITION. The entries that the service cores read through diagnostic views, in the layouts that the rules give: L2 tags (R118),
directory entries (R123), class entries (R145), tile-table entries (R217), fault-buffer records (R78), and the place of a context
descriptor (R60). -/

namespace Sys2Proof.Machine

/-- The recency rank of a block in its set, 0 the most recent (R118). -/
def tagRank (s : State) (loc : Nat) (e : TagEntry) : Nat := ((tagsOfSet s loc).filter fun x => decide (e.age < x.2.age)).length

/-- The block in a way of a set of a slice. -/
def tagIn (s : State) (slice set way : Nat) : Option (Nat × TagEntry) :=
  List.find? (fun (x : Nat × TagEntry) => decide (s.homeOf x.1 = slice ∧ tagSet x.1 = set ∧ x.2.way = way)) s.tags

/-- An L2 tag entry (R118); an entry of no context shows CTX 0. -/
def tagView (s : State) (slice set way : Nat) : BitVec 128 :=
  match tagIn s slice set way with
  | none => 0
  | some (loc, e) => BitVec.ofNat 128 (packFields [(127, 1, 1), (123, 4, loc / 2 ^ 60), (80, 43, loc / 512), (74, 6, e.key),
      (72, 2, e.grain.toNat), (70, 2, e.cls), (62, 8, e.ctx), (59, 3, e.ten), (43, 16, e.sv.toNat), (27, 16, e.sd.toNat),
      (22, 5, tagRank s loc e)])

def DirSt.code : DirSt → Nat
  | .i => 0
  | .s => 1
  | .m => 2
  | .u => 3

/-- The directory entry of the grain that begins at a location (R123). -/
def dirView (s : State) (grain : Nat) : BitVec 128 :=
  match s.dir.get? grain with
  | none => 0
  | some e => BitVec.ofNat 128 (packFields [(127, 1, 1), (124, 3, e.ten), (122, 2, e.st.code), (106, 16, e.shr.toNat), (105, 1, e.ha.toNat),
      (81, 24, e.lh), (76, 5, e.own), (72, 4, grain % 512 / grainBytes grain e.gcode), (69, 3, e.lp), (68, 1, e.hv.toNat), (0, 64, e.uoh.toNat)])

/-- The class entry of a granule (R145). -/
def classView (s : State) (gran : Nat) : BitVec 128 :=
  match s.classes.get? gran with
  | none => 0
  | some e => BitVec.ofNat 128 (packFields [(127, 1, 1), (125, 2, e.cls.code), (124, 1, e.wd.toNat), (121, 3, e.mig), (120, 1, e.stp.toNat),
      (103, 17, (e.owner.map ownerCode).getD 0), (95, 8, e.ctx), (89, 6, e.lid), (86, 3, e.ten), (0, 64, e.rdrs.toNat)])

/-- Entry `i` of a core's tile table (R217). -/
def tileView (s : State) (core i : Nat) : BitVec 128 :=
  match (s.hwOf core).tiles[i]? with
  | none => 0
  | some e => BitVec.ofNat 128 (valueOf (tileImage e))

def FState.code : FState → Nat
  | .free => 0
  | .gather => 1
  | .sent => 2
  | .retrans => 3
  | .wake => 4

/-- The eight words of a fault-buffer record (R78). -/
def FRec.words (f : FRec) : List DWord :=
  let w (l : List (Nat × Nat × Nat)) : DWord := BitVec.ofNat 64 (packFields l)
  [w [(12, 52, f.vpage), (2, 1, f.x.toNat), (1, 1, f.w.toNat), (0, 1, f.r.toNat)],
   w [(52, 12, f.merged), (43, 9, f.prgi), (40, 3, f.st.code), (38, 2, f.port), (35, 3, f.ten), (0, 20, f.pasid)],
   BitVec.ofNat 64 f.tfirst, BitVec.ofNat 64 f.tresp, f.wait.extractLsb' 0 64, f.wait.extractLsb' 64 64,
   w [(4, 4, f.resp), (1, 3, f.retry), (0, 1, f.rv.toNat)], 0]

/-- The record at index `i` of the fault buffer, zero where none has been opened since reset. -/
def faultRecord (s : State) (i : Nat) : List DWord :=
  match s.faults.find? fun f => f.idx = i with
  | some f => f.words
  | none => List.replicate 8 0

/-- The fault buffer as Bruvik's view shows it: 64 bytes for each record, at 64 × i (R78). -/
def faultWord (s : State) (off : Nat) : DWord := (faultRecord s (off / 64)).getD (off % 64 / 8) 0

/-- The location of a context's descriptor in the 64 KiB table, and a word of it (R60). -/
def descriptorLoc (s : State) (ctx : Nat) : Nat := s.descAt + 256 * ctx

def descriptorWord (s : State) (off : Nat) : DWord := (s.ctx (off / 256)).word (off % 256 / 8)

end Sys2Proof.Machine
end

