-- ==== Sys2Proof/Tests/Slice0.lean ====
section
/-! SUPPORT. Tests: decoding, ill-formed terms, single instructions on small states, and for every statement of
`Certificates/Slice0/Obligations.lean` with hypotheses a state that meets them. -/

open Sys2Proof Sys2Proof.Machine

namespace Sys2Proof.Tests

set_option maxRecDepth 100000

/-! ## The small states -/

/-- One ply of 8 threads, of a skein with two, at the program's first instruction. -/
def ply : Ply := freshPly (placeProgram State.reset []) 0 0 0 programTcb programRecord
def sk : Skein := freshSkein programTcb programRecord 0 0
/-- The module with that ply, whose turn it is. -/
def base : State := { placeProgram State.reset [] with cur := some 0 }
/-- The same with another ply in its place. -/
def at' (p : Ply) : State := { base with plies := [(0, p)] }

/-- The instruction issues without a trap or a wait. -/
abbrev Issues (i : Instr) (s : State) (p : Ply) : Prop :=
  s.cur = some 0 ∧ s.plies.get? 0 = some p ∧ i.legal = true ∧ (p.held = none → dynIllegal s p i = false ∧ levelOf i ≤ p.tl ∧
    p.regpool i = none ∧ (afterStrict i = true → p.strict = 0) ∧ (landsOf i = true → p.out.length < 8) ∧
    (s.debug p = true → (i.shape.thread = true ∧ p.em = 0) ∨ (issuePly i s p).debugTrap (issueAt i s p) i = none))

theorem ready_of_issues {i : Instr} {s : State} {p : Ply} (h : Issues i s p) : Ready i s 0 p :=
  ⟨h.1, h.2.1, h.2.2.1, fun g => let f := h.2.2.2 g; ⟨f.1, f.2.1, f.2.2.1, f.2.2.2.1, f.2.2.2.2.1, f.2.2.2.2.2⟩⟩

/-- It issues, and `c` holds of what it sees: the hypotheses of `Does`, `Traps` and `Waits`. -/
abbrev Meets (i : Instr) (s : State) (p : Ply) (c : Env → State → Bool) : Prop :=
  Issues i s p ∧ c (envOf i s 0 p) (baseOf i s 0 p) = true

theorem ready_of_meets {i : Instr} {s : State} {p : Ply} {c : Env → State → Bool} (h : Meets i s p c) :
    Ready i s 0 p ∧ c (envOf i s 0 p) (baseOf i s 0 p) = true := ⟨ready_of_issues h.1, h.2⟩

/-- It issues at the ply, in the state that has nothing but it. -/
abbrev Here (i : Instr) (p : Ply) (c : Env → Bool) : Prop := Meets i (at' p) p fun v _ => c v

/-! ## Witnesses: lane instructions -/

abbrev v4 : Name := .v 4
abbrev s4 : Name := .s 4
abbrev a8 : Src := ⟨false, .v 8⟩
abbrev b12 : Src := ⟨true, .v 12⟩
abbrev sa : Src := ⟨false, .s 6⟩
abbrev sb : Src := ⟨true, .s 8⟩

theorem witness_IntegerOperationsYield : (∀ i ∈ [Instr.iadd v4 a8 b12 false, .isub v4 a8 b12 true, .imul v4 a8 b12 false, .imad v4 a8 b12 false,
    .imulh v4 a8 b12 false, .imulhn .zero a8 b12 false, .imin v4 a8 b12 false, .iminn v4 a8 b12 false, .imax v4 a8 b12 false,
    .imaxn v4 a8 b12 false, .iadd64 v4 a8 b12 false, .isub64 v4 a8 b12 false, .lea v4 a8 b12 false, .and v4 a8 b12 false,
    .or v4 a8 b12 false, .xor v4 a8 b12 false, .andn v4 a8 b12 false, .shl v4 a8 b12 false, .shr v4 a8 b12 false, .sar v4 a8 b12 false,
    .rotl v4 a8 b12 false, .sel v4 a8 b12 false, .bfe v4 a8 b12 false, .bfi v4 a8 b12 false, .iadd s4 sa sb false,
    .lea s4 sa sb false, .sel s4 sa sb true], Issues i base ply) := by decide

theorem witness_IntegerImmediateYields : (∀ i ∈ [Instr.iaddi v4 a8 0x80 false, .andi v4 a8 0 false, .ori v4 a8 255 true, .xori v4 a8 127 false,
    .shli v4 a8 127 false, .shri v4 a8 32 false, .sari s4 sa 31 false, .movi v4 0xFFFF false, .movhi s4 0 false, .iun v4 a8 0 false,
    .iun v4 a8 1 false, .iun v4 a8 2 false, .iun v4 a8 3 false, .iun v4 a8 4 false, .iun v4 a8 5 false, .iun v4 a8 6 false,
    .iun v4 a8 7 false, .iun v4 a8 8 false, .iun v4 a8 9 false, .iun s4 sa 10 false, .iun v4 a8 11 false], Issues i base ply) ∧
    ∀ (x : Word) (i : Nat), i < 32 → x.reverse.getLsbD i = x.getLsbD (31 - i) := by
  refine ⟨by decide, fun x i h => ?_⟩
  rw [BitVec.getLsbD_reverse, BitVec.getMsbD_eq_getLsbD]
  simp [h]

theorem witness_ShortIntegerYields : ∀ i ∈ [Instr.movH (.v 4) (.v 6) false, .movi5H (.v 4) 31 false, .iaddH (.s 4) (.s 0) false,
    .iaddi5H (.v 4) 16 false, .isubH (.v 4) .lx false, .imulH (.v 4) (.v 6) true, .andH (.o 4) (.v 6) false, .orH (.v 4) (.v 6) false,
    .xorH .zero (.v 6) false, .shli5H (.v 4) 31 false, .shri5H (.v 4) 0 false, .sari5H (.v 4) 7 false], Issues i base ply := by decide

theorem witness_ComparesWritePredicate : (∀ i ∈ [Instr.icmp a8 (.v 12) 7 0 false, .icmp a8 (.v 12) 0 9 false, .icmp a8 (.v 12) 3 16 false,
      .icmp sa (.s 8) 3 25 true, .fcmp a8 (.v 12) 1 0 false, .fcmp sa (.s 8) 1 7 false], Issues i base ply) ∧
    Fmt.f32.unpack 0x7FC00000 = .nan ∧ Fmt.f32.unpack 0x80000001 = .fin true 1 (-149) ∧
    Fmt.f32.unpack 0x3F800000 = .fin false (2 ^ 23) (-23) ∧ Fmt.f32.unpack 0x7F800000 = .inf false ∧
    Fmt.f32.unpack 0xFF800000 = .inf true := by decide

/-- Registers v8 and v12 hold these values in threads 0 and 1, and 0 elsewhere. -/
def two (x y : List Word) : Ply := { ply with v := [(8, x), (12, y)] }
def ones : List Word := List.replicate 8 1

theorem witness_DivisionLands : (∀ i ∈ [Instr.idiv v4 a8 b12 false, .irem v4 a8 b12 true, .idivn v4 a8 b12 false, .iremn v4 a8 b12 false],
      Here i (two [0x80000000, 7] (0xFFFFFFFF :: ones.drop 1)) fun v => ∀ k ∈ v.threads i, v.w 1 k ≠ 0) ∧
    ∀ i ∈ [Instr.idiv v4 a8 b12 false, .idivn v4 a8 b12 false, .irem v4 a8 b12 false, .iremn v4 a8 b12 false],
      Here i (two ones [1]) fun v => ∃ k ∈ v.threads i, v.w 1 k = 0 := by
  and_intros <;> decide

/-- No thread raises a flag that FRM enables. -/
abbrev Quiet (i : Instr) (p : Ply) : Prop := Issues i (at' p) p ∧ ∀ fl : FFlags, fl &&& frmEnables p.frm = 0

theorem witness_FloatArithmeticYields : ∀ i ∈ [Instr.fadd v4 a8 b12 false, .fsub v4 a8 b12 false, .fmul v4 a8 b12 false, .ffma v4 a8 b12 false,
    .fdiv v4 a8 b12 false, .faddH (.v 4) (.v 6) false, .fmulH (.v 4) (.v 6) false, .ffmaH (.v 4) (.v 6) false, .fmin v4 a8 b12 false,
    .fmax s4 sa sb false, .fmaxH (.v 4) (.v 6) false, .fadd2 v4 a8 b12 false, .fmul2 v4 a8 b12 false, .ffma2 v4 a8 b12 false,
    .fdot2 v4 a8 b12 false], Quiet i ply := by decide

theorem witness_ConversionYields : ∀ i ∈ [Instr.funI v4 a8 2 0 false, .funI v4 a8 15 0 false, .funI v4 a8 0 1 false, .cvtF2i v4 a8 0 false,
    .cvtF2n v4 a8 5 false, .cvtF2i64 v4 a8 4 false, .cvtI2f v4 a8 4 false, .cvtN2f s4 sa 1 false, .cvtI642f v4 a8 2 false,
    .cvtF2bf v4 a8 4 false, .cvtBf2f v4 a8 true false, .cvtBf2f v4 a8 false false], Quiet i ply := by decide
theorem witness_EnabledFlagTraps :
    let p : Ply := { two [0x3F800000, 0x7F800000] [0x3F800000, 0xFF800000] with frm := 0x1F0 }
    let fl (i : Instr) (p : Ply) (g : Env → Nat → FFlags) (n : Option Nat) : Prop := Here i p fun v =>
      (laneThreads i p).find? (fun k => decide (g v k &&& frmEnables p.frm ≠ 0)) = n
    fl (.fadd v4 a8 b12 false) p (fun v k =>
      (roundLane (.fadd v4 a8 b12 false) .f32 v (fun k => fAddPre .f32 (frmMode v.p.frm) (v.f32 0 k) (v.f32 1 k)) k 0).2) (some 1) ∧
    fl (.fmul v4 a8 b12 false) { p with v := [(8, [1, 0x7F800000]), (12, [0, 0])] } (fun v k =>
      (roundLane (.fmul v4 a8 b12 false) .f32 v (fun k => fMulPre .f32 (frmMode v.p.frm) (v.f32 0 k) (v.f32 1 k)) k 0).2) (some 1) ∧
    fl (.fdiv v4 a8 b12 false) { p with v := [(8, [0x3F800000, 0x3F800000]), (12, [0x3F800000, 0])] } (fun v k =>
      (roundLane (.fdiv v4 a8 b12 false) .f32 v (fun k => fDivPre .f32 (v.f32 0 k) (v.f32 1 k)) k 0).2) (some 1) ∧
    fl (.funI v4 a8 2 0 false) { p with v := [(8, [0])] } (fun v k => (funF32 2 (v.w 0 k).toNat).2) (some 0) := by
  and_intros <;> decide

theorem witness_RoundingBrackets : (Fmt.f32.grid 3 0).q ≤ 0 ∧ (0 : Int) < (Fmt.bf16.grid 0xFFFFFF 0).q ∧
    (Fmt.bf16.grid 0xFFFFFF 0).r ≠ 0 := by decide

theorem witness_ExchangeYields : ∀ i ∈ [Instr.shfl v4 a8 b12 false, .shflx v4 a8 7 false, .rdlane v4 a8 0 false, .scan v4 a8 0 true false,
    .scan v4 a8 7 false false, .reduce v4 a8 5 false, .matchI v4 a8 b12 false, .voteAny v4 0 false, .voteAll v4 7 false,
    .voteBallot v4 3 true, .voteCount .zero 3 false, .wrlane v4 a8 7 false], Issues i base ply := by decide

theorem witness_HashesYield : ∀ i ∈ [Instr.hash v4 a8 b12 false, .hash64 v4 a8 b12 true, .crc v4 a8 b12 false, .part v4 a8 b12 false],
    Issues i base ply := by decide

/-! ## Witnesses: control flow -/

/-- s6 holds a value. -/
def withS (x : DWord) : Ply := { ply with s := [(6, x)] }

theorem witness_TransfersComplete :
    (∀ i ∈ [Instr.bra 0x7FFFFF false, .call 4 false, .nop true], Issues i base ply) ∧
    Here (.brq 0 0x7FFFF false) { ply with q := 1 } (fun v => v.pred.getLsbD 0 ≠ (0#4).getLsbD 3) ∧
    Here (.brq 8 4 false) { ply with q := 1 } (fun v => v.pred.getLsbD 0 = (8#4).getLsbD 3) ∧
    (∀ i ∈ [Instr.calli s4 sa false, .jmpi sa false, .ret sa false], Here i (withS 0x2000) fun v => (v.dw 0 0).getLsbD 0 = false) ∧
    ∀ i ∈ [Instr.calli s4 sa false, .jmpi sa false, .ret sa false], Here i (withS 0x2001) fun v => (v.dw 0 0).getLsbD 0 = true := by
  and_intros <;> decide

def ifE : DivEntry := ⟨.ifK, 0xFF, 0x0F, false, 0⟩
def loopE : DivEntry := ⟨.loop, 0xFF, 0x0F, false, 0x1000⟩
def stk (l : List DivEntry) (floor : Nat) : Ply := { ply with stack := l, floor := floor }

theorem witness_IfElseComplete :
    Here (.ifp 15 4 false) (stk (List.replicate 15 ifE) 0) (fun v => v.p.stack.length ≠ 16) ∧
    Here (.elseI 4 false) (stk [ifE, loopE] 1) (fun v => v.p.stack = [ifE, loopE] ∧ v.p.floor < v.p.stack.length ∧
      ifE.kind ≠ .loop ∧ ifE.elsed = false) ∧
    Here (.endif false) (stk [ifE] 0) (fun v => v.p.stack = [ifE] ∧ v.p.floor < v.p.stack.length ∧ ifE.kind ≠ .loop) ∧
    Here (.elect s4 false) { ply with em := 0x88 } (fun v => v.p.stack.length ≠ 16 ∧ 3 < 64 ∧ v.p.em.getLsbD 3 ∧
      ∀ j < 3, v.p.em.getLsbD j = false) ∧
    Here (.elect s4 false) { ply with em := 0 } (fun v => v.p.stack.length ≠ 16 ∧ v.p.em = 0) := by
  and_intros <;> decide

theorem witness_LoopsAndExitsComplete :
    Here (.loop 4 false) { ply with em := 0 } (fun v => v.p.em = 0) ∧
    Here (.loop 4 false) ply (fun v => v.p.em ≠ 0 ∧ v.p.stack.length ≠ 16) ∧
    Here (.endloop 0x7FFFF false) (stk [loopE, ifE] 1) (fun v => v.p.stack = [loopE, ifE] ∧ v.p.floor < v.p.stack.length ∧
      loopE.kind = .loop ∧ (v.p.em ||| loopE.aux) &&& v.p.tlive ≠ 0) ∧
    Here (.endloop 4 false) { stk [{ loopE with aux := 0 }] 0 with em := 0 } (fun v => v.p.stack = [{ loopE with aux := 0 }] ∧
      v.p.floor < v.p.stack.length ∧ (v.p.em ||| 0) &&& v.p.tlive = 0) ∧
    (∀ i ∈ [Instr.brk false, .cont false], Here i (stk [ifE, loopE, ifE] 1) fun v => v.p.stack = [ifE] ++ loopE :: [ifE] ∧
      (∀ e ∈ [ifE], e.kind ≠ .loop) ∧ loopE.kind = .loop ∧ v.p.floor + 1 < v.p.stack.length) ∧
    ∀ i ∈ [Instr.exit false, .yield true], Issues i base ply := by
  and_intros <;> decide

theorem witness_StackErrorsTrap :
    (∀ i ∈ [Instr.ifp 0 4 false, .elect s4 false, .loop 4 false], Here i (stk (List.replicate 16 ifE) 0) fun v =>
      v.p.em ≠ 0 ∧ v.p.stack.length = 16) ∧
    (∀ i ∈ [Instr.elseI 4 false, .endif false, .endloop 4 false], Here i ply fun v => v.p.stack = []) ∧
    (∀ i ∈ [Instr.elseI 4 false, .endif false], Here i (stk [loopE] 0) fun v => v.p.stack = [loopE] ∧ v.p.floor < v.p.stack.length) ∧
    Here (.elseI 4 false) (stk [{ ifE with elsed := true }] 0) (fun v => v.p.floor < v.p.stack.length) ∧
    Here (.endloop 4 false) (stk [ifE] 0) (fun v => v.p.stack = [ifE] ∧ v.p.floor < v.p.stack.length) ∧
    (∀ i ∈ [Instr.brk false, .cont false], Here i (stk [ifE] 0) fun v => v.p.floor = 0 ∧ ∀ e ∈ v.p.stack, e.kind ≠ .loop) ∧
    (∀ i ∈ [Instr.elseI 4 false, .endif false, .endloop 4 false], Here i (stk [loopE] 1) fun v =>
      v.p.stack ≠ [] ∧ v.p.stack.length ≤ v.p.floor) ∧
    ∀ i ∈ [Instr.brk false, .cont false], Here i (stk [ifE, loopE] 1) fun v => v.p.floor ≠ 0 ∧
      ∀ e ∈ v.p.stack.take (v.p.stack.length - v.p.floor), e.kind ≠ .loop := by
  and_intros <;> decide

/-! ## Witnesses: memory -/

/-- s6 the base of page 1, whose translation the core holds; v8 the offsets, all 0. -/
def mem6 : Ply := { ply with s := [(6, 0x1000)], v := [(8, [0, 8, 16, 24, 32, 40, 48, 56])], em := 0x81 }

/-- Five lanes on the pages 1 to 5, all in the core TLB. -/
def spread : Ply := { mem6 with v := [(8, [0, 0x1000, 0x2000, 0x3000, 0x4000, 0, 0, 0])], em := 0x1F }
def spreadAt (p : Ply) : State := { at' p with cores := [(0, { CoreMem.empty with
  tlb := (List.range 5).map fun i => ⟨0, 1 + i, 0, codeBase + 4096 * i, true, true, true, 16384, []⟩ })] }

/-- The instruction reaches the places of `n` lanes, its look-up made or not (R74). -/
abbrev Reached (i : Instr) (n : Nat) (st : State) (p : Ply) (looked r w lands : Bool) (size b o sc : Nat) : Prop := Meets i st p fun v s =>
  addresses i v b o sc ≠ [] ∧ (match planAccess v s (addresses i v b o sc) size r w true with
    | .go l => decide (l.length = n) && (looked == decide (v.stage ≠ 0 ∨ (tlbEntries s v.p (l.map (·.va))).length ≤ 4)) && (!lands || decide (blocksOf l ≤ landingFree s v.p)) &&
        (!w || decide ((l.map fun x => x.loc / 32).eraseDups.length ≤ slotsFree s v.p.core))
    | _ => false) = true

/-- The instruction reaches two lanes' places, on one page. -/
abbrev Goes (i : Instr) : Bool → Bool → Bool → Nat → Nat → Nat → Nat → Prop := Reached i 2 (at' mem6) mem6 true
/-- The instruction reaches five lanes' places, on five pages that are still to be looked up. -/
abbrev Late (i : Instr) : Bool → Bool → Bool → Nat → Nat → Nat → Nat → Prop := Reached i 5 (spreadAt spread) spread false

theorem witness_LoadsComplete : Goes (.ld v4 6 (.v 8) 0 2 false) true false true 4 0 1 0 ∧ Goes (.ld v4 6 (.v 8) 3 3 true) true false true 8 0 1 3 ∧
    Goes (.ldq v4 6 (.v 8) 1 false) true false true 16 0 1 1 ∧ Goes (.ldcv v4 6 (.v 8) 0 0 false) true false true 2 0 1 0 ∧
    Goes (.ldcv v4 6 (.v 8) 0 1 false) true false true 1 0 1 0 ∧ Goes (.ldcv v4 6 (.v 8) 0 2 false) true false true 1 0 1 0 ∧
    Goes (.ldcv v4 6 (.v 8) 0 3 false) true false true 2 0 1 0 ∧
    Meets (.mona s4 6 .zero 0 2 false) (at' mem6) mem6 (fun v s =>
      (match planAccess v s (addresses (.mona s4 6 .zero 0 2 false) v 0 1 0) 4 true false true with
        | .go l => decide (l.length = 1 ∧ blocksOf l ≤ landingFree s v.p)
        | _ => false) && (pendingAt s (.ply v.key) v.p.core 0x1000 4).isEmpty) ∧
    Late (.ld v4 6 (.v 8) 0 2 false) true false true 4 0 1 0 ∧ Late (.ldq v4 6 (.v 8) 0 false) true false true 16 0 1 0 ∧
    Late (.ldcv v4 6 (.v 8) 0 1 false) true false true 1 0 1 0 := by
  and_intros <;> decide

theorem witness_StoresComplete : (at' mem6).mem.wf = true ∧ Goes (.st v4 6 (.v 8) 0 3 false) false true false 8 1 2 0 ∧
    Goes (.st v4 6 (.v 8) 0 0 false) false true false 1 1 2 0 ∧ Goes (.stq v4 6 (.v 8) 1 false) false true false 16 1 2 1 ∧
    Goes (.stcv v4 6 (.v 8) 0 0 false) false true false 2 1 2 0 ∧ Goes (.stcv v4 6 (.v 8) 0 1 false) false true false 1 1 2 0 ∧
    Goes (.stcv v4 6 (.v 8) 0 2 false) false true false 1 1 2 0 ∧ Goes (.stcv v4 6 (.v 8) 0 3 true) false true false 2 1 2 0 ∧
    frmEnables mem6.frm = 0 ∧ Late (.st v4 6 (.v 8) 0 2 false) false true false 4 1 2 0 ∧
    Late (.stq v4 6 (.v 8) 0 false) false true false 16 1 2 0 ∧ Late (.stcv v4 6 (.v 8) 0 3 false) false true false 2 1 2 0 := by
  and_intros <;> decide

theorem witness_AtomicsComplete : Goes (.atom v4 6 (.v 8) 0 false) true true true 4 1 2 0 ∧ Goes (.atom v4 6 (.v 8) 1 false) true true true 8 1 2 0 ∧
    Goes (.atom v4 6 (.v 8) 14 false) true true true 8 1 2 0 ∧ Goes (.red v4 6 (.v 8) 1 false) false true false 8 1 2 0 ∧
    Goes (.red v4 6 (.v 8) 10 false) false true false 4 1 2 0 ∧ Late (.atom v4 6 (.v 8) 0 false) true true true 4 1 2 0 ∧
    Late (.red v4 6 (.v 8) 0 false) false true false 4 1 2 0 := by
  and_intros <;> decide
/-- The same states with another skein and another core. -/
def world (p : Ply) (k : Skein) (h : CoreHw) : State := { at' p with skeins := [(0, k)], hw := [(0, h)] }
def det : Skein := { sk with lrec := sk.lrec.set 2 (sk.lrec.getD 2 0 ||| 0x100) }

theorem witness_PrefetchesAndMonitorsComplete :
    let w := Instr.waitm sa false
    let poll := Instr.poll s4 6 .zero 0 2 false
    let mon (st : MonState) (stage : Nat) (x : DWord) : Ply := { withS x with mon := ⟨st, 0x1000⟩, stage := stage }
    let wk : Work := ⟨[], [(0, 0x100000007)], .keep, .zero, 0, false, 1, 0⟩
    Meets (.pref 6 (.v 8) 0 0 false) (at' mem6) mem6 (fun v s =>
      (tlbEntries s v.p ((addresses (.pref 6 (.v 8) 0 0 false) v 0 1 0).map (·.2))).length ≤ 4) ∧
    Meets (.pref 6 (.v 8) 0 0 false) (at' spread) spread (fun v s =>
      none ∈ tlbEntries s v.p ((addresses (.pref 6 (.v 8) 0 0 false) v 0 1 0).map (·.2))) ∧ Here w (mon .none 0 0) (fun v => v.p.mon.st = .none) ∧
    Here w (mon .woken 1 9) (fun v => v.p.mon.st = .woken) ∧ Here w (mon .armed 2 9) (fun v => v.p.mon.st = .armed ∧ v.stage = 2) ∧
    Meets w (at' (mon .armed 1 0)) (mon .armed 1 0) (fun v s => v.p.mon.st = .armed ∧ v.stage ≠ 2 ∧
      (recDet (s.launchRec v.p) = true ∨ v.w 0 0 = 0)) ∧
    Meets w (world (mon .armed 0 9) det CoreHw.zero) (mon .armed 0 9) (fun v s => v.stage ≠ 2 ∧ recDet (s.launchRec v.p) = true) ∧
    Meets w (at' (mon .armed 0 9)) (mon .armed 0 9) (fun v s => v.p.mon.st = .armed ∧ v.stage ≠ 2 ∧
      recDet (s.launchRec v.p) = false ∧ v.w 0 0 ≠ 0) ∧
    Here poll { mem6 with work := some wk, stage := 1, s := [(6, 0x1000), (4, 7)] } (fun v => v.stage % 2 = 1 ∧ v.p.work = some wk ∧
      (0x100000007 : QWord).toNat % 2 ^ 64 ≠ ((v.op 0).at64 0).toNat % 2 ^ 32) ∧
    Here poll { mem6 with work := some { wk with got := [(0, 7)] }, stage := 0x1FFFF, s := [(6, 0x1000), (4, 0x100000007)] } (fun v =>
      v.stage = 0x1FFFF ∧ v.stage % 2 = 1 ∧ (7 : QWord).toNat % 2 ^ 64 = ((v.op 0).at64 0).toNat % 2 ^ 32) := by
  and_intros <;> decide

/-- The first address of the lanes that a test accepts. -/
abbrev firstAt (i : Instr) (v : Env) (b o sc : Nat) (f : DWord → Bool) : Option DWord := ((addresses i v b o sc).find? fun a => f a.2).map (·.2)

theorem witness_AddressTraps :
    let is : List (Instr × Nat × Nat) := [(.ld v4 6 (.v 8) 0 1 false, 2, 0), (.st v4 6 (.v 8) 0 3 false, 8, 1), (.ldq v4 6 (.v 8) 0 false, 16, 0),
      (.stq v4 6 (.v 8) 0 false, 16, 1), (.ldcv v4 6 (.v 8) 0 0 false, 2, 0), (.stcv v4 6 (.v 8) 0 3 false, 2, 1),
      (.atom v4 6 (.v 8) 0 false, 4, 1), (.red v4 6 (.v 8) 1 false, 8, 1)]
    let p (x : DWord) : Ply := { mem6 with s := [(6, x)], v := [(8, [0, 1])], em := 3 }
    (∀ x ∈ is, Here x.1 (p 0x1000) fun v => v.p.verdict = .retry ∧
      firstAt x.1 v x.2.2 (x.2.2 + 1) 0 (fun a => decide (a.toNat % x.2.1 ≠ 0)) = some 0x1001) ∧
    (∀ x ∈ is, Here x.1 { p 0xFF00000000000000 with em := 1 } fun v =>
      firstAt x.1 v x.2.2 (x.2.2 + 1) 0 (fun a => decide (a.toNat % x.2.1 ≠ 0)) = none) ∧
    (∀ x ∈ is, Here x.1 { p 0xFEFFFFFFFFFFFFF0 with em := 1 } fun v =>
      firstAt x.1 v x.2.2 (x.2.2 + 1) 0 (fun a => decide (a.toNat % x.2.1 ≠ 0)) = none ∧
      firstAt x.1 v x.2.2 (x.2.2 + 1) 0 (fun a => decide (2 ^ 56 ≤ a.toNat ∧ a.toNat < 2 ^ 64 - 2 ^ 56)) = some 0xFEFFFFFFFFFFFFF0) ∧
    Here (.mona s4 6 .zero 0 2 false) { mem6 with s := [(6, 0x1002)] } (fun v =>
      firstAt (.mona s4 6 .zero 0 2 false) v 0 1 0 (fun a => decide (a.toNat % 4 ≠ 0)) = some 0x1002) := by
  and_intros <;> decide

/-! ## Witnesses: strings, tiles, copies -/

/-- v8 and v9 describe in thread 0 a string of `n` bytes at the offset 5. -/
def strAt (n : Nat) : Ply := { ply with v := [(8, [5]), (9, [BitVec.ofNat 32 (n * 256)]), (12, [5]), (13, [BitVec.ofNat 32 (n * 256)])], em := 1 }
def reads (p : Ply) (n : Nat) : Ply := { p with stage := 1, work := some ⟨[], (List.range n).map (fun k => (k, 0)), .keep, .zero, 0, false, 0, 0⟩ }

/-- The units of the strings of lane 0 have been read, from a text of zeros. -/
abbrev HasUnits (i : Instr) (p : Ply) (strs : Env → List (DWord × Nat)) : Prop := Meets i (at' p) p fun v s =>
  v.stage = 1 ∧ lanesOf i v ≠ [] ∧ landingFree s v.p ≠ 0 ∧ s.plies.get? v.key = some p ∧
    (p.work.map fun w => w.got.map (·.2)) = some (((strs v).flatMap fun x => unitsOf x.1 x.2).map (unitOf fun _ => 0))

theorem witness_StringsComplete :
    let addr (h : Nat) (v : Env) (n : Nat) : DWord := v.dw h 0 + BitVec.ofNat 64 ((v.dw n 0).toNat % 2 ^ 40)
    let len (v : Env) (n : Nat) : Nat := (v.dw n 0).toNat / 2 ^ 40
    HasUnits (.scmp v4 a8 b12 false) (reads (strAt 12) 4) (fun v => [(addr 2 v 0, len v 0), (addr 2 v 1, len v 1)]) ∧
    HasUnits (.sfind v4 a8 b12 false) (reads (strAt 11) 1) (fun v => [(addr 2 v 0, len v 0)]) ∧
    HasUnits (.shash v4 a8 false) (reads (strAt 0) 0) (fun v => [(addr 1 v 0, len v 0)]) ∧
    HasUnits (.spfx v4 a8 true) (reads (strAt 4096) 257) (fun v => [(addr 1 v 0, len v 0)]) ∧
    HasUnits (.slen v4 a8 false) (reads (strAt 4097) 1) (fun v => [(addr 1 v 0, 1)]) ∧
    (∀ x ∈ [(Instr.scmp v4 a8 b12 false, 2), (.sfind v4 a8 b12 false, 1), (.shash v4 a8 false, 1), (.spfx v4 a8 false, 1)],
      Here x.1 (strAt 4097) fun v => v.stage ≠ 1 ∧
        (((lanesOf x.1 v).flatMap fun k => (List.range x.2).map fun n => v.dw n k).find? fun y => decide (2 ^ 40 * 4097 ≤ y.toNat)) =
          some 0x10010000000005) := by
  and_intros <;> decide

/-- A tile of 512 bytes at the start of the window, handle 2, generation 1. -/
def tileE (st : TileSt) : TileEnt := ⟨0, 2, 1, st, false, false, 0, 0, 1⟩
def hwWith (l : List TileEnt) : CoreHw := { CoreHw.zero with tiles := l }
def tref : DWord := 0x010200000000
def tply : Ply := { ply with s := [(6, tref)], v := [(8, [0, 16, 32, 48, 64, 80, 96, 112]), (12, [])] }

abbrev TileOk (i : Instr) (b size mask : Nat) (off : Env → Nat → DWord) (p : Ply) (e : TileEnt) : Prop :=
  Meets i (world p sk (hwWith [e])) p fun v s => s.skein? v.p = some sk ∧ lanesOf i v ≠ [] ∧
    resolveRef (s.hwOf v.p.core) v.p.slot (v.dw b 0) = .inl e ∧ (∀ j ∈ lanesOf i v, (off v j).toNat % size = 0) ∧
    (∀ j ∈ lanesOf i v, 0 ≤ (off v j).toInt ∧ (off v j).toNat + size ≤ 512 * e.size) ∧ e.inStates mask = true ∧ partTileAt s v.p ≤ v.t

abbrev tOff (b sc : Nat) (v : Env) (j : Nat) : DWord := BitVec.ofNat 64 ((v.dw b 0).toNat % 2 ^ 32) + ((v.w (b + 1) j).signExtend 64 <<< sc)

theorem witness_TileLoadsComplete : TileOk (.tld v4 6 (.v 8) 0 3 false) 0 16 0b1110 (tOff 0 0) tply (tileE .ready) ∧
    TileOk (.tld v4 6 (.v 8) 2 1 false) 0 4 0b1110 (tOff 0 2) tply (tileE .draining) ∧
    TileOk (.tldt v4 6 (.v 8) 0 true false) 0 16 0b1110 (tOff 0 0) tply (tileE .filling) ∧
    TileOk (.tldt v4 6 (.v 8) 0 false false) 0 8 0b1110 (tOff 0 0) tply (tileE .ready) ∧
    v4.isS = false ∧ s4.isS = true := by
  and_intros <;> decide

/-- A job whose slots, of cycles 3 and 7, have passed. -/
def jobOf (act : TileAct) : TileJob := ⟨act, 4, .own v4, 3, [(3, [⟨0, 16, 5, 0⟩]), (7, [⟨1, 2064, 6, 0⟩])], [], 15⟩
def slotted (act : TileAct) : Ply := { ply with tiles := [jobOf act] }
theorem witness_SlotsPass : ∀ act ∈ [TileAct.read, .write, .atom 5], SlotsPassed { at' (slotted act) with cycle := 7 } 0 (slotted act) (jobOf act) :=
  fun act h => ⟨rfl, rfl, by
    show ∀ x ∈ (jobOf .read).slots, x.1 ≤ 7
    decide, rfl⟩

theorem witness_TileStoresComplete : TileOk (.tst v4 6 (.v 8) 0 3 false) 1 16 0b0110 (tOff 1 0) tply (tileE .filling) ∧
    TileOk (.tatom v4 6 (.v 8) 1 false) 1 8 0b0110 (tOff 1 0) tply (tileE .ready) ∧
    TileOk (.tatom v4 6 (.v 8) 0 false) 1 4 0b0110 (tOff 1 0) tply (tileE .ready) ∧
    TileOk (.hist v4 a8 sa false) 1 4 0b0110 (fun v j => BitVec.ofNat 64 ((v.dw 1 0).toNat % 2 ^ 32 + 4 * (v.w 0 j).toNat)) tply
      (tileE .ready) ∧ ((world tply sk (hwWith [])).hwOf 0).tile.wf = true ∧ 2 ^ 21 - 1 < 2 ^ 21 ∧ (bytesOf 8 5).length ≤ 2 ^ 21 := by
  and_intros <;> decide

theorem witness_TileReferencesResolve :
    let h := hwWith [tileE .ready]
    let f (r : DWord) (a n : Nat) : Nat := r.toNat / 2 ^ a % 2 ^ n
    (f 0x10000000000000 52 12 ≠ 0 ∧ f 0x2000000000 37 3 ≠ 0 ∧ f 0x1000000000000 48 4 ≠ 0 ∧ (∀ e ∈ h.tiles, ¬ (e.slot = 0 ∧ e.handle = f 0 32 5)) ∧
      h.tiles = [] ++ tileE .ready :: [] ∧ (tileE .ready).handle = f tref 32 5) ∧
    (∀ i ∈ [Instr.tsetEmpty sa false, .tsetFilling sa false, .tsetReady sa false, .tsetDraining sa false, .twait sa 4 false, .tfree sa false],
      Meets i (world (withS 0) sk h) (withS 0) fun v s => resolveRef (s.hwOf v.p.core) v.p.slot (v.dw 0 0) = .inr 3) ∧
    Meets (.tld v4 6 (.v 8) 0 1 false) (world { tply with s := [(6, 0x020200000000)] } sk h) { tply with s := [(6, 0x020200000000)] }
      (fun v s => s.skein? v.p = some sk ∧ lanesOf (.tld v4 6 (.v 8) 0 1 false) v = 0 :: [1, 2, 3, 4, 5, 6, 7] ∧
        resolveRef (s.hwOf v.p.core) v.p.slot (v.dw 0 0) = .inr 4) ∧
    Meets (.tld v4 6 (.v 8) 2 1 false) (world { tply with v := [(8, [0, 127, 128])] } sk h) { tply with v := [(8, [0, 127, 128])] }
      (fun v s => s.skein? v.p = some sk ∧ resolveRef (s.hwOf v.p.core) v.p.slot (v.dw 0 0) = .inl (tileE .ready) ∧
        (∀ j ∈ lanesOf (.tld v4 6 (.v 8) 2 1 false) v, (tOff 0 2 v j).toNat % 4 = 0) ∧
        ((lanesOf (.tld v4 6 (.v 8) 2 1 false) v).map (tOff 0 2 v)).find? (fun y => decide (y.toInt < 0 ∨ 512 * 1 < y.toNat + 4)) = some 512) := by
  and_intros <;> decide
theorem witness_TileTableComplete :
    let p (x : DWord) : Ply := { ply with s := [(6, x)] }
    let named (i : Instr) (e : TileEnt) (c : Env → TileEnt → Bool) : Prop := Meets i (world (p tref) sk (hwWith [e])) (p tref) fun v s =>
      resolveRef (s.hwOf v.p.core) v.p.slot (v.dw 0 0) = .inl e ∧ c v e = true
    let calm (e : TileEnt) : Bool := e.ncpy = 0 ∧ e.spn = false
    let set (i : Instr) (st wrong : TileSt) : Prop := named i (tileE st) (fun v e => calm e && decide (e.st = st ∧ (v.p.tileAt < v.t ∨ v.p.tileAt = 0))) ∧
      named i { tileE st with ncpy := 1 } (fun _ e => !calm e) ∧ named i (tileE wrong) (fun _ e => decide (e.st ≠ st)) ∧
      Meets i (world { p tref with tileAt := 5 } sk (hwWith [tileE st])) { p tref with tileAt := 5 } fun v s =>
        resolveRef (s.hwOf v.p.core) v.p.slot (v.dw 0 0) = .inl (tileE st) ∧ v.t ≤ v.p.tileAt ∧ v.p.tileAt ≠ 0
    let bind (n : BitVec 5) (x : DWord) (h : CoreHw) (c : Env → State → Bool) : Prop :=
      Meets (.tbind s4 sa n false) (world (p x) sk h) (p x) fun v s => s.skein? v.p = some sk ∧ c v s
    Meets (.tbind s4 sa 31 false) (world (p 0x20000000800) sk (hwWith [tileE .ready])) (p 0x20000000800) (fun v s => s.skein? v.p = some sk ∧
      (s.hwOf v.p.core).tiles.length < 64 ∧ (∀ x ∈ (s.hwOf v.p.core).tiles, x.slot = v.p.slot → x.handle ≠ 31 ∧
        (512 * x.base + 512 * x.size ≤ (v.dw 0 0).toNat % 2 ^ 21)) ∧ (v.dw 0 0).toNat / 2 ^ 53 = 0 ∧
      (v.dw 0 0).toNat / 2 ^ 21 % 2 ^ 11 = 0 ∧ (v.dw 0 0).toNat / 2 ^ 32 % 2 ^ 21 = 512 ∧ (v.dw 0 0).toNat % 2 ^ 21 % 512 = 0 ∧
      (v.dw 0 0).toNat % 2 ^ 21 + 512 ≤ sk.wsize) ∧
    bind 2 0x20000000800 (hwWith [tileE .ready]) (fun v s => (s.hwOf v.p.core).tiles.any fun x => decide (x.slot = v.p.slot ∧ x.handle = 2)) ∧
    bind 3 0x20000000001 (hwWith [tileE .ready]) (fun v _ => (v.dw 0 0).toNat % 2 ^ 21 % 512 ≠ 0) ∧
    bind 3 0x20000000000 (hwWith [tileE .ready]) (fun v s => (v.dw 0 0).toNat % 2 ^ 21 + 512 ≤ sk.wsize ∧
      ∃ x ∈ (s.hwOf v.p.core).tiles, x.slot = v.p.slot ∧ (v.dw 0 0).toNat % 2 ^ 21 < 512 * x.base + 512 * x.size) ∧
    bind 3 0x20000000800 (hwWith (List.replicate 64 { tileE .ready with slot := 1 })) (fun v s => 64 ≤ (s.hwOf v.p.core).tiles.length ∧
      ∀ x ∈ (s.hwOf v.p.core).tiles, x.slot ≠ v.p.slot) ∧
    set (.tsetEmpty sa false) .draining .filling ∧ named (.tsetEmpty sa false) (tileE .ready) (fun _ e => decide (e.st = .ready)) ∧
    set (.tsetFilling sa false) .empty .ready ∧ set (.tsetReady sa false) .filling .empty ∧ set (.tsetDraining sa true) .ready .draining ∧
    (∀ x ∈ [(TileSt.empty, 0), (.filling, 1), (.ready, 2), (.draining, 3)],
      named (.twait sa (BitVec.ofNat 5 (2 ^ x.2)) false) (tileE x.1) (fun _ e => decide (e.st = x.1))) ∧
    (∀ x ∈ [(TileSt.empty, 14), (.filling, 13), (.ready, 11), (.draining, 7)],
      named (.twait sa (BitVec.ofNat 5 x.2) false) (tileE x.1) (fun _ e => decide (e.st = x.1))) ∧
    named (.tfree sa false) (tileE .filling) (fun _ e => calm e) ∧
    named (.tfree sa false) { tileE .ready with spn := true } (fun _ e => !calm e) := by
  and_intros <;> decide

/-- A layout of one FP32 element of a kind, its four units as read, and a ply that has read them. -/
def lay (kind : Nat) : List DWord :=
  [BitVec.ofNat 64 (2 + 16 * kind), 0x1000, 16, 0, if kind = 0 then 0 else 0x100, if kind = 3 then 1 else 0, 0, 0]
def layRead (l : List DWord) : Work :=
  ⟨[], (List.range 4).map fun j => (j, r64 (l.getD (2 * j) 0) ||| (r64 (l.getD (2 * j + 1) 0) <<< 64)), .keep, .zero, 0, false, 0, 0⟩
def cply (l : List DWord) : Ply := { ply with s := [(6, tref), (20, 0x2000)], stage := 1, work := some (layRead l) }

abbrev HasLayout (i : Instr) (l : List DWord) (e : TileEnt) (c : State → Bool) : Prop :=
  Meets i (world (cply l) sk (hwWith [e])) (cply l) fun v s => s.skein? v.p = some sk ∧ v.stage = 1 ∧ v.p.work = some (layRead l) ∧
    (layRead l).use ≠ .lost ∧ l.length = 8 ∧ (v.dw 5 0).toNat % 64 = 0 ∧ (v.dw 3 0).toNat % 8 = 0 ∧
    resolveRef (s.hwOf v.p.core) v.p.slot (v.dw 0 0) = .inl e ∧ sk.eng.copies.length < 32 ∧ c s = true ∧ v.dw 4 0 = 0

/-- What has been read is the layout's four units. -/
theorem witness_LayoutRead : ∀ k < 4, ∀ j < 4, ∃ x, (layRead (lay k)).got.find? (fun y => decide (y.1 = j)) = some x ∧
    x.2 = r64 ((lay k).getD (2 * j) 0) ||| (r64 ((lay k).getD (2 * j + 1) 0) <<< 64) := by
  intro k hk j hj
  exact ⟨(j, r64 ((lay k).getD (2 * j) 0) ||| (r64 ((lay k).getD (2 * j + 1) 0) <<< 64)), by
    rcases j with _ | _ | _ | _ | j <;> first | rfl | omega, rfl⟩

/-- A skein whose engine has opened 70 copies: 5 and 69 are open, 70 and 8 have a status, and all up to 4 are complete. -/
def aCopy (n : Nat) : Copy :=
  { n := n, instr := .cpyin .zero 6 8 20 false false, issuer := 0, tl := 0, layout := lay 0, coord := [0, 0, 0, 0],
    tref := tref, okRead := 0, okWrite := 0, cls := 0, slack := 0, since := 0, st := .queued, row := 0, col := 0, phase := .read, idx := 0, slot := 0,
    val := 0, waiting := false, left := 0, dropped := 3, stop := none, miss := none, verdict := .retry }
def busy (marks : List CopyMark) : Skein :=
  { sk with eng :=
    { sk.eng with issued := 70, timeline := 4, copies := [aCopy 5, aCopy 69], stats := [⟨70, true, 3, 16, 1⟩, ⟨8, false, 0, 4, 0⟩],
                  marks := marks } }

def arrivedAt15 : Skein := { busy [] with bars := sk.bars.set 15 ⟨1, 0, 0, 1, 1, 0⟩ }
def crowded : Skein := { sk with eng := { sk.eng with issued := 32, copies := (List.range 32).map fun n => aCopy (n + 1) } }
/-- A copy of this ply has failed. -/
def marked : Skein := busy [⟨0, 5, 0x5000, 4⟩, ⟨1, 3, 0x6000, 4⟩]

theorem witness_CopiesComplete :
    let fill : List (Instr × Nat) := [(.cpyin s4 6 8 20 false false, 0), (.gather .zero 6 8 20 true false, 1)]
    let empties : List (Instr × Nat) := [(.cpyout s4 6 28 20 false false, 0), (.scatter s4 6 8 20 false true, 2), (.pscat s4 6 8 20 false false, 3)]
    let gg := Instr.cpygg s4 6 8 20 false false
    let ask (i : Instr) (n : DWord) (c : Env → Bool) : Prop := Meets i (world (withS n) (busy []) CoreHw.zero) (withS n) fun v s =>
      s.skein? v.p = some (busy []) ∧ c v = true
    let arr (n : DWord) (p : Ply) (c : Env → Bool) : Prop := Meets (.defarr sa 15 false) (world { p with s := [(6, n)] } (busy []) CoreHw.zero)
      { p with s := [(6, n)] } fun v s => s.skein? v.p = some (busy []) ∧ recBar (busy []).lrec 15 ≠ 0 ∧ c v = true
    (∀ x ∈ fill, HasLayout x.1 (lay x.2) (tileE .empty) (fun _ => layoutFault x.1 (lay x.2) 0 512 = none ∧ (tileE .empty).inStates 3)) ∧
    (∀ x ∈ empties, HasLayout x.1 (lay x.2) (tileE .ready) (fun _ => layoutFault x.1 (lay x.2) 0 512 = none ∧ (tileE .ready).inStates 12)) ∧
    (∀ x ∈ fill, HasLayout x.1 (lay x.2) (tileE .ready) (fun _ => layoutFault x.1 (lay x.2) 0 512 = none ∧ !(tileE .ready).inStates 3)) ∧
    (∀ x ∈ empties, HasLayout x.1 (lay x.2) (tileE .empty) (fun _ => layoutFault x.1 (lay x.2) 0 512 = none ∧ !(tileE .empty).inStates 12)) ∧
    (∀ x ∈ (gg, 0) :: fill, Meets x.1 (world (cply (lay x.2)) crowded (hwWith [tileE .empty])) (cply (lay x.2)) fun v s =>
      s.skein? v.p = some crowded ∧ v.stage = 1 ∧ 32 ≤ crowded.eng.copies.length) ∧
    (∀ x ∈ fill ++ empties, HasLayout x.1 ((lay x.2).set 1 0x1001) (tileE .ready) fun _ =>
      layoutFault x.1 ((lay x.2).set 1 0x1001) 0 512 = some 3) ∧
    HasLayout gg (lay 0) (tileE .ready) (fun _ => layoutFault gg (lay 0) 0 0 = none) ∧
    HasLayout gg (lay 1) (tileE .ready) (fun _ => layoutFault gg (lay 1) 0 0 = some 1) ∧
    ask (.cpyqStatus s4 sa false) 0 (fun v => (v.dw 0 0).toNat = 0) ∧ ask (.cpyqStatus s4 sa false) 71 (fun v => 70 < (v.dw 0 0).toNat) ∧
    ask (.cpyqStatus s4 sa false) 5 (fun v => (v.dw 0 0).toNat = 5 ∧ ∀ m ∈ (busy []).eng.marks, m.issuer = v.p.plyid → 5 < m.n) ∧
    ((busy []).eng.copies = [] ++ aCopy 5 :: [aCopy 69] ∧ (busy []).eng.copies = [aCopy 5] ++ aCopy 69 :: [] ∧ 5 + 64 ≤ (busy []).eng.issued ∧
      69 ≤ (busy []).eng.issued ∧ (busy []).eng.issued < 69 + 64 ∧ (busy []).eng.stats = [] ++ ⟨70, true, 3, 16, 1⟩ :: [⟨8, false, 0, 4, 0⟩]) ∧
    Meets (.cpyqStatus s4 sa false) (world (withS 9) marked CoreHw.zero) (withS 9) (fun v s => s.skein? v.p = some marked ∧
      ∃ m ∈ marked.eng.marks, m.issuer = v.p.plyid ∧ m.n ≤ (v.dw 0 0).toNat ∧ ∀ y ∈ marked.eng.marks, y.issuer = v.p.plyid → y = m) ∧
    ask (.cpyqStatus s4 sa false) 70 (fun v => (v.dw 0 0).toNat = 70 ∧ ∀ x ∈ (busy []).eng.copies, x.n ≠ 70) ∧
    ask (.cpyqStatus s4 sa false) 6 (fun v => (v.dw 0 0).toNat ≠ 0 ∧ (v.dw 0 0).toNat + 64 ≤ 70 ∧ ∀ x ∈ (busy []).eng.copies, x.n ≠ (v.dw 0 0).toNat) ∧
    ask (.cpyqDrop s4 sa false) 69 (fun v => (v.dw 0 0).toNat = 69) ∧ ask (.cpyqTl s4 false) 0 (fun _ => true) ∧
    ask (.cpyqDrop s4 sa false) 8 (fun v => (v.dw 0 0).toNat = 8 ∧ ∀ x ∈ (busy []).eng.copies, x.n ≠ 8) ∧
    ask (.cpyqDrop s4 sa false) 9 (fun v => ∀ x ∈ (busy []).eng.stats, x.n ≠ (v.dw 0 0).toNat) ∧
    arr 4 ply (fun v => (v.dw 0 0).toNat ≤ 4 ∧ ((busy []).bar 15).arrm.getLsbD v.p.plyid = false) ∧
    arr 70 ply (fun v => 4 < (v.dw 0 0).toNat ∧ (v.dw 0 0).toNat ≤ 70 ∧ v.p.defer.length < 4) ∧
    arr 5 { ply with defer := List.replicate 4 (5, 1, 0) } (fun v => 4 < (v.dw 0 0).toNat ∧ 4 ≤ v.p.defer.length) ∧
    Meets (.defarr sa 15 false) (world (withS 4) (arrivedAt15) CoreHw.zero) (withS 4) (fun v s => s.skein? v.p = some arrivedAt15 ∧
      33 ≤ recBar arrivedAt15.lrec 15 ∧ (arrivedAt15.bar 15).arrm.getLsbD v.p.plyid) ∧
    arr 71 ply (fun v => 70 < (v.dw 0 0).toNat) := by
  and_intros <;> decide

/-! ## Witnesses: spindles -/

/-- D on handle 2, A and B on handles 0 and 1; the block of formats in s0 to s3, A in s12, B in s13, D in s14. -/
def dTile (st : TileSt) : TileEnt := ⟨0, 2, 1, st, false, false, 0, 0, 96⟩
def abTile (n : Nat) : TileEnt := ⟨0, n, 0, .ready, false, false, 0, 96 + 16 * n, 16⟩
def mply (dsc : DWord) : Ply := { ply with s := [(0, dsc), (1, dsc), (12, 0), (13, 0x100000000), (14, tref)] }
def mhw (l : List TileEnt) (b : Option Batch) : CoreHw := { CoreHw.zero with
  tiles := l, energy := [(0, 4, 1350, 4)], spindles := (List.replicate 4 Spindle.zero).set 0 { Spindle.zero with opened := b } }
def batch : Batch := ⟨0, 1, tref, 0, [], 1, false⟩

abbrev MmaGoes (dsc : DWord) (h : CoreHw) (c : MmaPlan → Bool) : Prop :=
  Meets (.mma (.s 14) 12 13 0 3 false) (world (mply dsc) sk h) (mply dsc) fun v s => (s.hwOf 0).spindles.length = 4 ∧
    energyOf s 0 0 = (4, 1350, 4) ∧ (s.spindle 0 0).window ≤ v.t ∧ (match mmaChecks (s.hwOf 0) 0 sk v.t ⟨0, v.dw 0 0, v.dw 4 0, 96⟩
      ⟨1, v.dw 1 0, v.dw 5 0, 128⟩ (v.dw 2 0) (v.dw 6 0) with
        | .inr x => x.tiles.all (fun y => decide (y.2.st = .ready)) && x.tabs.all (fun y => decide (y.2.st = .ready)) && c x
        | .inl _ => false) = true

theorem witness_MmaCompletes : MmaGoes 0x40 (mhw [dTile .empty] none) (fun x => x.dent.st = .empty ∧ x.k = 32) ∧
    MmaGoes 0 (mhw [dTile .filling, abTile 0, abTile 1] (some batch)) (fun x => x.dref = batch.dref ∧ x.tiles.length = 2) := by
  and_intros <;> decide

/-- Partition 0 of core 0 reads two last units of a window, in different banks, for a work. -/
def lastSlot' (o : Option Batch) (w : SpinWork) : State := { base with hw := [(0, { CoreHw.zero with
  spindles := (List.replicate 4 Spindle.zero).set 0 { Spindle.zero with opened := o, reads := [5, 134], work := some w } })] }
def spinOp0 : SpinOp := ⟨⟨0, 0x40, 0, 96⟩, 0, 0, none, 0, 0⟩
theorem witness_WindowsEnd : ∀ w ∈ [SpinWork.mma 32 spinOp0 spinOp0, .resume 512, .mepi 0x3F800000 0 false 0 0 0x10000],
    ReadsLast (lastSlot' (some batch) w) 0 0 ∧ ((lastSlot' (some batch) w).spindle 0 0).opened = some batch ∧
      ((lastSlot' (some batch) w).spindle 0 0).work = some w ∧ ((lastSlot' (some batch) w).spindle 0 0).writes = [] :=
  fun w _ => ⟨⟨rfl, by decide, by show [5, 134] ≠ []; decide, by show [5, 134].Pairwise fun u w => u % 128 ≠ w % 128; decide, rfl, rfl⟩, rfl, rfl, rfl⟩

/-- A free slot of it writes two units. -/
def writing : State := { base with hw := [(0, { CoreHw.zero with
  spindles := (List.replicate 4 Spindle.zero).set 0 { Spindle.zero with writes := [(5, List.replicate 16 1), (6, List.replicate 16 2)] } })] }
theorem witness_UnitsWritten : (writing.hwOf 0).spindles.length = 4 ∧ (writing.hwOf 0).tile.wf = true ∧ (writing.spindle 0 0).reads = [] ∧
    (writing.spindle 0 0).writes.Pairwise (fun x y => x.1 % 128 ≠ y.1 % 128) ∧ ∀ x ∈ (writing.spindle 0 0).writes, x.2.length = 16 := by decide

theorem witness_BatchesOfFullSize : ({ batch with acc := List.replicate 12288 5 } : Batch).acc.length = 12288 := List.length_replicate

/-- Operands of the sizes R320 takes, with one group of products. -/
theorem witness_MmaGroups : ∃ (k : Nat) (a b : List (List FVal)) (acc : List Word), a.length = 96 ∧ b.length = 128 ∧ acc.length = 12288 ∧
    k % 8 = 0 ∧ (∀ r ∈ a, r.length = k) ∧ ∀ r ∈ b, r.length = k :=
  ⟨8, List.replicate 96 (List.replicate 8 (Fmt.f32.unpack 0)), List.replicate 128 (List.replicate 8 (Fmt.f32.unpack 0)),
    List.replicate 12288 0, List.length_replicate, List.length_replicate, List.length_replicate, rfl,
    fun _ h => List.eq_of_mem_replicate h ▸ List.length_replicate, fun _ h => List.eq_of_mem_replicate h ▸ List.length_replicate⟩

/-- A ply at a spindle of its core with an open and a draining batch. -/
def spinHw (l : List TileEnt) (o dr : Option Batch) : CoreHw := { CoreHw.zero with
  tiles := l, energy := [(0, 4, 1350, 4)], spindles := (List.replicate 4 Spindle.zero).set 0 { Spindle.zero with opened := o, drain := dr } }

abbrev Spins (i : Instr) (o dr : Option Batch) (c : Env → Spindle → Bool) : Prop :=
  Meets i (world ply sk (spinHw [] o dr)) ply fun v s => (s.hwOf v.p.core).spindles.length = 4 ∧ v.key = 0 ∧
    c v (s.spindle v.p.core (v.p.plyid % 4)) = true

theorem witness_BatchClosesComplete :
    let none (v : Env) (sp : Spindle) : Prop := ∀ x ∈ sp.opened, x.owner ≠ v.key
    let mine (v : Env) (sp : Spindle) : Prop := sp.opened = some batch ∧ batch.owner = v.key
    let other : Batch := { batch with owner := 5 }
    let r : Ply := { ply with s := [(6, tref)] }
    (∀ i ∈ [Instr.mclose s4 false, .mabort s4 false], Spins i (some other) (some batch) fun v sp => none v sp) ∧
    (∀ i ∈ [Instr.mclose s4 false, .mabort s4 false, .mwait s4 false], Spins i (some batch) .none fun v sp => mine v sp ∧ sp.drain = .none) ∧
    (∀ i ∈ [Instr.mclose s4 false, .mabort s4 false, .mwait s4 false], Spins i (some batch) (some other) fun v sp =>
      mine v sp ∧ sp.drain ≠ .none) ∧
    Spins (.mwait s4 false) (some other) (some other) (fun v sp => none v sp ∧ ∀ x ∈ sp.drain, x.owner ≠ v.key) ∧
    Spins (.mwait s4 false) .none (some batch) (fun v sp => none v sp ∧ sp.drain = some batch ∧ batch.owner = v.key) ∧
    Meets (.mcloseResume s4 sa false) (world r sk (spinHw [dTile .empty] .none (some other))) r (fun v s =>
      (s.hwOf v.p.core).spindles.length = 4 ∧ s.skeins.get? v.p.skeinKey = some sk ∧
      resolveRef (s.hwOf v.p.core) v.p.slot (v.dw 0 0) = .inl (dTile .empty) ∧ (v.dw 0 0).toNat % 2 ^ 32 % 512 = 0 ∧
      (v.dw 0 0).toNat % 2 ^ 32 + 49152 ≤ 512 * (dTile .empty).size ∧ (dTile .empty).st = .empty ∧
      (s.spindle v.p.core v.p.part).opened = .none ∧ (s.spindle v.p.core v.p.part).window ≤ v.t) := by
  and_intros <;> decide

theorem witness_EpilogueCompletes :
    let p (o m : Nat) : Ply := { ply with s := [(3, BitVec.ofNat 64 (0x3F800000 + o * 2 ^ 32 + 2 ^ 36 + m * 2 ^ 39)), (12, tref), (14, 0x100000000)] }
    let oe (st : TileSt) : TileEnt := ⟨0, 1, 0, st, false, false, 0, 96, 96⟩
    ∀ x ∈ [(0, 0, 4, TileSt.filling), (1, 1, 2, .ready), (2, 2, 2, .ready), (3, 3, 1, .ready), (4, 0, 1, .filling)],
      Meets (.mepi (.s 14) 12 13 0 3 false) (world (p x.1 x.2.1) sk (spinHw [dTile .ready, oe x.2.2.2] none none)) (p x.1 x.2.1) fun v s =>
        let w (lo n : Nat) : Nat := (v.dw 3 0).toNat / 2 ^ lo % 2 ^ n
        (s.hwOf v.p.core).spindles.length = 4 ∧ s.skeins.get? v.p.skeinKey = some sk ∧ w 38 1 = 0 ∧ w 39 3 < 4 ∧ w 36 2 ≤ 1 ∧
        w 32 4 ≤ 4 ∧ w 42 22 = 0 ∧ resolveRef (s.hwOf v.p.core) v.p.slot (v.dw 4 0) = .inl (dTile .ready) ∧
        resolveRef (s.hwOf v.p.core) v.p.slot (v.dw 6 0) = .inl (oe x.2.2.2) ∧ (v.dw 4 0).toNat % 2 ^ 32 % 512 = 0 ∧
        (v.dw 6 0).toNat % 2 ^ 32 % 16 = 0 ∧ (v.dw 4 0).toNat % 2 ^ 32 + 49152 ≤ 512 * (dTile .ready).size ∧
        (v.dw 6 0).toNat % 2 ^ 32 + 12288 * x.2.2.1 ≤ 512 * (oe x.2.2.2).size ∧ (s.spindle v.p.core v.p.part).opened = .none ∧
        (s.spindle v.p.core v.p.part).drain = .none ∧ (s.spindle v.p.core v.p.part).window ≤ v.t ∧
        energyOf s v.p.core v.p.ctx = (4, 1350, 4) ∧ (3 : BitVec 2).toNat < (4 : DWord).toNat := by
  decide

/-- MEPI with a bias tile, and with the rounding of FRM. -/
theorem witness_EpilogueWithBias :
    let p : Ply := { ply with s := [(3, BitVec.ofNat 64 (0x3F800000 + 2 ^ 38 + 5 * 2 ^ 39)), (12, tref), (13, 0x300000000), (14, 0x100000000)] }
    let oe : TileEnt := ⟨0, 1, 0, .ready, false, false, 0, 96, 96⟩
    let be : TileEnt := ⟨0, 3, 0, .ready, false, false, 0, 192, 1⟩
    Meets (.mepi (.s 14) 12 13 0 3 false) (world p sk (spinHw [dTile .ready, oe, be] none none)) p fun v s =>
      let w (lo n : Nat) : Nat := (v.dw 3 0).toNat / 2 ^ lo % 2 ^ n
      w 38 1 = 1 ∧ w 39 3 = 5 ∧ w 36 2 = 0 ∧ w 32 4 = 0 ∧ w 42 22 = 0 ∧ resolveRef (s.hwOf v.p.core) v.p.slot (v.dw 4 0) = .inl (dTile .ready) ∧
      resolveRef (s.hwOf v.p.core) v.p.slot (v.dw 5 0) = .inl be ∧ resolveRef (s.hwOf v.p.core) v.p.slot (v.dw 6 0) = .inl oe ∧
      (v.dw 5 0).toNat % 2 ^ 32 % 16 = 0 ∧ (v.dw 5 0).toNat % 2 ^ 32 + 512 ≤ 512 * be.size := by
  decide

theorem witness_GeneratorsComplete : Issues (.gset ⟨false, .s 8⟩ 7 false) base ply ∧ sk.gregs.length = 8 ∧ sk.gnew = [] ∧
    ∀ x ∈ [0, 29, 14, 31, 32, 39], Meets (.gget s4 (BitVec.ofNat 8 x) false) (world ply sk CoreHw.zero) ply fun v s => s.skein? v.p = some sk := by
  and_intros <;> decide

/-! ## Witnesses: synchronisation -/

/-- A skein whose barrier 15 has some arrivals in its open phase, and one of its two plies. -/
def atBar (x : Barrier) : Skein := { sk with bars := sk.bars.set 15 x }
abbrev AtBar (i : Instr) (p : Ply) (x : Barrier) (c : Env → Barrier → Bool) : Prop :=
  Meets i (world p (atBar x) CoreHw.zero) p fun v s => s.skein? v.p = some (atBar x) ∧ (atBar x).bars.length = 16 ∧ v.p.plyid < 32 ∧
    s.plies.get? v.key = some p ∧ recBar (atBar x).lrec 15 = 33 ∧ c v ((atBar x).bars.getD 15 ⟨0, 0, 0, 0, 0, 0⟩) = true

theorem witness_BarriersComplete :
    let quiet (v : Env) : Prop := v.p.strict = 0 ∧ v.p.tileAt ≤ v.t ∧ v.p.spinAt ≤ v.t
    let twice (v : Env) (x : Barrier) : Bool := x.arrm.getLsbD v.p.plyid
    let e : Barrier := ⟨0xFFFF, 0, 0, 0, 0, 0⟩
    let b (i : Instr) (x : Barrier) (c : Env → Barrier → Bool) : Prop := AtBar i ply x c
    let bara (m : BitVec 3) := Instr.bara (if m = 0 then .null else a8) 15 m false
    let bar (m : BitVec 3) := Instr.bar (if m = 0 then .zero else v4) (if m = 0 then .null else a8) 15 m false
    let barw := Instr.barw v4 15 false
    let owing : Ply := { ply with owe := 0x8000 }
    let s0 : State := world ply { atBar { e with narr := 2, arrm := 3, op := 3, acc := 9 } with lrec := sk.lrec } CoreHw.zero
    (∀ m ∈ [0, 1, 2, 3, 4, 5, 6], b (bara m) e (fun v x => quiet v ∧ !twice v x ∧ (m = 0 ∨ x.op = 0 ∨ x.op = m.toNat))) ∧
    (∀ m ∈ [0, 1, 2, 3, 4, 5, 6], b (bar m) e (fun v x => v.stage ≠ 1 ∧ quiet v ∧ !twice v x ∧ (m = 0 ∨ x.op = 0 ∨ x.op = m.toNat))) ∧
    (∀ i ∈ [bara 3, bar 3], ∀ p ∈ [{ ply with strict := 1 }, { ply with tileAt := 9 }, { ply with spinAt := 9 }],
      AtBar i p e (fun v _ => v.stage ≠ 1 ∧ ¬ quiet v)) ∧
    AtBar (bar 3) { ply with stage := 1 } e (fun v _ => v.stage = 1) ∧ AtBar barw { ply with stage := 2 } e (fun v _ => v.stage = 2) ∧
    AtBar barw owing e (fun v x => v.stage ≠ 2 ∧ v.p.owe.getLsbD 15 ∧ !twice v x) ∧
    AtBar barw owing { e with arrm := 1 } (fun v x => v.stage ≠ 2 ∧ v.p.owe.getLsbD 15 ∧ twice v x) ∧
    AtBar barw ply e (fun v _ => v.stage ≠ 2 ∧ v.p.owe.getLsbD 15 = false) ∧
    (∀ i ∈ [bara 3, bar 3], AtBar i ply { e with arrm := 1 } (fun v x => v.stage ≠ 1 ∧ quiet v ∧ twice v x)) ∧
    (∀ i ∈ [bara 3, bar 3], AtBar i ply { e with op := 4, arrm := 2 } (fun v x => v.stage ≠ 1 ∧ quiet v ∧ !twice v x ∧ x.op ≠ 0 ∧ x.op ≠ (3 : BitVec 3).toNat)) ∧
    (s0.skeins.get? 0 = some (atBar { e with narr := 2, arrm := 3, op := 3, acc := 9 }) ∧
      barComplete (atBar { e with narr := 2, arrm := 3, op := 3, acc := 9 }) 15 = true) ∧
    ∀ c ∈ [1, 32, 33, 34, 35], recBar (sk.lrec.set 4 (BitVec.ofNat 64 c)) 0 = c := by
  and_intros <;> decide

/-- The chains of the launch with chain 7 as given. -/
def atChain (x : Chain) (p : Ply) (k : Skein) : State :=
  { world p k CoreHw.zero with launches := [(0, { programLaunch with chains := (List.replicate 8 Chain.zero).set 7 x })] }

theorem witness_TicketsComplete :
    let p : Ply := { withS 7 with skix := 3 }
    let quiet (v : Env) : Prop := v.p.strict = 0 ∧ v.p.tileAt ≤ v.t ∧ v.p.spinAt ≤ v.t
    let x (h : Nat) : Chain := ⟨h, 5, 1, [], [(3, (5, 1))]⟩
    let k (r : BitVec 8) : Skein := { sk with resolved := r }
    let take := Instr.tktTake s4 sa 7 false
    let at3 (i : Instr) (p : Ply) (h : Nat) (r : BitVec 8) (c : Env → Bool) : Prop :=
      Meets i { atChain (x h) p (k r) with skeins := [(p.skeinKey, k r)] } p fun v s =>
        s.skein? v.p = some (k r) ∧ s.chainOf v.p 7 = x h ∧ c v
    at3 take p 3 0x7F (fun v => (x 3).h = v.p.skix ∧ (0x7F : BitVec 8).getLsbD 7 = false ∧ quiet v) ∧
    at3 take p 2 0x7F (fun v => (x 2).h ≠ v.p.skix ∧ quiet v) ∧
    at3 (.tktWaitp s4 7 false) p 3 0 (fun v => v.p.skix ≤ (x 3).h ∧ (x 3).seen.get? v.p.skix = some (5, 1)) ∧
    at3 (.tktWaitp s4 7 false) p 2 0 (fun v => (x 2).h < v.p.skix) ∧
    (∀ i ∈ [Instr.tktPut sa 7 false, .tktSkip 7 false], at3 i p 2 0 fun v => quiet v) ∧
    (∀ i ∈ [take, Instr.tktPut sa 7 false, .tktSkip 7 false], at3 i { p with strict := 2 } 2 0 fun v => ¬ quiet v) ∧
    (∀ i ∈ [take, Instr.tktPut sa 7 false, .tktSkip 7 false], at3 i { p with tileAt := 9 } 2 0 fun v => ¬ quiet v) ∧
    (∀ i ∈ [take, Instr.tktPut sa 7 false, .tktSkip 7 false], at3 i { p with spinAt := 9 } 2 0 fun v => ¬ quiet v) ∧
    (∀ i ∈ [take, Instr.tktPut sa 7 false, .tktSkip 7 false], at3 i p 2 0x80 fun _ => (0x80 : BitVec 8).getLsbD 7) ∧
    ((x 3).done.get? (x 3).h = none ∧ 4 ≠ (x 3).h) ∧ ((x 3).done = []) ∧
    (atChain (x 3) p (k 0)).launches.get? (0 * 64 + 0) = some { programLaunch with chains := (List.replicate 8 Chain.zero).set 7 (x 3) } ∧
    ((List.replicate 8 Chain.zero).set 7 (x 3))[7]? = some (x 3) := by
  and_intros <;> decide

/-- A skein with tokens in queue 7 and plies waiting at it. -/
def atQueue (l : List DWord) (w : List Popper) : Skein := { sk with queues := (List.replicate 8 []).set 7 l, poppers := w }

theorem witness_QueuesComplete :
    let q (i : Instr) (p : Ply) (l : List DWord) (w : List Popper) (c : Env → Bool) : Prop :=
      Meets i (world p (atQueue l w) CoreHw.zero) p fun v s => s.skein? v.p = some (atQueue l w) ∧ (atQueue l w).queues.getD 7 [] = l ∧ c v
    let push := Instr.qpush sa 7 false
    let pop := Instr.qpop s4 7 false
    let first (v : Env) (w : List Popper) : Bool := (w.find? fun w => decide (w.queue = 7) && !w.closed).all fun w => decide (w.plyid = v.p.plyid)
    let shut (v : Env) (w : List Popper) : Bool := w.any fun w => decide (w.plyid = v.p.plyid ∧ w.queue = 7) && w.closed
    let allGone (k : Skein) (w : List Popper) : Bool := (List.range (recNply k.lrec)).all fun p =>
      !(decide (recQueue k.lrec 7 / 4 % 4 = 0 ∨ recQueue k.lrec 7 / 4 % 4 = 1 ∧ recRole k.lrec p = .producer ∨
        recQueue k.lrec 7 / 4 % 4 = 2 ∧ recRole k.lrec p = .consumer)) || k.retired.getLsbD p || w.any fun w => decide (w.queue = 7 ∧ w.plyid = p)
    let last : Skein := { atQueue [] [⟨7, 0, false⟩] with retired := 2 }
    q push ply (List.replicate 31 5) [] (fun v => v.p.strict = 0 ∧ v.p.tileAt ≤ v.t ∧ (List.replicate 31 (5 : DWord)).length < 32) ∧
    q push ply (List.replicate 32 5) [] (fun v => v.p.strict = 0 ∧ v.p.tileAt ≤ v.t ∧ 32 ≤ (List.replicate 32 (5 : DWord)).length) ∧
    (∀ p ∈ [{ ply with strict := 1 }, { ply with tileAt := 9 }], q push p [] [] (fun v => v.p.strict ≠ 0 ∨ v.t < v.p.tileAt)) ∧
    q pop ply [5, 6] [⟨7, 0, false⟩, ⟨7, 1, false⟩] (fun v => !shut v [⟨7, 0, false⟩, ⟨7, 1, false⟩] && first v [⟨7, 0, false⟩, ⟨7, 1, false⟩]) ∧
    q pop ply [5] [⟨7, 0, true⟩] (fun v => shut v [⟨7, 0, true⟩]) ∧
    q pop ply [] [] (fun v => !shut v [] && !allGone (atQueue [] []) [⟨7, 0, false⟩]) ∧
    q pop ply [5] [⟨7, 1, false⟩] (fun v => !shut v [⟨7, 1, false⟩] && !first v [⟨7, 1, false⟩]) ∧
    Meets pop (world ply last CoreHw.zero) ply (fun v s => s.skein? v.p = some last ∧ last.queues.getD 7 [] = [] ∧
      !shut v [⟨7, 0, false⟩] ∧ allGone last [⟨7, 0, false⟩]) := by
  and_intros <;> decide

theorem witness_TimelinesComplete :
    let k (marks : List CopyMark) : Skein := { busy marks with spTimeline := 9 }
    let tl (f : BitVec 5) (n : DWord) (marks : List CopyMark) (c : State → Bool) : Prop := Meets (.tlwait s4 sa f false)
      { world (withS n) (k marks) CoreHw.zero with ctxs := [(0, { Ctx.zero with desc := [fieldAt 63 1, 0, 0, 0, 0, 0x2000] })], lqs := [(1, (8, 6))] }
      (withS n) fun v s => s.skein? v.p = some (k marks) ∧ (v.dw 0 0) = n ∧ c s
    tl 0 4 [⟨0, 5, 0, 0⟩] (fun _ => (∀ m ∈ (k [⟨0, 5, 0, 0⟩]).eng.marks, ¬ (m.issuer = 0 ∧ m.n ≤ 4)) ∧ (4 : DWord).toNat ≤ (k []).eng.timeline) ∧
    tl 1 9 [] (fun _ => (9 : DWord).toNat ≤ (k []).spTimeline) ∧
    tl 9 6 [] (fun s => queueBase s 0 1 ≠ 0 ∧ (6 : DWord).toNat ≤ (s.lq 0 1).2) ∧
    tl 0 5 [] (fun _ => (k []).eng.timeline < (5 : DWord).toNat) ∧ tl 1 10 [] (fun _ => (k []).spTimeline < (10 : DWord).toNat) ∧
    tl 9 7 [] (fun s => queueBase s 0 1 ≠ 0 ∧ (s.lq 0 1).2 < (7 : DWord).toNat) ∧ tl 15 0 [] (fun s => queueBase s 0 7 = 0) ∧
    (∀ g ∈ [false, true], Meets (.tlrd s4 g false) (world ply sk CoreHw.zero) ply fun v s => s.skein? v.p = some sk) := by
  and_intros <;> decide

/-- A tree at slot 3 over core 0, of a width and an operation, known as tree 31 of context 0. -/
def aTree (w op : Nat) : Tree := ⟨0, false, [BitVec.ofNat 64 (op * 2 ^ 10 + w * 2 ^ 16), 0, 1, 0], none⟩
def atTree (t : Tree) (p : Ply) (r : Nat × Bool × Option Nat) : State :=
  { world p sk { CoreHw.zero with trees := [(3, r)] } with
    ctxs := [(0, { Ctx.zero with desc := [fieldAt 63 1], treemap := (List.replicate 32 none).set 31 (some 3) })], trees := [(3, t)] }

theorem witness_TreeContributions :
    let i := Instr.nred v4 a8 31 0 false
    let t (x : Tree) (r : Nat × Bool × Option Nat) (c : Env → State → Bool) : Prop := Meets i (atTree x ply r) ply fun v s =>
      (s.ctx v.p.ctx).treemap.getD 31 none = some 3 ∧ s.trees.get? 3 = some x ∧ c v s
    let core0 (x : Tree) (v : Env) : Bool := (treeMask x.words).getLsbD v.p.core
    let away : Tree := ⟨0, false, [0, 0, 2, 0], none⟩
    t (aTree 0 0) (0xFFFF, false, none) (fun v s => core0 (aTree 0 0) v ∧ v.p.width = treeWidth (aTree 0 0).words ∧
      0 = treeOp (aTree 0 0).words ∧ s.coreTree v.p.core 3 = (0xFFFF, false, none)) ∧
    t (aTree 0 0) (7, false, some 4) (fun v s => core0 (aTree 0 0) v ∧ v.p.width = treeWidth (aTree 0 0).words ∧
      0 = treeOp (aTree 0 0).words ∧ s.coreTree v.p.core 3 = (7, false, some 4)) ∧
    Meets (.nred v4 a8 30 0 false) (atTree (aTree 0 0) ply (0, false, none)) ply (fun v s => (s.ctx v.p.ctx).treemap.getD 30 none = none) ∧
    t (aTree 0 0) (7, true, none) (fun v s => core0 (aTree 0 0) v ∧ v.p.width = treeWidth (aTree 0 0).words ∧
      0 = treeOp (aTree 0 0).words ∧ s.coreTree v.p.core 3 = (7, true, none)) ∧
    t away (0, false, none) (fun v _ => !core0 away v) ∧
    t (aTree 1 0) (0, false, none) (fun v _ => core0 (aTree 1 0) v ∧ v.p.width ≠ treeWidth (aTree 1 0).words) ∧
    t (aTree 0 5) (0, false, none) (fun v _ => core0 (aTree 0 5) v ∧ v.p.width = treeWidth (aTree 0 5).words ∧
      0 ≠ treeOp (aTree 0 5).words) := by
  and_intros <;> decide

/-! ## Witnesses: user interrupts, registers, system -/

/-- Context 0 with vector 63 enabled, for any ply, with a message pending or none. -/
def uiCtx (pend : Bool) (fifo : Bool) : Ctx := { Ctx.zero with
  desc := [fieldAt 63 1], vectors := (List.replicate 64 0).set 63 (fieldAt 25 1 ||| fieldAt 16 1 ||| fieldAt 18 (if fifo then 3 else 0)),
  vecs := (List.replicate 64 VecSt.zero).set 63 ⟨pend, 9, if fifo then [4] else [], 2, none⟩, perms := [(fieldAt 63 1 ||| fieldAt 61 2 ||| fieldAt 32 5, fieldAt 63 1)],
  rates := [1] }
def uiState (p : Ply) (c : Ctx) (l : Table PeerLink) : State := { at' p with ctxs := [(0, c)], links := l }
def aLink (up : Bool) : PeerLink := ⟨up, [], [], 0, 0, [], []⟩

def to' (n : Nat) : Ply := { ply with s := [(6, fieldAt 59 n ||| 63), (7, 5)] }
def inside : Ply := { ply with uist := 1 }
def waited : Ply := { ply with stage := 2 }

/-- It issues in context 0 as given, and `h` holds of what it sees. -/
abbrev InCtx (i : Instr) (p : Ply) (c : Ctx) (h : Env → State → Bool) : Prop := Meets i (uiState p c []) p h
/-- A field of the word that UISEND reads. -/
abbrev sendField (v : Env) (lo n : Nat) : Nat := (v.dw 0 0).toNat / 2 ^ lo % 2 ^ n

theorem witness_UserInterruptSend :
    let quiet (v : Env) : Prop := v.p.strict = 0 ∧ v.p.tileAt ≤ v.t ∧ sendField v 56 3 = 0 ∧ sendField v 6 42 = 0
    let send := Instr.uisend s4 ⟨false, .s 6⟩ false
    InCtx send (to' 31) (uiCtx false false) (fun v _ => quiet v ∧ sendField v 59 5 = 31) ∧
    InCtx send (to' 21) (uiCtx false false) (fun v s => quiet v ∧ sendField v 59 5 < 22 ∧ s.links.get? (sendField v 59 5) = none) ∧
    Meets send (uiState (to' 21) (uiCtx false false) [(21, aLink true)]) (to' 21) (fun v s => quiet v ∧ sendField v 59 5 < 22 ∧
      s.links.get? (sendField v 59 5) = some (aLink true) ∧ (aLink true).up ∧ .peerLink (sendField v 59 5) ∉ s.fenced) ∧
    (∀ p ∈ [{ to' 21 with strict := 1 }, { to' 31 with tileAt := 9 }], InCtx send p (uiCtx false false) (fun v _ =>
      sendField v 56 3 = 0 ∧ sendField v 6 42 = 0 ∧ (sendField v 59 5 < 22 ∨ sendField v 59 5 = 31) ∧ ¬ (v.p.strict = 0 ∧ v.p.tileAt ≤ v.t))) ∧
    (∀ n ∈ [22, 30], InCtx send (to' n) (uiCtx false false) fun v _ => 22 ≤ sendField v 59 5 ∧ sendField v 59 5 ≤ 30) ∧
    InCtx send (withS (fieldAt 56 1)) (uiCtx false false) (fun v _ => sendField v 56 3 ≠ 0) := by
  and_intros <;> decide

theorem witness_UserInterruptPending :
    let pend := Instr.uipend s4 sa false
    Issues (.uimask s4 sa false) (uiState (withS 5) (uiCtx true false) []) (withS 5) ∧
    (∀ x ∈ [0, 2], InCtx pend (withS (BitVec.ofNat 64 x)) (uiCtx true false) fun v s => (v.dw 0 0).toNat = x ∧
      (List.range 64).all fun n => (0x8000000000000000#64).getLsbD n == ((s.ctx v.p.ctx).vecs.getD n VecSt.zero).pend) ∧
    InCtx pend (withS 1) (uiCtx true false) (fun v _ => v.dw 0 0 = 1) ∧
    (∀ f ∈ [false, true], InCtx pend (withS 127) (uiCtx true f) fun v s => (v.dw 0 0).toNat = 64 + 63 ∧
      ((s.ctx v.p.ctx).vectors.getD 63 0).toNat / 2 ^ 18 % 4 = if f then 3 else 0) ∧
    (∀ x ∈ [3, 63, 128], InCtx pend (withS (BitVec.ofNat 64 x)) (uiCtx true false) fun v _ =>
      128 ≤ (v.dw 0 0).toNat ∨ 3 ≤ (v.dw 0 0).toNat ∧ (v.dw 0 0).toNat < 64) := by
  and_intros <;> decide

theorem witness_UserInterruptTaken :
    let ack := Instr.uiack s4 sa false
    let wait := Instr.uiwait sa false
    let out (v : Env) : Prop := v.p.tl = 0 ∧ v.p.uist.getLsbD 0 = false
    InCtx ack (withS 63) (uiCtx false false) (fun v s => (v.dw 0 0).toNat < 64 ∧
      (takeMessage (s.ctx v.p.ctx) (v.dw 0 0).toNat v.p.logic).1 = none) ∧
    InCtx ack (withS 63) (uiCtx true true) (fun v s => (v.dw 0 0).toNat < 64 ∧
      (takeMessage (s.ctx v.p.ctx) (v.dw 0 0).toNat v.p.logic).1 = some 4) ∧
    InCtx ack (withS 64) (uiCtx true false) (fun v _ => 64 ≤ (v.dw 0 0).toNat) ∧
    InCtx (.uiret false) inside (uiCtx true false) (fun v _ => v.p.tl = 0 ∧ v.p.uist.getLsbD 0) ∧
    InCtx (.uiret false) ply (uiCtx true false) (fun v _ => v.p.uist.getLsbD 0 = false) ∧
    InCtx wait ply (uiCtx true false) (fun v s => out v ∧ lowestVector s v.key v.p = some 63) ∧
    InCtx wait waited (uiCtx false false) (fun v s => out v ∧ lowestVector s v.key v.p = none ∧ v.stage = 2) ∧
    InCtx wait ply (uiCtx false false) (fun v s => out v ∧ lowestVector s v.key v.p = none ∧ v.stage ≠ 2 ∧ v.p.park = .none ∧
      recDet (s.launchRec v.p) = false) ∧
    Meets wait { uiState ply (uiCtx false false) [] with skeins := [(0, det)] } ply (fun v s =>
      out v ∧ lowestVector s v.key v.p = none ∧ v.stage ≠ 2 ∧ v.p.park = .none ∧ recDet (s.launchRec v.p)) ∧
    InCtx wait inside (uiCtx true false) (fun v _ => v.p.uist.getLsbD 0) := by
  and_intros <;> decide

theorem witness_UserInterruptDelivery :
    let c := uiCtx true true
    let me : Sender := ⟨1, 0, 0, 5⟩
    let e : DWord × DWord := (fieldAt 63 1 ||| fieldAt 61 1 ||| fieldAt 32 5 ||| 5, fieldAt 63 1)
    let x : VecSt := ⟨true, 9, List.replicate 8 0, 2, none⟩
    (uiState ply c []).ctxs.get? 1 = none ∧ (uiState ply c []).ctxs.get? 0 = some c ∧ c.killed = false ∧ permIndex c me = none ∧
    (uiState ply { c with killed := true } []).ctxs.get? 0 = some { c with killed := true } ∧
    permIndex { c with perms := [e] } me = some 0 ∧ e.2.getLsbD 0 = false ∧ e.2.getLsbD 63 ∧ e.1.toNat / 2 ^ 32 % 2 ^ 16 ≠ 0 ∧
    c.rates.getD 0 0 ≠ 0 ∧ { c with rates := [0] }.rates.getD 0 0 = 0 ∧ (c.vectors.getD 63 0).getLsbD 16 ∧ (c.vectors.getD 62 0).getLsbD 16 = false ∧
    x.pend ∧ 8 ≤ x.fifo.length ∧ { x with pend := false, fifo := [] : VecSt }.pend = false ∧ { x with fifo := [] : VecSt }.fifo.length < 8 := by
  and_intros <;> decide

def ext (d e : Bool) : Ply := { ply with extDecl := d, ext := e }
def pool (u : Nat) (w : List Nat) : State := { at' (ext true false) with parts := [(0, { Part.empty with extUnits := u, vacq := w })] }
def below (e : OEntry) : Ply := { ply with tl := 1, banks := [⟨0, List.replicate 8 OEntry.invalid⟩], o := List.replicate 8 e }
def landing : Ply := { ext true true with out := [⟨0, false, 0, []⟩] }
def slotsLeft : Ply := { ext true true with tiles := [⟨.read, 4, .none, 1, [(5, [])], [], 9⟩] }

theorem witness_RegistersComplete :
    let head (v : Env) (s : State) : Prop := (s.part v.p.partKey).vacq = [] ∨ (s.part v.p.partKey).vacq.head? = some v.key
    Here (.vacq false) (ext true true) (fun v => v.p.ext) ∧
    (∀ w ∈ [[], [0, 9]], Meets (.vacq false) (pool 31 w) (ext true false) fun v s => v.p.ext = false ∧ v.p.extDecl ∧ head v s ∧
      (s.part v.p.partKey).extUnits + 1 ≤ 32) ∧
    Meets (.vacq false) (pool 31 [9]) (ext true false) (fun v s => v.p.ext = false ∧ v.p.extDecl ∧ ¬ head v s) ∧
    Meets (.vacq false) (pool 32 []) (ext true false) (fun v s => v.p.ext = false ∧ v.p.extDecl ∧ 32 < (s.part v.p.partKey).extUnits + 1) ∧
    Here (.vacq false) (ext false false) (fun v => v.p.ext = false ∧ v.p.extDecl = false) ∧
    Here (.vrel false) ply (fun v => v.p.ext = false) ∧ Here (.vrel false) { ext true true with stage := 1 } (fun v => v.p.ext ∧ v.stage = 1) ∧
    Here (.vrel false) (ext true true) (fun v => v.p.ext ∧ v.stage ≠ 1 ∧ v.p.out = [] ∧
      v.p.tiles = [] ∧ v.p.memlost = none ∧ v.p.mixsize = none) ∧
    Here (.vrel false) landing (fun v => v.p.ext ∧ v.stage ≠ 1 ∧ v.p.out ≠ []) ∧
    Here (.vrel false) slotsLeft (fun v => v.p.ext ∧ v.stage ≠ 1 ∧ v.p.out = [] ∧ v.p.tiles ≠ []) := by
  and_intros <;> decide

theorem witness_RegisterStanding :
    Here (.vkill ⟨false, .v 8⟩ false) ply (fun v => v.p.regpoolOf (.v 8) .one = none) ∧
    (∀ n ∈ [Name.s 6, .o 7], Issues (.vkill ⟨false, n⟩ false) (at' ply) ply) ∧
    (∀ n ∈ [0, 1, 2], Here (.rdlive s4 sa false) (withS (BitVec.ofNat 64 n)) fun v => (v.w 0 0).toNat = n) ∧
    Here (.rdlive s4 sa false) (withS 3) (fun v => 3 ≤ (v.w 0 0).toNat) ∧
    Here (.uprd v4 ⟨false, .o 7⟩ false) (below OEntry.vacant) (fun v => lowerEntry v.p (.o 7) = ([], false)) ∧
    Here (.uprd v4 ⟨false, .o 7⟩ false) (below ⟨true, true, [5]⟩) (fun v => lowerEntry v.p (.o 7) = ([5], true)) ∧
    (below ⟨true, true, [5]⟩).oBelow[7]? = some ⟨true, true, [5]⟩ ∧
    Issues (.upwr (.o 7) a8 false) (at' (below OEntry.vacant)) (below OEntry.vacant) ∧
    ((pool 31 [0]).part (0 * 4 + 0)).vacq.head? = some 0 ∧ (pool 31 [0]).plies.get? 0 = some (ext true false) ∧
    ((pool 31 [0]).part (0 * 4 + 0)).extUnits + 1 ≤ 32 := by
  and_intros <;> decide

def top : Ply := { ply with tl := 2, banks := [⟨3, List.replicate 8 OEntry.invalid⟩, ⟨0, List.replicate 8 OEntry.invalid⟩] }

theorem witness_SystemRegistersComplete :
    (∀ n ∈ [0, 1, 2, 3, 4, 5, 6, 7, 8, 9, 0x0A, 0x0B, 0x0C, 0x0D, 0x0E, 0x10, 0x11, 0x12, 0x13, 0x20, 0x21, 0x22, 0x23, 0x24, 0x25, 0x28,
      0x29, 0x2A, 0x2B, 0x2C, 0x2D], Meets (.rdsr s4 (BitVec.ofNat 8 n) false) (world top sk CoreHw.zero) top fun v s => s.skein? v.p = some sk) ∧
    (∀ n ∈ [0, 2, 0x25, 0x2D, 0x0A], Issues (.wrsr sa (BitVec.ofNat 8 n) false) (at' top) top) ∧
    (at' top).plies.get? 0 = some top ∧ (at' top).ctxs.get? top.ctx = some ((at' top).ctx 0) := by
  and_intros <;> decide

def atLevel (tl : Nat) (park : Park) : Ply := { ply with tl := tl, banks := [⟨0, List.replicate 8 OEntry.invalid⟩], park := park }
def at1 : Ply := atLevel 1 (.trap 0x11 7 0x104)
def s1 : State := { at' at1 with parts := [(0, { Part.empty with banks := [some 0, some 0, some 0, none] })] }
def c0 : Ctx := (at' ply).ctx 0
def killed : Ctx := { c0 with killed := true, killRec := some [1] }
def dead : State := { at' { ply with ctx := 5 } with ctxs := [(0, killed)] }
def asked (w o : Bool) (r : Option Nat) : Ply := { ply with wdog := w, orphan := o, preempt := r }

theorem witness_TrapsEnterAndReturn :
    (s1.plies.get? 0 = some at1 ∧ s1.ctxs.get? 0 = some c0 ∧ c0.xvec ≠ 0 ∧ at1.tl < 2 ∧ at1.out = [] ∧ at1.strict = 0 ∧
      at1.tiles = [] ∧ (s1.part at1.partKey).bankWait = [] ∧ (s1.part at1.partKey).banks.getD 3 (some 0) = none ∧ at1.park = .trap 0x11 7 0x104) ∧
    ((base.part ply.partKey).bankWait = [] ∧ (base.part ply.partKey).banks.getD 0 (some 0) = none ∧ ply.tl < 2) ∧
    ((at' (atLevel 2 .none)).plies.get? 0 = some (atLevel 2 .none) ∧ (atLevel 2 .none).tl = 2 ∧ c0.killed = false) ∧
    Issues (.trap sa false) base ply ∧ Here (.tret false) (atLevel 1 .none) (fun v => v.p.banks = ⟨0, List.replicate 8 OEntry.invalid⟩ :: []) ∧
    Issues (.halt false) (at' (atLevel 1 .none)) (atLevel 1 .none) ∧
    ((asked true false none).frozen = false ∧ (asked true false none).park = .none ∧ (asked true false none).wdog) ∧
    ((asked false true none).wdog = false ∧ (asked false true none).orphan) ∧
    ((asked false false (some 1)).wdog = false ∧ (asked false false (some 1)).orphan = false ∧ (asked false false (some 1)).tl = 0) ∧
    (dead.ctxs.get? 0 = some killed ∧ killed.killRec = some [1] ∧ killed.word 12 &&& ~~~0x7F = 0 ∧
      ((at' ply).plies.get? 0 = some ply ∧ ply.ctx = 0 ∧ ply.strict = 0 ∧ ply.overlapped = [] ∧ ply.tiles = []) ∧
      dead.launches.get? 0 = some programLaunch ∧ programLaunch.ctx = 0 ∧ programLaunch.st ≠ .finished) := by
  and_intros <;> decide

/-- Context 0 with PASID 0 whose launch queue 1 has its header at 0x2000; pages 0 to 255 are in the ATS cache, at 0x100000 on. -/
def page (w : Bool) : TlbEnt := ⟨0, 0, 8, 0x100000, true, w, true, 16384, []⟩
def atsState (p : Ply) (k : Skein) (tail : Nat) (faults : List FRec) (ats : List TlbEnt) : State := { world p k CoreHw.zero with
  ctxs := [(0, { Ctx.zero with desc := [fieldAt 63 1, 0, 0, 0, 0, 0x2000], xvec := 0x8000 })], ats := ats, faults := faults
  mem := (if tail = 0 then [] else [(0x102000, BitVec.ofNat 8 tail)]) ++ [(0x102028, 1)] }
def rec5 (wait : BitVec 128) : FRec := ⟨0, 0, 5, 0, true, false, false, 0, 0, .gather, 0, 0, 0, 0, wait, 0, 0, false, false⟩
def spawnWork : Work := ⟨[], (List.range 8).map fun j => (j, 7), .keep, .zero, 0, false, 0, 0⟩
def spawning : Ply := { withS 0x4000 with stage := 1, work := some spawnWork }
def askAt (tl stage : Nat) (v : Verdict) (pre : Option Nat) (x : DWord) : Ply :=
  { atLevel tl .none with s := [(6, x)], stage := stage, verdict := v, preempt := pre }
/-- A skein with a save area. -/
def saved : Skein := { sk with save := 0x10000 }

theorem witness_FaultRequestsComplete :
    let fr (ats : List TlbEnt) (x : DWord) (c : Env → State → Bool) : Prop :=
      Meets (.faultreq s4 sa false) (atsState (askAt 1 0 .retry none x) sk 0 [] ats) (askAt 1 0 .retry none x) c
    let wf (p : Ply) (f : List FRec) (c : Env → State → Bool) : Prop := Meets (.waitf s4 sa false) (atsState p sk 0 f []) p c
    let bit (v : Env) (j : Nat) : Bool := (v.dw 0 0).getLsbD j
    let pg (v : Env) : Nat := (v.dw 0 0).toNat / 2 ^ 12 % 2 ^ 52
    Meets (.classq s4 sa false) { atsState (withS 0x1008) sk 0 [] [] with cores := base.cores } (withS 0x1008) (fun v s =>
      (match planAccess v s [(0, v.dw 0 0)] 1 true false false with
        | .go [_] => true
        | _ => false) && (tlbFind (s.core v.p.core).tlb (s.ctx v.p.ctx).pasid ((v.dw 0 0).toNat / 4096)).isSome) ∧
    fr [page true] 0x5003 (fun v s => tlbFind s.ats (s.ctx v.p.ctx).pasid (pg v) = some (page true) ∧
      (page true).allows (bit v 0) (bit v 1) (bit v 2)) ∧
    fr [] 0x5003 (fun v s => cachedFor s v.p.core (s.ctx v.p.ctx).pasid (pg v) (bit v 0) (bit v 1) (bit v 2) = false ∧
      (openRecord s v.p.core v.p.ctx (pg v) (bit v 0) (bit v 1) (bit v 2)).isSome) ∧
    wf (askAt 1 0 .retry (some 2) 0x5000) [] (fun v _ => v.p.preempt.isSome) ∧
    wf (askAt 1 1 .prot none 0x5000) [] (fun v _ => v.p.preempt = none ∧ v.stage = 1 ∧ v.p.verdict = .prot) ∧
    wf (askAt 1 1 .retry none 0x5000) [] (fun v _ => v.p.preempt = none ∧ v.stage = 1 ∧ v.p.verdict ≠ .prot) ∧
    wf (askAt 1 0 .retry none 0x6000) [rec5 1] (fun v s => v.p.preempt = none ∧ v.stage ≠ 1 ∧
      ∀ f ∈ s.faults, f.pasid ≠ (s.ctx v.p.ctx).pasid ∨ f.vpage ≠ pg v) ∧
    wf (askAt 1 0 .retry none 0x5000) [rec5 1] (fun v s => v.p.preempt = none ∧ v.stage ≠ 1 ∧
      recordOf s (s.ctx v.p.ctx).pasid (pg v) = some (rec5 1) ∧ (rec5 1).wait.getLsbD v.p.core) := by
  and_intros <;> decide

/-- The fault buffer is full, of records of other pages. -/
def askFull : Ply := askAt 1 0 .retry none 0x6003
def bufferFull : State := atsState askFull sk 0 ((List.range 4096).map fun i => { rec5 1 with idx := i }) []
theorem witness_FaultBufferFull :
    Issues (.faultreq s4 sa false) (atsState askFull sk 0 [] []) askFull ∧ cachedFor bufferFull 0 0 6 true true false = false ∧
    recordOf bufferFull 0 6 = none ∧ ∀ i < 4096, ∃ f ∈ bufferFull.faults, f.idx = i ∧ f.st ≠ .free := by
  refine ⟨by decide, by decide, List.find?_eq_none.2 fun f h => ?_, fun i h =>
    ⟨_, List.mem_map.2 ⟨i, List.mem_range.2 h, rfl⟩, rfl, (by decide : FState.gather ≠ .free)⟩⟩
  obtain ⟨i, -, rfl⟩ := List.mem_map.1 h
  simp [rec5]

theorem witness_SpawnCompletes :
    let hold (v : Env) (s : State) (h : QueueHdr) : Prop := v.stage = 1 ∧ v.p.work = some spawnWork ∧ spawnWork.use ≠ .lost ∧
      svcRefused s 0 v.p.lid (queueBase s 0 1) true = false ∧ readQueue s 0 v.p.lid 1 = (some h, s)
    let sp (p : Ply) (tail : Nat) (c : Env → State → Bool) : Prop :=
      Meets (.spawn s4 sa 1 false) (atsState p sk tail [] [page true]) p c
    sp spawning 1 (fun v s => hold v s ⟨1, 0, 0, 0, true⟩ ∧ 2 ^ 0 ≤ 1 - (s.lq v.p.ctx 1).1) ∧
    sp spawning 0 (fun v s => hold v s ⟨0, 0, 0, 0, true⟩ ∧ 0 - (s.lq v.p.ctx 1).1 < 2 ^ 0 ∧
      svcRefused s 0 v.p.lid 0 true = false ∧ svcNeed s 0 v.p.lid true [(0, 128), (queueBase s 0 1, 8)] = none) ∧
    sp (withS 0x4020) 0 (fun v _ => v.stage ≠ 1 ∧ (v.dw 0 0).toNat % 64 ≠ 0) ∧
    Meets (.spawn s4 sa 1 false) { atsState (withS 0x4040) sk 0 [] [page true] with mem := [] } (withS 0x4040) (fun v s => v.stage ≠ 1 ∧
      (v.dw 0 0).toNat % 64 = 0 ∧ queueBase s 0 1 ≠ 0 ∧ svcRefused s 0 v.p.lid (queueBase s 0 1) false = false ∧
      readQueue s 0 v.p.lid 1 = (some ⟨0, 0, 0, 0, false⟩, s)) ∧
    Meets (.spawn s4 sa 7 false) (atsState (withS 0x4040) sk 0 [] []) (withS 0x4040) (fun v s => v.stage ≠ 1 ∧ (v.dw 0 0).toNat % 64 = 0 ∧
      queueBase s v.p.ctx 7 = 0) := by
  and_intros <;> decide

theorem witness_EvictionCompletes :
    let ev := Instr.evict false
    let p := askAt 1 0 .retry none 0
    Meets ev (atsState (askAt 2 0 .retry none 0) saved 0 [] []) (askAt 2 0 .retry none 0) (fun v s => s.skein? v.p = some saved ∧ v.p.tl ≠ 1) ∧
    Meets ev (atsState p sk 0 [] []) p (fun v s => s.skein? v.p = some sk ∧ sk.save = 0) ∧
    Meets ev (atsState p saved 0 [] [page true]) p (fun v s => s.skeins.get? v.p.skeinKey = some saved ∧ v.p.tl = 1 ∧ saved.save ≠ 0 ∧
      v.p.out = [] ∧ v.p.overlapped = [] ∧ v.p.strict = 0 ∧ v.p.tileAt ≤ v.t ∧ v.p.spinAt ≤ v.t ∧ (s.spindle v.p.core v.p.part).opened = none ∧
      (s.spindle v.p.core v.p.part).drain = none ∧ 1 < recNply saved.lrec ∧ 1 ≠ v.p.plyid ∧ saved.retired.getLsbD 1 = false ∧
      saved.left.getLsbD 1 = false ∧ svcReady s v.p.ctx v.p.lid (saved.save + BitVec.ofNat 64 (0x2000 + 1024 * v.p.plyid)) 1024 true ∧ v.p.plyid < 32) := by
  and_intros <;> decide

/-- A ply whose strict access is outstanding, one with eight results outstanding, and one in debug mode. -/
def strictPly : Ply := { ply with strict := 1 }
def fullPly : Ply := { mem6 with out := List.replicate 8 ⟨0, false, 0, []⟩ }
def debugging (p : Ply) : State := { at' p with ctxs := [(0, { c0 with trapcfg := 1 })] }

theorem witness_IssueChecksInOrder :
    let fetched (i : Instr) (s : State) (p : Ply) : Prop := encode i ≠ .none ∧ s.cur = some 0 ∧ s.plies.get? 0 = some p ∧ p.held = none
    let st (i : Instr) (s : State) (p : Ply) : State := { s.setPly 0 (issuePly i s p) with cycle := issueAt i s p }
    let legal (i : Instr) (s : State) (p : Ply) : Prop := i.legal = true ∧ dynIllegal (st i s p) (issuePly i s p) i = false
    let ready (i : Instr) (s : State) (p : Ply) : Prop := legal i s p ∧ levelOf i ≤ p.tl ∧ (issuePly i s p).regpool i = none
    let add (n : Fin 80) := Instr.iadd (.v n) a8 b12 false
    (fetched (.calli .zero sa false) (at' ply) ply ∧ ¬ legal (.calli .zero sa false) (at' ply) ply) ∧
    (fetched (.tret false) (at' ply) ply ∧ legal (.tret false) (at' ply) ply ∧ ply.tl < levelOf (.tret false)) ∧
    (legal (add 79) (at' ply) ply ∧ levelOf (add 79) ≤ ply.tl ∧ (issuePly (add 79) (at' ply) ply).regpool (add 79) = some 79) ∧
    (ready (.cpyqTl s4 false) (at' strictPly) strictPly ∧ afterStrict (.cpyqTl s4 false) ∧ strictPly.strict ≠ 0) ∧
    (ready (.cpyqTl s4 false) (at' fullPly) fullPly ∧ fullPly.strict = 0 ∧ landsOf (.cpyqTl s4 false) ∧ 8 ≤ fullPly.out.length) ∧
    (ready (add 4) (debugging ply) ply ∧ afterStrict (add 4) = false ∧ landsOf (add 4) = false ∧
      (st (add 4) (debugging ply) ply).debug (issuePly (add 4) (debugging ply) ply) ∧ ply.em ≠ 0 ∧
      ((issuePly (add 4) (debugging ply) ply).debugTrap (issueAt (add 4) (debugging ply) ply) (add 4)).isSome) := by
  and_intros <;> decide

/-! ## Witnesses: messages between cores and homes -/

def attr0 : Attr := ⟨0, 0, 0, 0, 0, false, false, false, 0, false, 0, 1, 0⟩
def accOf (k : AccKind) : Acc := ⟨2, 0x4000, 0x4000, 8, k, 0, 5, 0, attr0⟩
def hdr (src dst : Endpoint) : Hdr := ⟨7, 0, 0, src, dst⟩
/-- A ply parked in a memory instruction whose access `k` is outstanding at core 0 under tag 7; `byAck` says that an ACK answers it. -/
def loadWork : Work := ⟨[], [], .plain 8, v4, 1, false, 4, 1⟩
def parked : Ply := { ply with work := some loadWork, strict := 1, out := [⟨4, false, 0, []⟩] }
def transAt (k : AccKind) (byAck : Bool) : Trans := ⟨.ply 0, accOf k, true, 4, 0, 0, true, false, byAck, false, false, true⟩
def coreWith (x : Trans) : CoreMem := { CoreMem.empty with
  trans := [(7, x)], cls := [(0x4000, ⟨.priv, some (.ply 0), true, 0, 0⟩)], l1 := [(0x4000, ⟨0, 0, 3, 1, 1, none, 0⟩)]
  partials := [(0x4008, ⟨1, 5, 0, 0⟩)], ugrains := [(0x4000, 0)] }
def outstanding (k : AccKind) (byAck : Bool) : State := { at' parked with
  classes := [(0x4000, ⟨.shared, false, 0, false, none, 0, 0, 0, 0, 0⟩)], keyed := [(0x4000 / 32, 0)]
  cores := [(0, coreWith (transAt k byAck))] }
def reqF (src : Endpoint) (sect : BitVec 16) : ReqFlit := ⟨hdr src (.slice 0), 0x4000, sect, 1, 0, true, .ply 0, 0⟩
def dataF (src dst : Endpoint) : DataFlit := ⟨hdr src dst, 0x4000, .done, 1, 1, 0, true, .ply 0, 7, false, bytesOf 8 5⟩
def atomF (op : BitVec 4) (src : Endpoint) : AtomFlit := ⟨hdr src (.slice 0), 0x4000, .done, op, 1, 2, 3, 1, 0, true, .ply 0, false⟩
def probeF (dst : Endpoint) : ProbeFlit := ⟨hdr (.slice 0) dst, 0x4000, 1, 3⟩
def aTxn (st : TxStage) (owed : List Nat) : Txn := { Txn.blank base .rd 0x4000 1 with stage := st, owed := owed }
def anAck (src : Endpoint) (arg : AckArg) : AckFlit := ⟨hdr src (.slice 0), arg⟩

theorem homeQuiet (k : AccKind) (b : Bool) : HomeQuiet (outstanding k b) 0x4000 1 :=
  ⟨rfl, by decide, by cases k <;> cases b <;> decide, ⟨_, rfl, rfl, rfl⟩, by cases k <;> rfl, by show 0 + 16 ≤ 65536; decide, by cases k <;> rfl⟩

theorem witness_RequestsServedAtHomes :
    let s := outstanding .load false
    Names s (reqF (.core 0) 1) (accOf .load) ∧ HomeQuiet s (accOf .load).loc (reqF (.core 0) 1).grain ∧
    partyCore (reqF (.core 0) 1).owner / 32 = homeDie (accOf .load).loc ∧
    Names s (reqF (.rdc 5) 0) (accOf .load) ∧ (reqF (.core 0) 1).sect ≠ 0 ∧ (reqF (.core 0) 0).sect = 0 ∧ s.mons = [] ∧
    (reqF (.core 0) 1).owner = .ply 0 ∧ s.plies.get? 0 = some parked ∧ HomeQuiet s (dataF (.core 0) (.slice 0)).loc 1 ∧
    (dataF (.core 0) (.slice 0)).strict = true ∧ transOf s (.ply 0) (hdr (.core 0) (.slice 0)) = some (transAt .load false) ∧
    (transAt .load false).acc.attr.repl = false ∧ HomeQuiet (outstanding .atom false) (atomF 1 (.core 0)).loc 1 ∧
    (atomF 1 (.core 0)).quiet = false :=
  ⟨⟨rfl, ⟨_, rfl, rfl⟩, by decide, rfl⟩, homeQuiet _ _, by decide, ⟨rfl, ⟨_, rfl, rfl⟩, by decide, rfl⟩, by decide, rfl, rfl, rfl, rfl, homeQuiet _ _,
    rfl, rfl, rfl, homeQuiet _ _, rfl⟩

/-- A write-back to a home with the block's tag, without it, and of host memory; a partial; a drain and a probe answer of two owed. -/
theorem witness_ReturnsTakenAtHomes :
    let s := outstanding .load false
    let e : TagEntry := ⟨0, 0, 1, 0, 0, 0, 1, 0, 0⟩
    let d : DirEntry := ⟨0, .u, 0, false, 0, 0, 0, false, 1, 1, 0, 0⟩
    let f : PartialFlit := ⟨hdr (.core 0) (.slice 0), 0x4000, 0, [(0x4008, 1, 5)]⟩
    let owes (st : TxStage) : State := { base with txns := [aTxn st [4, 9]] }
    s.txns = [] ∧ (dataF (.core 0) (.slice 0)).hdr.src = .core 0 ∧ { s with tags := [(0x4000, e)] }.tags.get? (blockOf 0x4000) = some e ∧
    s.tags.get? (blockOf 0x4000) = none ∧ tierOf (blockOf 0x4000) ≠ 2 ∧ s.tags.get? (blockOf (2 ^ 61)) = none ∧ tierOf (blockOf (2 ^ 61)) = 2 ∧
    f.parts = [(0x4008, 1, 5)] ∧ f.core < 128 ∧ { s with dir := [(0x4000, d)] }.dir.get? (grainBase s f.loc 1) = some d ∧ d.ukey = 0 ∧
    s.sliceHold.get? (homeSlice f.loc) = none ∧ (owes .drains).txns = [aTxn .drains [4, 9]] ∧ (aTxn .drains [4, 9]).stage = .drains ∧
    (aTxn .drains [4, 9]).gran = 0x4000 ∧ (anAck (.core 4) (.probeAnswer 3 true 0x4000)).hdr.src = .core 4 ∧
    (anAck (.core 4) (.probeAnswer 3 true 0x4000)).arg = .probeAnswer 3 true (aTxn .probes [4, 9]).grain ∧
    (aTxn .probes [4, 9]).stage = .probes := by
  and_intros <;> decide

theorem witness_AnswersReachCores :
    let s := outstanding .load false
    let known (k : AccKind) (b : Bool) : Prop := (outstanding k b).plies.get? 0 = some parked ∧ parked.core = 0 / 512 ∧
      parked.work = some loadWork ∧ loadWork.todo = [] ∧ loadWork.tag = (transAt k b).wtag ∧ (transAt k b).who = .ply 0 ∧
      ((outstanding k b).core 0).trans = [(7, transAt k b)] ∧ (transAt k b).reply
    known .load false ∧ (transAt .load false).acc.kind = .load ∧ (dataF (.slice 0) (.core 0)).hdr.tag = 7 ∧
    (dataF (.slice 0) (.core 0)).stat = .done ∧ known .atom false ∧ (atomF 1 (.slice 0)).stat = .done ∧ known .store true ∧
    (transAt .store true).byAck ∧ loadWork.use.kept = false ∧ loadWork.await = 1 ∧
    (∃ l ∈ parked.out, l.tag = loadWork.tag ∧ l.arrived = false ∧ loadWork.use ≠ .discard) ∧
    (s.core 0).trans.get? 7 = some (transAt .load false) ∧ (transAt .load false).drained = false ∧ (transAt .load false).byAck = false ∧
    (probeF (.core 0)).hdr.dst = .core 0 ∧ (s.core 0).l1 = [(0x4000, ⟨0, 0, 3, 1, 1, none, 0⟩)] ∧
    (1 : BitVec 16) &&& sectorsOf 0x4000 (grainBytes 0x4000 1) ≠ 0 ∧
    (0x4008, ⟨1, 5, 0, 0⟩) ∈ (s.core 0).partials ∧ (0x4000 ≤ 0x4008 ∧ 0x4008 < 0x4000 + grainBytes 0x4000 1) ∧
    (s.core 0).cls = [(0x4000, ⟨.priv, some (.ply 0), true, 0, 0⟩)] ∧
    (∀ x ∈ (s.core 0).trans, x.2.strict = true ∨ x.2.reply = false) := by
  and_intros <;> decide

/-! ## Witnesses: translation, donation, trees, launches -/

def missing : AtsMiss := ⟨0, 5, 0, false, [0, 127], true, [], false, false⟩
def overtaken : AtsMiss := { missing with late := [(4, 1)] }
def completion (r w : Bool) : AtsCompletion := ⟨0, 5, false, 12, 0x5000, r, w, false⟩
def toldRec (st : FState) : FRec := { rec5 3 with st := st }
def onPage5 (c : Cond) : Ply := { ply with park := .wait c }
/-- A module with misses, records and invalidations under way, and a ply that waits on page 5. -/
def service (m : List AtsMiss) (f : List FRec) (i : List (Nat × Nat × Nat)) : State :=
  { at' (onPage5 (.page 5 true false false false)) with
    misses := m, faults := f, invals := i, fbcfg := 0x10000, prgAlloc := 1, tick := 1000, ats := [page true] }

theorem witness_TranslationsComplete :
    let ats (p : Nat) : AtsFlit := ⟨hdr (.core 0) (.service 0), 0, 0, p, false⟩
    let rsp : AtsReply := ⟨hdr (.service 0) (.core 0), 0, 5⟩
    let s := service [] [] []
    let m := service [missing] [] []
    let r (st : FState) : State := service [] [toldRec st] []
    let i := service [] [] [(0, 5, 2)]
    ((ats 500).hdr.src = .core 0 ∧ tlbFind m.ats 0 500 = none ∧ (∀ x ∈ m.misses, (x.pasid ≠ 0 ∨ x.vpage ≠ 500) ∧ x.sent = true) ∧
      m.misses.length < 4096 ∧ (m.misses.filter (·.onPort m (m.livePort (m.ctx 0).port))).length < 1024) ∧
    (tlbFind { m with ats := [] }.ats 0 5 = none ∧ m.misses = [missing] ∧ missing.pasid = 0 ∧ missing.vpage = (ats 5).vpage ∧
      missing.retrans = false ∧ missing.full = false) ∧
    (tlbFind s.ats (ats 5).pasid (ats 5).vpage = some (page true)) ∧
    (missing.pasid = (completion true true).pasid ∧ missing.vpage = (completion true true).vpage ∧ missing.sent ∧ missing.late = [] ∧
      (completion true true).r ∧ (completion true true).w) ∧
    ((service [overtaken] [] []).misses = [overtaken] ∧ ∃ y ∈ overtaken.late, y.1 ≤ overtaken.vpage ∧ overtaken.vpage < y.1 + 2 ^ y.2) ∧
    (rsp.hdr.dst = .core 0 ∧ tlbFind s.ats rsp.pasid rsp.vpage = some (page true) ∧ s.dieMisses = [] ∧
      { s with dieMisses := [(0, [⟨0, 5, 0, false, [0, 9], true⟩])] }.dieMisses.get? 0 = some [⟨0, 5, 0, false, [0, 9], true⟩]) ∧
    (s.plies.get? 0 = some (onPage5 (.page 5 true false false false)) ∧ (s.ctx 0).pasid = 0 ∧ ply.core = 0) ∧
    ((r .gather).faults = [toldRec .gather] ∧ (r .gather).fbcfg.getLsbD 16 ∧ 1 ≤ s.prgAlloc ∧
      (s.fbcfg.toNat % 256 + 1) * 100 ≤ s.tick - (toldRec .gather).tfirst) ∧
    ((r .sent).faults = [toldRec .sent] ∧ (toldRec .sent).st = .sent ∧ (r .sent).misses = []) ∧
    ((r .wake).faults = [toldRec .wake] ∧ (toldRec .wake).st = .wake ∧ (toldRec .wake).wait.getLsbD 1) ∧
    ((at' (onPage5 (.record 5))).plies.get? 0 = some (onPage5 (.record 5)) ∧ (onPage5 (.record 5)).park = .wait (.record 5)) ∧
    (i.invals = [(0, 5, 2)] ∧ invalBusy i 0 5 2 = false) := by
  and_intros <;> decide

def tcbOf (n : Nat) : Tcb := ⟨0, 0, 3, false, false, 8, n, none⟩
def donor : CoreHw := { CoreHw.zero with queues := [[], [], [], [tcbOf 1, tcbOf 2, tcbOf 3]], steal := ⟨0, true, some 5⟩ }
/-- A tree over the two cores of router 0, rooted there, with an operation and a timeout of 3 ticks; its round has begun. -/
def rooted (inputs : List Nat) : Tree :=
  ⟨0, false, [fieldAt 32 3, 0, 3, 0, 0, 0, 0, 0] ++ (List.replicate 64 0).set 0
    (fieldAt 0 1 ||| fieldAt 7 7 ||| fieldAt 28 inputs.length ||| fieldAt 10 (inputs.getD 0 0) ||| fieldAt 13 (inputs.getD 1 0)), some (9, 2)⟩
def atRouter (t : Tree) (n : TreeNode) (k : Option Nat) : State := { world ply sk { CoreHw.zero with trees := [(3, (9, false, k))] } with
  trees := [(3, t)], nodes := [(3 * 64, n)], tick := 5 }
def nup : TreeFlit := ⟨hdr (.core 1) (.router 0), 3, 9, 1, false, List.replicate 8 2, 2⟩

theorem witness_DonationAndTreesComplete :
    let s : State := { at' ply with hw := [(0, donor)], tick := 1 }
    let steal : StealFlit := ⟨hdr (.core 1) (.core 0)⟩
    let tcb (l : List Tcb) : TcbFlit := ⟨hdr (.core 1) (.core 0), l⟩
    let down : TreeFlit := { nup with hdr := hdr (.router 0) (.core 0) }
    let flush : TreeProbe := ⟨hdr (.router 1) (.router 0), 3, 9⟩
    let half : TreeNode := ⟨9, [(0, 9, List.replicate 8 1, 1)], none, false⟩
    let got (c : List Nat) (n : TreeNode) (k : Option Nat) : State := atRouter (rooted c) n k
    (steal.hdr.dst = .core 0 ∧ (s.hwOf 0).queues = [[], [], [], [tcbOf 1, tcbOf 2, tcbOf 3]] ∧
      ∀ x ∈ [tcbOf 1, tcbOf 2, tcbOf 3], donatable x) ∧
    ((tcb []).hdr.dst = .core 0 ∧ (tcb []).tcbs = [] ∧ (tcb [tcbOf 4]).tcbs = [tcbOf 4]) ∧
    (s.hw.get? 0 = some donor ∧ donor.steal.backoff = some 5 ∧ 5 ≤ s.mesh) ∧
    (nup.hdr.dst = .router 0 ∧ (got [0, 1] half none).trees.get? nup.slot = some (rooted [0, 1]) ∧ treeIn (rooted [0, 1]).words 0 ∧
      treeParent (rooted [0, 1]).words 0 = 7 ∧ treeInputs (rooted [0, 1]).words 0 = [0, 1] ∧ nup.input = 1 ∧
      ((got [0, 1] half none).node nup.slot 0) = half ∧ half.round = nup.round) ∧
    (down.hdr.dst = .core 0 ∧ (got [0, 1] half none).coreTree 0 down.slot = (9, false, none) ∧
      (got [0, 1] half (some 0)).coreTree 0 down.slot = (9, false, some 0) ∧ (got [0, 1] half (some 0)).plies.get? 0 = some ply) ∧
    (flush.hdr.dst = .router 0 ∧ (got [0] ⟨9, [], none, false⟩ none).trees.get? flush.slot = some (rooted [0]) ∧ treeIn (rooted [0]).words 0 ∧
      treeParent (rooted [0]).words 0 = 7 ∧ treeInputs (rooted [0]).words 0 = [0] ∧
      ((got [0] ⟨9, [], none, false⟩ none).node flush.slot 0) = ⟨9, [], none, false⟩) ∧
    ((rooted [0]).started = some (9, 2) ∧ treeTmo (rooted [0]).words = 3 ∧ 2 + 3 ≤ (got [0] half none).tick ∧
      (rooted [0]).det = false) := by
  and_intros <;> decide

/-- A valid record of one skein of one ply of 8 threads without tiles or dependences, and other records that differ from it. -/
def recordOf1 (w2 w3 : DWord) : List DWord := [0x1000, 0, w2, w3, 0, 0, 0, 0, 0, 0, 0, 0, 0, 0, 0, 0]
def oneSkein : List DWord := recordOf1 (fieldAt 32 1 ||| fieldAt 26 1 ||| fieldAt 17 6) 0
def gangOf2 : List DWord := recordOf1 (fieldAt 32 2 ||| fieldAt 26 1 ||| fieldAt 17 6 ||| fieldAt 9 1) 0
def gangOf3 : List DWord := recordOf1 (fieldAt 32 3 ||| fieldAt 26 1 ||| fieldAt 17 6 ||| fieldAt 9 1) 0
/-- The same record with a variant table at 0x4000, where memory holds zeros, or the table of one entry that fits this module. -/
def noVariants : List DWord := oneSkein.set 13 0x4000
def variant : List Byte := bytesOf 8 base.defectSig.toNat ++ List.replicate 56 0
def launch (r : List DWord) (st : LaunchSt) : Launch := { programLaunch with lrec := r, st := st, next := 0, seq := 1 }
/-- A launch queue whose header has TAIL 1, the ring at 0x3000 and LOG2N 4, with the record in the ring. -/
def queued (r : List DWord) : State := { atsState ply sk 0 [] [page true] with
  ctxs := [(0, { Ctx.zero with desc := [fieldAt 63 1 ||| fieldAt 20 1, 0, 0, 0, 0, 0x2000], xvec := 0x8000 })], launches := []
  mem := (Memory.writeBytes [] 0x102000 (bytesOf 8 1 ++ List.replicate 16 0 ++ bytesOf 8 0x3004)).writeBytes 0x103000
    (r.flatMap fun w => bytesOf 8 w.toNat) }
def withVariant : State := { queued noVariants with
  mem := (queued noVariants).mem.writeBytes 0x104000 ([1] ++ List.replicate 31 0 ++ shake256 32 variant ++ variant) }
theorem witness_VariantChosen : selectVariant withVariant 0 0 noVariants = .chosen ⟨some [], [], some 0⟩ := by decide
def dealing (l : Launch) : State := { at' ply with skeins := [], plies := [], launches := [(0, l)] }

theorem witness_LaunchesAccepted :
    let hd : QueueHdr := ⟨1, 0x3000, 4, 0, false⟩
    let acc (r : List DWord) (f : Option Nat) : Prop := accepts (queued r) 0 1 = true ∧ freeLid (queued r) 0 = some 0 ∧
      readQueue (queued r) 0 0 1 = (some hd, queued r) ∧ ((queued r).lq 0 1).1 < hd.tail ∧
      svcNeed (queued r) 0 0 false [(0x3000, 128)] = none ∧ svcNeed (queued r) 0 0 true [(queueBase (queued r) 0 1 + 8, 8)] = none ∧
      svcWords (queued r) 0 0 0x3000 16 = r ∧ recordFault (queued r) 0 1 1 r = f
    acc oneSkein none ∧ acc noVariants none ∧ selectVariant (queued noVariants) 0 0 noVariants = .refused 0x32 ∧ recWord oneSkein 13 = 0 ∧ acc (recordOf1 0 0) (some 0x21) ∧
    recNskein (recordOf1 0 0) = 0 ∧ (∀ r ∈ [oneSkein, gangOf3], badFields r = false ∧ neverFits r = false ∧ recDet r = false) ∧
    { Ctx.zero with detq := 256 }.detq.toNat % 2 ^ 17 ≠ 0 ∧ (∀ k < 4, (recWord gangOf3 (8 + k)).getLsbD 63 = false) ∧ recGang gangOf3 ≠ 0 ∧
    recNskein gangOf3 % recGang gangOf3 ≠ 0 := by
  and_intros <;> decide

def tileGang : List DWord := gangOf2.set 3 2048
/-- A gang of two that may stand on the cores of a mask, with a window of tile memory for each member. -/
def waitingGang (at' : Option Nat) (held : List Nat) (m : BitVec 128) : Launch :=
  { launch tileGang .dealing with desc := [fieldAt 63 1 ||| fieldAt 49 3], gangAt := at', held := held, gmask := some m }
/-- The same with a skein of another launch on the cores named. -/
def occupied (l : Launch) (cores : List Nat) (save : DWord) : State := { dealing l with
  skeins := cores.map fun c => (16 * c, { sk with ctx := 1, wsize := 2097152, save := save })
  ctxs := [(0, { Ctx.zero with desc := [fieldAt 63 1 ||| fieldAt 49 3] }), (1, { Ctx.zero with desc := [fieldAt 63 1] })], tick := 200000 }
def starting : State := { dealing (launch oneSkein .dealt) with hw := [(0, { CoreHw.zero with queues := [[], [], [⟨0, 0, 2, false, false, 1, 0, none⟩], []] })] }

theorem witness_LaunchesDealt :
    let l := launch oneSkein .dealing
    let s := dealing l
    (s.launches.get? (0 * 64 + 0) = some l ∧ l.st = .dealing ∧ depsMet s l = true ∧ recDet l.lrec = false ∧ recGang l.lrec = 0 ∧
      l.next < recNskein l.lrec ∧ l.bound = none ∧ s.cursor < 128 ∧ s.alive (s.cursor % 4 * 32 + s.cursor / 4) = true ∧
      queueLen s (s.cursor % 4 * 32 + s.cursor / 4) (s.launchClass l.ctx l.lid) < 64) := by
  and_intros <;> decide

theorem witness_GangsWait :
    (gangs (dealing (waitingGang none [] 3)) (waitingGang none [] 3) = true ∧
      (∀ c < 2, absentGrains (dealing (waitingGang none [] 3)) c 0 = []) ∧ (waitingGang none [] 3).ctx = 0 ∧ (waitingGang none [] 3).lid = 0 ∧
      (gangPlace (dealing (waitingGang none [] 3)) (waitingGang none [] 3)).isSome) ∧
    (gangPlace (dealing (waitingGang none [] 1)) (waitingGang none [] 1) = none ∧ (waitingGang none [] 1).gangAt = none) ∧
    (reservationDue (occupied (waitingGang (some 0) [] 3) [0, 33] 1) (waitingGang (some 0) [] 3) = true ∧
      (gangCores (occupied (waitingGang (some 0) [] 3) [0, 33] 1) (waitingGang (some 0) [] 3)).isSome) ∧
    (starveDue (occupied (waitingGang (some 0) [0, 1] 3) [0] 0) (waitingGang (some 0) [0, 1] 3) = true ∧
      ∃ x ∈ (occupied (waitingGang (some 0) [0, 1] 3) [0] 0).skeins, x.1 / 16 ∈ (waitingGang (some 0) [0, 1] 3).held ∧ x.2.save = 0) := by
  and_intros <;> decide

theorem witness_LaunchesRun :
    let l : Launch := { launch oneSkein .dealt with ended := 1 }
    let s : State := { dealing l with cores := [] }
    let x : Tcb := ⟨0, 0, 2, false, false, 1, 0, none⟩
    let done (st : LaunchSt) : State := { queued oneSkein with launches := [(0, { launch oneSkein st with queue := 1 })] }
    let e (c : Cls) : State := { s with classes := [(0x5000, { ClassEntry.zero with cls := c })] }
    (nextStart starting 0 = some (2, x) ∧ x.saved = none ∧ absentGrains starting 0 (starting.ctx x.ctx).tenant = [] ∧ freeSlot (skeinsOn starting 0) 0 = some 0 ∧
      freeWindow (skeinsOn starting 0) (recTilemem (tcbRec starting x)) = some 0 ∧ (starting.hwOf 0).tile.wf = true) ∧
    (s.launches.get? (0 * 64 + 0) = some l ∧ l.st = .dealt ∧ l.ended = recNskein l.lrec ∧ l.draining = 0 ∧
      { l with draining := 1 }.draining = 1 ∧ { l with draining := 2 }.draining = 2 ∧ grainsLeft s l = [] ∧ s.classes = [] ∧
      s.cores = [] ∧ s.txns = [] ∧ classesLeft s 0 0 = false) ∧
    ((e .shared).classes = [(0x5000, { ClassEntry.zero with cls := .shared })] ∧ ClassEntry.zero.ctx = 0 ∧ ClassEntry.zero.lid = 0 ∧
      ClassEntry.zero.wd = false) ∧
    (∀ st ∈ [LaunchSt.finished, .refused 0x21], nextToComplete (done st) 0 1 = some (0, { launch oneSkein st with queue := 1 }) ∧
      readQueue (done st) 0 0 1 = (some ⟨1, 0x3000, 4, 0, false⟩, done st) ∧
      svcNeed (done st) 0 0 true [(0, 32), (queueBase (done st) 0 1 + 16, 8)] = none) := by
  and_intros <;> decide

/-! ## Witnesses: parked plies, the host and the peers -/

def parkedAt (c : Park) (t : Nat) : State := { at' { ply with park := c, out := [⟨0, true, 0, []⟩] } with cycle := t, tick := 900 }
def divertCtx : Ctx := { uiCtx true false with uivec := 0x9000 }
def retiring : Ply := { ply with park := .retire }
def onePly : Skein := { sk with lrec := oneSkein, failed := true }
def idling : Ctx := { c0 with wdog := 10, idleTicks := 10000 }
/-- A deterministic skein whose ply has stopped at the quantum boundary. -/
def detAt (stopped inSerial : Bool) (serial : List Nat) : State := { world { ply with stopped := stopped } det CoreHw.zero with
  ctxs := [(0, { c0 with inSerial := inSerial, serial := serial })], cycle := 1 }

theorem witness_PliesProceed :
    let p (c : Park) : Ply := { ply with park := c, out := [⟨0, true, 0, []⟩] }
    (∀ c ∈ [Park.switch, .wait .landRoom], (parkedAt c 0).plies.get? 0 = some (p c) ∧ (p c).landable = true ∧ (p c).memlost = none ∧
      (p c).mixsize = none ∧ (p c).out ≠ []) ∧
    (awake (parkedAt .none 512) 0 (p .none) = true ∧ (p .none).aged = false ∧ max (p .none).wakeAt (p .none).nextAt + 512 ≤ (parkedAt .none 512).cycle) ∧
    (900 ≤ (parkedAt (.wait (.monitor (some 900))) 0).tick ∧ 7 ≤ (parkedAt (.wait (.poll 7 false)) 7).cycle) ∧
    (let q : Ply := { p .switch with memlost := some 0x1008 }
     q.landable = true ∧ q.park = .switch ∧ q.memlost = some 0x1008 ∧ 900 ≤ (parkedAt (.wait (.ui (some 900))) 0).tick) ∧
    (divertVector (uiState (p .switch) divertCtx []) 0 (p .switch) = some 63 ∧ ((uiState (p .switch) divertCtx []).ctx 0).vecs.length = 64) ∧
    ((world retiring sk CoreHw.zero).plies.get? 0 = some retiring ∧ (world retiring sk CoreHw.zero).skeins.get? retiring.skeinKey = some sk ∧
      retiring.landable = true ∧ retiring.overlapped = [] ∧ retiring.tileAt ≤ base.cycle ∧ retiring.spinAt ≤ base.cycle ∧ retiring.frozen = false ∧ retiring.ext = false ∧
      ((world retiring sk CoreHw.zero).spindle retiring.core retiring.part).opened = none ∧ 1 < recNply sk.lrec ∧ 1 ≠ retiring.plyid ∧
      sk.retired.getLsbD 1 = false) ∧
    (recNply onePly.lrec = 1 ∧ retiring.plyid = 0 ∧ onePly.eng.copies = [] ∧
      (world retiring onePly CoreHw.zero).launches.get? (onePly.ctx * 64 + onePly.lid) = some programLaunch ∧
      (∀ x ∈ ((world retiring onePly CoreHw.zero).hwOf (retiring.skeinKey / 16)).spindles, x.opened = none ∧ x.drain = none)) ∧
    (idling.wdog.toNat % 2 ^ 32 ≠ 0 ∧ idling.wdog.toNat % 2 ^ 32 * 1000 ≤ idling.idleTicks) := by
  and_intros <;> decide

theorem witness_QuantaProceed :
    (quantumDue (detAt true false [0]) 0 = true ∧ (detAt true false [0]).plies.get? 0 = some { ply with stopped := true }) ∧
    (quantumDue (detAt true true [0]) 0 = true ∧ ((detAt true true [0]).ctx 0).serial = [0] ∧ ((detAt true true [0]).ctx 0).inSerial = true) ∧
    (quantumDue (detAt true true []) 0 = true ∧ ((detAt true true []).ctx 0).serial = [] ∧ detPlies (detAt true true []) 0 ≠ []) ∧
    (let s : State := at' { ply with park := .wait (.queueToken 7) }
     quiescent s 0 sk = true ∧ s.skeins.get? 0 = some sk) ∧ (saved.save ≠ 0 ∧ sk.save = 0 ∧ base.tick % 100 = 0) ∧
    ((0x3F : DWord).toNat % 2 ^ 32 / 2 ^ 6 = 0 ∧ (0x40 : DWord).toNat % 2 ^ 32 / 2 ^ 6 ≠ 0) := by
  and_intros <;> decide

/-- A module whose decoder 0 is at 0 and whose region 0 of near memory the host may read and write under key 5. -/
def hosted (m : List (Nat × Nat)) : State := { base with
  dec0 := some 0, hostKeys := m, txns := [], dir := [], classes := [], tags := [], sliceHold := [] }
def hostLine : DirEntry := { DirEntry.zero with ha := true, gcode := 1 }
def snooped : State := { hosted [] with dir := [(2 * 2 ^ 60, hostLine)] }
def waitHost (k : ReqKind) (loc : Nat) : Txn := { Txn.blank (hosted []) k loc 1 with
  stage := .host, src := .core 3, aux := 2, tag := 9, len := 16, size := 16 }

theorem witness_HostRequestsServed :
    ((hosted []).dec0 = some 0 ∧ 2 ^ 38 - 1 < 0 + 2 ^ 38 ∧ { hosted [] with dec0 := none, dec1 := some 0 : State }.dec1 = some 0 ∧
      2 ≤ tierOf ((hosted []).hpaLoc (2 ^ 38))) ∧
    (tierOf ((hosted []).hpaLoc 0x1070) ≤ 1 ∧ (hosted []).hpaLoc 0x1070 % 128 + 16 ≤ 128 ∧ (hosted [(0, 0x85)]).hostKey ((hosted []).hpaLoc 0x1070) = some 5 ∧
      (hosted [(0, 5)]).hostKey ((hosted []).hpaLoc 0x1070) = none) ∧
    (tierOf (2 * 2 ^ 60 + 0x41) = 2 ∧ snooped.txns = [] ∧ snooped.dir = [((2 * 2 ^ 60 + 0x41) / 64 * 64 / 128 * 128, hostLine)] ∧ hostLine.st = .i ∧
      hostLine.uoh = 0 ∧ hostLine.hv = false ∧ hostLine.ha ∧ snooped.classes.get? (granuleOf (2 * 2 ^ 60 + 0x40)) = none ∧
      snooped.tags.get? (blockOf (2 * 2 ^ 60 + 0x40)) = none ∧ snooped.sliceHold.get? (homeSlice (2 * 2 ^ 60 + 0x40)) = none) ∧
    (tierOf 0x1040 ≤ 1 ∧ asksHost { hosted [] with txns := [{ waitHost .linkRd 0x1000 with lines := [0x1040] }] } 0x1040 = true) ∧
    (∀ l ∈ [[0x1000], [0x1000, 0x1040]], let x := { waitHost .linkRd 0x1010 with lines := l }
     x.kind = .linkRd ∧ x.stage = .host ∧ x.quiet = false ∧ x.mixchk = false ∧ x.lines = l ∧ 0x1000 % 64 = 0 ∧ tierOf 0x1000 ≤ 1 ∧
       granuleOf x.loc ∉ (hosted []).withdrawn ∧ { hosted [] with dir := [(x.grain, hostLine)] }.dir = [(x.grain, hostLine)] ∧ hostLine.st = .i ∧
       hostLine.uoh = 0) ∧
    (∀ k ∈ [ReqKind.rd, .own], let x := { waitHost k (2 * 2 ^ 60 + 0x1010) with lines := [2 * 2 ^ 60 + 0x1000] }
     (x.kind = .rd ∨ x.kind = .own) ∧ x.stage = .host ∧ x.mixchk = false ∧ x.repl = 0 ∧ x.lines = [2 * 2 ^ 60 + 0x1000] ∧
       (2 * 2 ^ 60 + 0x1000) % 64 = 0 ∧ tierOf (2 * 2 ^ 60 + 0x1000) = 2 ∧ tierOf x.loc = 2 ∧ granuleOf x.loc ∉ (hosted []).withdrawn ∧
       (hosted []).dir = [] ∧ (hosted []).tags.get? (blockOf (2 * 2 ^ 60 + 0x1000)) = none ∧ (hosted []).sliceHold.get? (homeSlice x.loc) = none ∧
       x.src = .core 3) := by
  and_intros <;> decide

theorem witness_HostMeetsNothing : OutsideQuiet (hosted [(0, 0x85)]) ((hosted [(0, 0x85)]).hpaLoc 0x1070) ∧ (hosted [(0, 0x85)]).MemOk :=
  ⟨⟨rfl, rfl, rfl, rfl, by decide, rfl⟩, rfl⟩

def peerF (refused : Bool) (off : Nat) : PeerFrame := ⟨3, 7, 4, off, 16, List.replicate 16 5, refused⟩
/-- Link end 3 with window 4 exported: 4,096 bytes of near memory. -/
def linkWith (up : Bool) (fails : Nat) (pending : List (Nat × Nat × Nat)) (ui : List Nat) : PeerLink := ⟨up, [], [(4, 0x1000, 4096)], fails, 0, pending, ui⟩
def linked (l : PeerLink) (k : Skein) : State := { hosted [] with links := [(3, l)], skeins := [(0, k)] }
def uiF : UiFrame := ⟨3, 7, 0, 0, 63, 5, 2⟩
def oneCopy (ph : CopyPhase) : Skein := { sk with eng := { sk.eng with issued := 5, timeline := 4, copies := [{ aCopy 5 with phase := ph, waiting := true }] } }

theorem witness_PeerFramesServed :
    (21 < 22 ∧ (hosted []).links.get? 21 = none) ∧
    ((hosted []).links.get? (peerF false 0).link = none ∧ uiF.link = (peerF false 0).link ∧
      (linked (linkWith false 0 [] []) sk).links.get? 3 = some (linkWith false 0 [] []) ∧ (linkWith false 0 [] []).up = false) ∧
    ((linked (linkWith true 0 [] []) sk).links.get? (peerF false 0).link = some (linkWith true 0 [] []) ∧ (linkWith true 0 [] []).up ∧
      .peerLink (peerF false 0).link ∉ (linked (linkWith true 0 [] []) sk).fenced ∧ (linkWith true 0 [] []).exports = [((peerF false 0).window, 0x1000, 4096)]) ∧
    (4096 < (peerF false 4081).offset + (peerF false 4081).len ∧ 4096 < (peerF false 4081).offset + (peerF false 4081).bytes.length) ∧
    ((peerF false 4080).offset + (peerF false 4080).len ≤ 4096 ∧ (0x1000 + (peerF false 4080).offset) % 128 + (peerF false 4080).len ≤ 128 ∧
      (peerF false 4080).bytes.length = 16 ∧ (linked (linkWith true 0 [] []) sk).classes = [] ∧ tierOf 0x1FF0 ≤ 1 ∧
      (linked (linkWith true 0 [] []) sk).mem.wf = true) ∧
    (∀ ph ∈ [CopyPhase.read, .write], (linkWith true 0 [(7, 0, 5)] []).pending = [((peerF false 0).tag, 0, 5)] ∧
      (linked (linkWith true 0 [(7, 0, 5)] []) (oneCopy ph)).skeins.get? 0 = some (oneCopy ph) ∧
      (oneCopy ph).eng.copies = [{ aCopy 5 with phase := ph, waiting := true }]) ∧
    ((linkWith true 14 [] []).fails + 1 < 16 ∧ 16 ≤ (linkWith true 15 [] []).fails + 1) ∧
    ((linkWith true 0 [] [7]).uiOut = [uiF.tag] ∧ (linked (linkWith true 0 [] [7]) sk).links.get? uiF.link = some (linkWith true 0 [] [7]) ∧
      (let p : Ply := { ply with out := [⟨7, false, 0, [⟨.s 4, 1, [0]⟩]⟩] }
       p.out = [⟨uiF.tag, false, 0, [⟨.s 4, 1, [0]⟩]⟩] ∧ (at' p).plies.get? 0 = some p)) ∧
    { hosted [] with fibres := [8] : State }.fibres[0]? = some 8 := by
  and_intros <;> decide

theorem witness_PeerMeetsNothing : OutsideQuiet (linked (linkWith true 0 [] []) sk) 0x1FF0 := ⟨rfl, rfl, rfl, rfl, by decide, rfl⟩

/-! ## Witnesses: fencing, engines, the module -/

def heldWrite : Txn := { Txn.blank (hosted []) .wr 0x1010 1 with stage := .directory, strict := true, bytes := bytesOf 8 5, size := 8 }
def leased (lh : Nat) : DirEntry := { DirEntry.zero with hv := true, lh := lh }
def holding (lh : Nat) : State := { hosted [] with txns := [heldWrite], dir := [(heldWrite.grain, leased lh)], tick := 100 }
def copied : State := { base with
  mem := [(0x5, 1)], ats := [⟨0, 0, 0, 0, true, true, false, 16384, []⟩]
  ctxs := [(0, { c0 with rat := [⟨1, 0, BitVec.ofNat 64 (16 + 15 * 256), 0⟩] })] }
def beating (a : Agent) (t : Nat) : State := { hosted [] with beats := [(a, 4, 0)], tick := t, hw := [], cores := [] }

theorem witness_FencingAndRepairComplete :
    let agents : List Agent := [.core 0, .slice 5, .rdc 5, .serviceCore 3, .optical 3, .hostPort 1, .peerLink 2]
    (heldWrite.kind = .wr ∧ heldWrite.stage = .directory ∧ heldWrite.strict ∧ heldWrite.repl = 0 ∧ heldWrite.mixchk = false ∧ tierOf heldWrite.loc ≤ 1 ∧
      granuleOf heldWrite.loc ∉ (holding 0).withdrawn ∧ (holding 0).sliceHold.get? (homeSlice heldWrite.loc) = none) ∧
    (∀ x ∈ [(100, false), (99, true)], (holding x.1).dir.get? heldWrite.grain = some (leased x.1) ∧ (leased x.1).st = .i ∧ (leased x.1).uoh = 0 ∧
      (leased x.1).ha = false ∧ (leased x.1).hv ∧ horizonPassed (holding x.1).tick (leased x.1) = x.2) ∧
    { leased 5 with st := .s }.st ≠ .i ∧
    (granuleOf 0x5010 ∉ base.withdrawn ∧ base.withdrawn.length < 1024 ∧ base.txns = [] ∧
      granuleOf 0x5010 ∈ { base with withdrawn := [0x5000] : State }.withdrawn) ∧
    (let s : State := { hosted [] with dec1 := some (2 ^ 42), cores := [] }
     regionLoc s (2 ^ 21) = some (2 ^ 21) ∧ regionLoc s (2 ^ 42) = some (2 ^ 60) ∧ tierOf (2 ^ 21) ≠ tierOf (2 ^ 60) ∧ underWay s (2 ^ 21) = false ∧ underWay s (2 ^ 60) = false ∧
       s.dir = [] ∧ s.replicated = [] ∧ underWay { s with invals := [(0, 5, 0)] } (2 ^ 21) = true) ∧
    ((0x5, 1) ∈ copied.mem ∧ tierOf 0x5 = 0 ∧ replicasAt copied (replicaLoc 0 (granuleOf 0x5)) = some 15 ∧ (15 : Nat).testBit 3 ∧
      granuleCells copied (replicaLoc 3 0) ≠ granuleCells copied 0) ∧
    (∀ a ∈ agents, a ∉ (beating a 1999).fenced ∧ (beating a 1999).beats = [(a, 4, 0)] ∧ (beating a 1999).tick < 0 + 2000 ∧ a ∉ (beating a 1999).silent ∧
      0 + 2000 ≤ (beating a 2000).tick) ∧
    ((beating (.core 0) 2000).skeins.map (·.1) = [0] ∧ 0 / 16 = 0 ∧ (beating (.core 0) 2000).launches = [(sk.ctx * 64 + sk.lid, programLaunch)] ∧
      programLaunch.bound = none ∧ (beating (.core 0) 2000).hw = [] ∧
      (beating (.slice 5) 2000).classes = [] ∧ (beating (.slice 5) 2000).mons = []) ∧
    .router 5 ∉ { beating (.router 5) 2000 with ctxs := [] : State }.fenced := by
  and_intros <;> decide

/-- Core 0 with one skein and its one copy. -/
def copying (h : CoreHw) (c : Copy) : State := world ply { sk with eng := { sk.eng with issued := 5, timeline := 4, copies := [c] } } h
def turn3 : CoreHw := { hwWith [tileE .filling] with cls := 3, deficits := [0, 0, 0, 0] }
def outOf (i : Instr) : Copy := { aCopy 5 with instr := i, layout := (lay 0).set 6 1 |>.set 3 (fieldAt 32 1), coord := [0, 1, 0, 0] }
def finDone (i : Instr) (fin : Bool) (stop : Option (Nat × DWord)) : Copy := { aCopy 5 with instr := i, coord := [0, 0, 0, if fin then fieldAt 6 1 else 0], phase := .done, stop := stop }

theorem witness_EnginesProceed :
    ((copying CoreHw.zero { aCopy 5 with waiting := true }).hwOf 0).serving = none ∧
    eligible (copying CoreHw.zero { aCopy 5 with waiting := true }) 0 = [] ∧
    ((copying { CoreHw.zero with serving := some (0, 5) } { aCopy 5 with waiting := true }).hwOf 0).serving = some (0, 5) ∧
    (findCopy (copying CoreHw.zero { aCopy 5 with waiting := true }) 0 5).isSome ∧
    (∀ i ∈ [Instr.cpyin .zero 6 8 20 false false, .cpyout .zero 6 8 20 false false],
      eligible (copying turn3 (outOf i)) 0 = [(0, outOf i)] ∧ (outOf i).st = .queued ∧ (outOf i).cls < 4 ∧ isGG (outOf i).instr = false ∧
      layRows (outOf i).layout = 1 ∧ layCols (outOf i).layout = 1 ∧ (outOf i).phase = .read ∧ layEsz (outOf i).layout ≤ 16 ∧
      (outOf i).outside = true ∧ recWord (outOf i).coord 2 = 0 ∧ (outOf i).stop = none ∧
      (let s : State := { copying turn3 (outOf i) with cycle := 1 }
       s.cycle % 2 = 1 ∧ (s.hwOf 0).clearTo < s.cycle ∧ (s.hwOf 0).portA ≠ s.cycle ∧ (s.hwOf 0).cls = 3 ∧ (s.hwOf 0).deficits = [0, 0, 0, 0]) ∧
      { copying turn3 (outOf i) with cycle := 2 }.cycle % 2 = 0) ∧ turn3.tile.wf = true ∧
    ((aCopy 5).outside = false ∧ isFill (aCopy 5).instr = true ∧ eligible (copying turn3 (aCopy 5)) 0 = [(0, aCopy 5)]) := by
  and_intros <;> decide

def aPiece : Copy := { aCopy 5 with coord := [0x1000, 0, 0, 0] }
/-- The engine of core 0 asks a home for the first piece of a copy, whose page it has. -/
theorem witness_CopyAsks :
    let k : Skein := { sk with eng := { sk.eng with issued := 5, timeline := 4, copies := [aPiece] } }
    let turn := (copying turn3 (aPiece)).modHw 0 fun h => { h with
      cls := 4, deficits := [0, 0, 0, 0].set 0 (2048 * 2 ^ 0 - layEsz (aPiece).layout) }
    aPiece.outside = false ∧ isFill aPiece.instr = true ∧
    (match pieceAccess (madeProgress turn k.ctx) 0 k { aPiece with left := layEsz (aPiece).layout, st := .active } .read (aPiece).memAddr
        (layEsz (aPiece).layout) .load 0 with
      | .later s2 c2 => decide (c2.n = 5 ∧ s2.skeins.get? 0 = some k)
      | _ => false) = true := by and_intros <;> decide

theorem witness_CopiesEnd : ∀ x ∈ [(Instr.cpyin .zero 6 8 20 false false, TileSt.filling), (.cpyout .zero 6 8 20 false false, .draining)],
    ∀ y ∈ [(false, (none : Option (Nat × DWord))), (true, none), (true, some (2, 0x5008))],
      let c := finDone x.1 y.1 y.2
      let k : Skein := { sk with eng := { sk.eng with issued := 5, timeline := 4, copies := [c] } }
      c.phase = .done ∧ isGG c.instr = false ∧ c.n = k.eng.timeline + 1 ∧ k.eng.ahead = [] ∧ k.eng.fins = [] ∧ k.late = [] ∧ 1 < recNply k.lrec ∧
      k.retired.getLsbD 1 = false ∧ (∀ p ∈ (copying (hwWith [tileE x.2]) c).plies, p.2.defer = []) ∧
      ((copying (hwWith [tileE x.2]) c).hwOf 0).tiles = [tileE x.2] ∧ c.tile (copying (hwWith [tileE x.2]) c) 0 = some (tileE x.2) ∧
      c.fin = y.1 ∧ k.eng.issued < c.n + 64 ∧ { k.eng with issued := 69 }.issued ≥ c.n + 64 := by
  decide

/-- Partition 0 of core 0 drains a batch of one accumulator, its last unit at cycle 9. -/
def drainBatch : Batch := { batch with acc := [5], dphys := 512 }
def draining : State := { world ply sk { mhw [dTile .filling] none with spindles := List.replicate 4 { Spindle.zero with drain := some drainBatch } }
  with cycle := 9 }

theorem witness_BatchesEnd : (draining.spindle 0 0).drain = some drainBatch ∧ (draining.spindle 0 0).drained = true ∧ (base.spindle 0 0).drain = none ∧ drainBatch.owner / 32 = 0 * 16 + 0 ∧
    drainBatch.n = sk.spTimeline + 1 ∧ sk.spAhead = [] ∧ 1 < recNply sk.lrec ∧ sk.retired.getLsbD 1 = false ∧ (draining.hwOf 0).tiles = [dTile .filling] ∧
    (dTile .filling).slot = 0 ∧ (dTile .filling).handle = refHandle drainBatch.dref ∧ (draining.hwOf 0).tile.wf = true ∧
    (draining.tick % 100 = 0 ∧ (draining.hw.get? 0).isSome ∧ { draining with tick := 101 : State }.tick % 100 ≠ 0) := by
  and_intros <;> decide

def svc (ret : Bool) (stack : List Nat) : SvcCore := ⟨1, stack, [], [(0x4000, 7, ret)]⟩
/-- An image with MAGIC, version 3 and no body, and fuses that hold the hash of its key. -/
def image : List Byte := bytesOf 8 0x494C563936304657 ++ bytesOf 8 3 ++ List.replicate 48 0 ++ List.replicate 5312 0
def fusesOf (hash : List Byte) : Fuses := ⟨hash, 3, List.replicate 48 0, List.replicate 32 0⟩

theorem witness_ModuleConfigures :
    let s (c : SvcCore) : State := { base with svcs := [(5, c)] }
    (4 < 5 ∧ base.wheelNext = [] ∧ 0 < { base with tick := 8 : State }.mesh / 64 ∧ base.mesh / 64 ≤ 0) ∧
    ((s (svc false [])).svcs.get? 5 = some (svc false []) ∧ (svc false []).gates = [(0x4000, 7, false)] ∧ (svc false []).stack.length < 16 ∧
      16 ≤ (svc false (List.replicate 16 2)).stack.length ∧ (svc true [2]).gates = [(0x4000, 7, true)] ∧ (svc true [2]).stack = [2] ∧
      (svc true []).stack = []) ∧
    (imgSvn image < (⟨[], 4, [], []⟩ : Fuses).svn ∧ imgWord image 0 = 0x494C563936304657 ∧ imgWord [] 0 ≠ 0x494C563936304657) ∧
    (State.reset.phase ≠ .running ∧ base.phase = .running ∧ base.phase ≠ .recovery ∧ (63 < 64 ∧ 0 % 2 ^ 38 = 0 ∧ 2 ^ 41 % 2 ^ 41 = 0)) := by
  and_intros <;> decide

/-- What the model leaves open of an image is whether its signature is a signature (log 3). -/
theorem witness_ImagePasses (h : Config.mlDsaVerifies (imgBytes image 64 1952) (shake256 64 (imgSigned image)) (imgBytes image 2016 3309) = true) :
    imageOk (fusesOf (shake256 32 (imgBytes image 64 1952))) image = true := by
  have h1 : imgHeaderOk image = true := by decide
  have h2 : (fusesOf (shake256 32 (imgBytes image 64 1952))).svn ≤ imgSvn image := by
    show 3 ≤ imgSvn image
    decide
  rw [imageOk, h1, h]
  simp only [Bool.true_and, Bool.and_true, Bool.and_eq_true, decide_eq_true_eq]
  exact ⟨rfl, h2⟩

theorem witness_ImageFails : imageOk (fusesOf []) [] = false := by
  have h : imgHeaderOk [] = false := by decide
  rw [imageOk, h]
  rfl

def unit (cfg : DWord) : WatchUnit := ⟨cfg, 2 ^ 64 - 1, 0, 0, 0, List.replicate 16 0⟩
def watching : Ctx := { c0 with desc := [fieldAt 63 1] ++ List.replicate 12 0 ++ [0x6000], watchen := 1 }
def specOf (w0 : DWord) : ContextSpec := ⟨[w0], [], [], [], 0, 0x8FFF, [], []⟩

theorem witness_WatchesPowerAndContexts :
    let s (w : WatchUnit) : State := { base with watch := [(4 * 127 + 3, w)] }
    let on (ctx : Nat) : DWord := fieldAt 63 1 ||| fieldAt 62 1 ||| fieldAt 46 5 ||| fieldAt 54 ctx
    let t : State := { base with ctxs := [(0, watching)], ats := [page true] }
    (127 < 128 ∧ 3 < 4 ∧ 15 < 16 ∧ 4 ≤ 4 ∧ (s (unit (on 7))).watch.get? (4 * 127 + 3) = some (unit (on 7)) ∧ (1 ≤ 5 ∧ 5 ≤ 5) ∧
      (on 7).getLsbD 63 ∧ (on 7).toNat / 2 ^ 46 % 2 ^ 8 = 5 ∧ (on 7).toNat / 2 ^ 54 % 2 ^ 8 = 7) ∧
    (t.ctxs.get? 0 = some watching ∧ watching.watchen.getLsbD 0 ∧ watching.word 13 &&& ~~~0xFFF ≠ 0 ∧ watching.killed = false ∧
      svcNeed t 0 64 true [(watching.word 13 &&& ~~~0xFFF, 4096)] = none ∧ c0.watchen.getLsbD 0 = false) ∧
    ((let s : State := { base with clock := 2600, tick := 100000 }
      s.clock < 2700 ∧ s.raiseAt + 100000 ≤ s.tick) ∧ 2700 ≤ base.clock) ∧
    ((recWord (specOf (fieldAt 20 1)).desc 0).getLsbD 20 ∧ base.fbcfg.getLsbD 16 = false ∧ base.ctxs.has 0 ∧ hasLaunches base 0 ∧
      (base.ctx 0).tenant ≠ (recWord (specOf (fieldAt 53 2)).desc 0).toNat / 2 ^ 53 % 8 ∧ (recWord (specOf (fieldAt 56 9)).desc 0).getLsbD 20 = false ∧
      base.ctxs.get? ((recWord (specOf (fieldAt 56 9)).desc 0).toNat / 2 ^ 56) = none) ∧
    (base.ctxs.get? 1 = none ∧ (base.ctx 0).killed = false ∧ (base.ctxs.get? 0).isSome ∧ hasLaunches { base with launches := [] } 0 = false ∧
      (dead.ctx 0).killed) := by
  and_intros <;> decide

/-! ## Witnesses: steps and invariants -/

/-- The module with the word of `IADD v4, v20!, v24` at the ply's PC. -/
def fetching : State := State.reset.withFetchWord 32 0x18940801
def addI : Instr := .iadd (.v 4) ⟨true, .v 20⟩ ⟨false, .v 24⟩ false

theorem witness_StepRunsDecoded :
    (ply.verdict = .retry ∧ canonical ply.pc = true ∧ (fetching.attr 0 0 ply.pc).target = 0 ∧ attrBad (fetching.attr 0 0 ply.pc) = false ∧
      replBad (fetching.attr 0 0 ply.pc) 0x1000 = false ∧ (fetching.attr 0 0 ply.pc).key / 8 = (fetching.ctx 0).tenant ∧
      lookup fetching 0 (fetching.ctx 0).pasid ply.pc false false true = .ok 0x1000 ∧
      codeHere fetching ply (fetching.attr 0 0 ply.pc) 0x1000 = true ∧ codeHere fetching ply (fetching.attr 0 0 ply.pc) (2 * 2 ^ 60) = false) ∧
    (fetchParcel fetching ply ply.pc = .ok 0x0801 ∧ (0x0801 : Parcel).getLsbD 0 ∧ fetchParcel fetching ply (ply.pc + 2) = .ok 0x1894) ∧
    (fetchParcel (State.reset.withFetchWord 16 0xF0CC) ply ply.pc = .ok 0xF0CC ∧ (0xF0CC : Parcel).getLsbD 0 = false) ∧
    (fetching.phase = .running ∧ takeNet fetching = none ∧ (dueStep fetching).isNone ∧ chooseTurn fetching = some (0, .current) ∧
      fetching.plies.get? 0 = some ply ∧ fetch fetching ply = .ok addI ∧ stopsFor fetching 0 ply .current addI = false) := by
  and_intros <;> decide

/-- A deterministic ply before a serial action outside the serial phase. -/
def serialI : Instr := .spawn s4 sa 1 false
def serialAt : State := { placeProgram State.reset (encode serialI).bytes with skeins := [(0, det)] }
theorem witness_StepStops : fetch serialAt ply = .ok serialI ∧ takeNet serialAt = none ∧ (dueStep serialAt).isNone ∧
    chooseTurn serialAt = some (0, .current) ∧ stopsFor serialAt 0 ply .current serialI = true := by
  and_intros <;> decide

theorem witness_ZeroParcelTraps : (State.reset.withFetchWord 16 0).phase = .running ∧ takeNet (State.reset.withFetchWord 16 0) = none ∧
    (dueStep (State.reset.withFetchWord 16 0)).isNone ∧ chooseTurn (State.reset.withFetchWord 16 0) = some (0, .current) ∧
    fetchParcel (State.reset.withFetchWord 16 0) ply ply.pc = .ok 0 ∧ (State.reset.withFetchWord 16 0).det ply = false := by
  and_intros <;> decide

theorem witness_DecodeOfEncode : addI.WellFormed ∧ encode addI ≠ .none := by
  and_intros
  · show addI.legal = true
    decide
  · decide

/-- One step from the state with that word runs it. -/
theorem test_step_runs_iadd : (match step fetching with
    | .next t => (t.plies.get? 0).map fun p => (p.pc, p.retired, p.pend.map (·.write.slot))
    | _ => none) = some (0x1004, 1, [Slot.v 4]) := by decide

theorem witness_MemoryStaysCanonical : State.reset.MemOk ∧ fetching.MemOk := ⟨rfl, by show fetching.mem.wf = true; decide⟩

theorem witness_PartsStayFormed : Formed fetching :=
  ⟨by decide, by decide, by decide, by decide, by decide⟩

/-! ## Ill-formed terms, one for each case of R40 that is a matter of the encoding -/

theorem smoke_minor : (Instr.iun v4 a8 12 false).legal = false ∧ (Instr.iun v4 a8 11 false).legal = true := by decide
theorem smoke_cond : (Instr.icmp a8 (.v 9) 0 10 false).legal = false ∧ (Instr.icmp a8 (.v 9) 0 9 false).legal = true := by decide
theorem smoke_mod : (Instr.funI v4 a8 0 2 false).legal = false := by decide
theorem smoke_reserved_name : (Instr.iadd v4 ⟨false, .reserved⟩ b12 false).legal = false ∧ (Instr.iadd .reserved a8 b12 false).legal = false := by decide
theorem smoke_special_destination : (Instr.iadd .tid a8 b12 false).legal = false ∧ (Instr.iadd .zero a8 b12 false).legal = true := by decide
theorem smoke_vector_in_uniform : (Instr.iadd s4 a8 sb false).legal = false ∧ (Instr.iadd s4 sa sb false).legal = true := by decide
theorem smoke_odd_pair : (Instr.iadd64 (.v 5) a8 b12 false).legal = false ∧ (Instr.iadd64 v4 a8 b12 false).legal = true := by decide
theorem smoke_misaligned_quad : (Instr.ldq (.v 6) 6 (.v 8) 0 false).legal = false ∧ (Instr.ldq v4 6 (.v 8) 0 false).legal = true := by decide
theorem smoke_special_pair : (Instr.iadd64 v4 ⟨false, .laneid⟩ b12 false).legal = false := by decide
theorem smoke_copy_destination : (Instr.cpyin v4 6 8 20 false false).legal = false ∧ (Instr.cpyin .zero 6 8 20 false false).legal = true := by decide
theorem smoke_mma_destination : (Instr.mma v4 12 13 0 3 false).legal = false ∧ (Instr.mma .zero 12 13 0 3 false).legal = false := by decide
theorem smoke_copy_block : (Instr.cpyin s4 6 29 8 false false).legal = false ∧ (Instr.cpyin s4 6 28 8 false false).legal = true := by decide
theorem smoke_format_block : (Instr.mma s4 12 13 15 3 false).legal = false ∧ (Instr.mma s4 12 13 14 3 false).legal = true := by decide
theorem smoke_red_operation : (Instr.red v4 6 (.v 8) 11 false).legal = false ∧ (Instr.red v4 6 (.v 8) 10 false).legal = true := by decide
theorem smoke_atom_operation : (Instr.atom v4 6 (.v 8) 15 false).legal = false ∧ (Instr.atom v4 6 (.v 8) 14 false).legal = true := by decide
theorem smoke_short_destination : (Instr.movH .lx (.v 3) false).legal = false ∧ (Instr.movH (.v 4) .lx false).legal = true := by decide
theorem smoke_short_uniform : (Instr.iaddH (.s 1) (.v 3) false).legal = false ∧ (Instr.iaddH (.s 1) (.s 2) false).legal = true := by decide
theorem smoke_call_destination : (Instr.calli .zero sa false).legal = false ∧ (Instr.calli s4 sa false).legal = true := by decide
theorem smoke_wait_mask : (Instr.twait sa 0 false).legal = false ∧ (Instr.twait sa 16 false).legal = false ∧ (Instr.twait sa 15 false).legal = true := by decide
theorem smoke_system_register : (Instr.rdsr s4 0x14 false).legal = false ∧ (Instr.rdsr s4 0x13 false).legal = true := by decide

/-- Why bytes are no instruction, if they are none. -/
def rejected (l : List Byte) : Option DecodeError := match decodeBytes l with
  | .error e => some e
  | .ok _ => none

/-- R40: words that are no instruction. op7 0x7F; imm8[7] of SHLI; pf4 of ELSE; a name of NOP that is not null; the parcel 0x0000;
cut-off bytes. -/
theorem reject_words : rejected [0xFD, 0x01, 0, 0] = some .reservedOpcode ∧ (rejected [0x71, 0x08, 0x08, 0x80]).isSome = true ∧
    (rejected [0x9D, 0x02, 0, 0]).isSome = true ∧ (rejected [0xE1, 0xB5, 0x5B, 0x09]).isSome = true ∧
    rejected [0, 0, 0, 0] = some .zeroParcel ∧ rejected [1, 0] = some .truncated ∧ rejected [5] = some .truncated := by
  decide

/-! ## Single instructions; the values are those of the spec's examples -/

/-- The ply after an instruction, with its results written. -/
def after (i : Instr) (s : State) : Option Ply := match exec i s with
  | .next t => (t.plies.get? 0).map Ply.landAll
  | _ => none
def vAfter (i : Instr) (p : Ply) (n : Nat) : Option Lanes := (after i (at' p)).bind fun q => q.v.get? n
def sAfter (i : Instr) (p : Ply) (n : Nat) : Option DWord := (after i (at' p)).bind fun q => q.s.get? n

/-- The chapter's example: threads 1, 2, 4, 5 and 7 active, v2 against 8. -/
def threads : Ply := { ply with em := 0xB6, v := [(2, [5, 12, 7, 20, 3, 9, 15, 1])], s := [(5, 8), (6, 1)], p := [0xFF, 0, 0, 0, 0, 0, 0, 0] }
theorem test_icmp : (after (.icmp ⟨false, .v 2⟩ (.s 5) 0 4 false) (at' threads)).map (·.p.head?) = some (some 0x6B) := by decide
theorem test_sel : vAfter (.sel (.v 3) ⟨false, .s 6⟩ ⟨false, .zero⟩ false) { threads with p := [0x22, 0, 0, 0, 0, 0, 0, 0] } 3 =
    some [0, 1, 0, 0, 0, 1, 0, 0] := by decide
theorem test_scan : vAfter (.scan (.v 4) ⟨false, .lx⟩ 0 true false) { threads with lx := ⟨true, [0, 1, 0, 0, 0, 1, 0, 0]⟩ } 4 =
    some [0, 0, 1, 0, 1, 1, 0, 2] := by decide
theorem test_vote_count : vAfter (.voteCount (.v 6) 0 false) { threads with p := [0x22, 0, 0, 0, 0, 0, 0, 0] } 6 = some [0, 2, 2, 0, 2, 2, 0, 2] := by
  decide
/-- R288's example: bf16x2 of 1.0 and 2.0, the low element the base in lx. -/
theorem test_bfi : vAfter (.bfi v4 ⟨false, .v 3⟩ ⟨false, .s 9⟩ false)
    { ply with em := 1, v := [(3, [0x3F80])], s := [(9, 0x1010)], lx := ⟨true, [0x4000]⟩ } 4 = some [0x3F804000, 0, 0, 0, 0, 0, 0, 0] := by decide
theorem test_cvt_f2bf : vAfter (.cvtF2bf (.v 3) ⟨false, .v 1⟩ 0 false) { ply with em := 1, v := [(1, [0x3F808000])] } 3 =
    some [0x3F80, 0, 0, 0, 0, 0, 0, 0] := by decide
/-- The chapter's example FFMA.h v4, o1: lx × o1 + v4. -/
theorem test_ffma_short : vAfter (.ffmaH (.v 4) (.o 1) false)
    { ply with em := 1, v := [(4, [0x3F800000])], o := (List.replicate 8 OEntry.vacant).set 1 ⟨true, true, [0x40000000]⟩, lx := ⟨true, [0x40400000]⟩ } 4 =
    some [0x40E00000, 0, 0, 0, 0, 0, 0, 0] := by decide
/-- R308's example: buckets and ranks of the leading bits of eight hashes. -/
theorem test_part : let p : Ply := { ply with
      v := [(2, [0x10000000, 0xC0000000, 0x40000001, 0x20000000, 0xFFFFFFFF, 0x80000000, 0x3FFFFFFF, 0x70000000])], s := [(5, 4)] }
    vAfter (.part (.v 10) ⟨false, .v 2⟩ ⟨false, .s 5⟩ false) p 10 = some [0, 3, 1, 0, 3, 2, 0, 1] ∧
    vAfter (.part (.v 10) ⟨false, .v 2⟩ ⟨false, .s 5⟩ false) p 11 = some [0, 0, 0, 1, 1, 0, 2, 1] := by decide
/-- R311's example: the prefix of "pear", its unit as read. -/
theorem test_spfx : let p : Ply := { ply with
      em := 1, v := [(8, [0]), (9, [0x400])], stage := 1, work := some ⟨[], [(0, 0x72616570)], .keep, .zero, 0, false, 0, 0⟩ }
    (vAfter (.spfx v4 a8 true) p 4).map (·.head?) = some (some 0) ∧ (vAfter (.spfx v4 a8 true) p 5).map (·.head?) = some (some 0x70656172) := by decide
/-- The example of TLDT: element (r, c) of the tile is 8r + c, row r in unit r of row r. -/
theorem test_tldt : let mem : Memory := (List.range 8).flatMap fun r => (List.range 8).filterMap fun c =>
      if 8 * r + c = 0 then none else some (2064 * r + 2 * c, BitVec.ofNat 8 (8 * r + c))
    let p : Ply := { ply with s := [(10, tref)], v := [(1, (List.range 8).map fun k => BitVec.ofNat 32 (k * 2064))] }
    let h : CoreHw := { CoreHw.zero with tiles := [⟨0, 2, 1, .ready, false, false, 0, 0, 33⟩], tile := mem }
    let q : Option Ply := match exec (.tldt v4 10 (.v 1) 0 true false) (world p sk h) with
      | .next t => ((tileSlots { t with cycle := 99 }).plies.get? 0).map Ply.landAll
      | _ => none
    (q.bind fun q => (q.v.get? 4).bind (·[3]?)) = some 0x000B0003 ∧ (q.bind fun q => (q.v.get? 7).bind (·[3]?)) = some 0x003B0033 := by decide
/-- R359 to R362's example: IFP in iteration 2 leaves thread 1; ENDLOOP goes back while threads are left. -/
theorem test_ifp : (after (.ifp 1 8 false) (at' { ply with em := 0x0E, p := [0, 2, 0, 0, 0, 0, 0, 0] })).map (·.em) = some 2 := by decide
/-- R53's example: the home of a location. -/
theorem test_home_slice : ({ State.reset with dec0 := some 0x10000000000 } : State).hpaLoc 0x012845679000 = 0x2845679000 ∧
    homeSlice 0x2845679000 = 74 := by decide
/-- R110's example: the combining order of a tree decides the sum. -/
theorem test_tree_order : let c := treeComb 0
    c (c 0x4B800000 0x3F800000) 0x3F800000 = 0x4B800000 ∧ c (c 0x3F800000 0x3F800000) 0x4B800000 = 0x4B800001 := by decide
/-- R402's example: skein 2's SKIP is held until the head comes to it. -/
theorem test_ticket_chain : let x := ((Chain.zero.resolve 0 (some 3)).resolve 2 none).resolve 1 (some 8)
    (x.v, x.k, x.h) = (8, 1, 3) ∧ ((Chain.zero.resolve 0 (some 3)).resolve 2 none).h = 1 := by decide
/-- R271's table: E4M3 and E5M2 of 17.0, 500.0 and -0.001. -/
theorem test_f8 : ([0x41880000, 0x43FA0000, 0xBA83126F].map fun x => (fromF32Round .e4m3 false .rne 0 (fromF32Pre .e4m3 false .rne x)).1) = [0x58, 0x7E, 0x81] ∧
    ([0x41880000, 0x43FA0000, 0xBA83126F].map fun x => (fromF32Round .e5m2 false .rne 0 (fromF32Pre .e5m2 false .rne x)).1) = [0x4C, 0x60, 0x94] := by decide
/-- R433, R436: TRAP enters the handler at TL1 with the instruction after it as XPC. -/
theorem test_trap_entry : (after (.trap sa false) (at' (withS 7))).map (fun q => (q.tl, q.pc, q.tr1.xval, q.tr1.xpc, q.tr1.xcause)) =
    some (1, 0x8000 + 64 * 0x11, 7, 0x1004, 0x11) := by decide
/-- R286: a sum wraps. -/
theorem test_iadd_wraps : sAfter (.iadd s4 sa sb false) { ply with s := [(6, 0xFFFFFFFF), (8, 2)] } 4 = some 1 := by decide


/-! ## Decoding: one word of every encoded row, written from the encoding tables of R23 to R38 -/

/-- The bytes decode to the instruction, with none left, and the instruction is well formed. -/
def decodesAs (l : List Byte) (i : Instr) : Bool := match decodeBytes l with
  | .ok (j, []) => decide (j = i) && i.legal
  | _ => false
abbrev Decodes (l : List (Word × Instr)) : Prop := ∀ x ∈ l,
  decodesAs [x.1.extractLsb' 0 8, x.1.extractLsb' 8 8, x.1.extractLsb' 16 8, x.1.extractLsb' 24 8] x.2 = true
abbrev DecodesShort (l : List (Parcel × Instr)) : Prop := ∀ x ∈ l, decodesAs [x.1.extractLsb' 0 8, x.1.extractLsb' 8 8] x.2 = true
theorem test_decode_integer_1 : Decodes [
  (0x18940801, .iadd (.v 4) ⟨true, .v 20⟩ ⟨false, .v 24⟩ false), (0x18940807, .isub (.v 4) ⟨true, .v 20⟩ ⟨false, .v 24⟩ true),
  (0x18940809, .imul (.v 4) ⟨true, .v 20⟩ ⟨false, .v 24⟩ false), (0x1894080F, .imad (.v 4) ⟨true, .v 20⟩ ⟨false, .v 24⟩ true),
  (0x18940811, .imulh (.v 4) ⟨true, .v 20⟩ ⟨false, .v 24⟩ false),
  (0x18940817, .imulhn (.v 4) ⟨true, .v 20⟩ ⟨false, .v 24⟩ true),
  (0x18940819, .imin (.v 4) ⟨true, .v 20⟩ ⟨false, .v 24⟩ false), (0x1894081F, .iminn (.v 4) ⟨true, .v 20⟩ ⟨false, .v 24⟩ true),
  (0x18940821, .imax (.v 4) ⟨true, .v 20⟩ ⟨false, .v 24⟩ false), (0x18940827, .imaxn (.v 4) ⟨true, .v 20⟩ ⟨false, .v 24⟩ true),
  (0x18940829, .and (.v 4) ⟨true, .v 20⟩ ⟨false, .v 24⟩ false), (0x1894082F, .or (.v 4) ⟨true, .v 20⟩ ⟨false, .v 24⟩ true),
  (0x18940831, .xor (.v 4) ⟨true, .v 20⟩ ⟨false, .v 24⟩ false), (0x18940837, .andn (.v 4) ⟨true, .v 20⟩ ⟨false, .v 24⟩ true),
  (0x18940839, .shl (.v 4) ⟨true, .v 20⟩ ⟨false, .v 24⟩ false), (0x1894083F, .shr (.v 4) ⟨true, .v 20⟩ ⟨false, .v 24⟩ true),
  (0x18940841, .sar (.v 4) ⟨true, .v 20⟩ ⟨false, .v 24⟩ false), (0x18940847, .rotl (.v 4) ⟨true, .v 20⟩ ⟨false, .v 24⟩ true),
  (0x18940849, .iadd64 (.v 4) ⟨true, .v 20⟩ ⟨false, .v 24⟩ false),
  (0x1894084F, .isub64 (.v 4) ⟨true, .v 20⟩ ⟨false, .v 24⟩ true), (0x18940851, .lea (.v 4) ⟨true, .v 20⟩ ⟨false, .v 24⟩ false),
  (0x18940857, .sel (.v 4) ⟨true, .v 20⟩ ⟨false, .v 24⟩ true), (0x18940859, .bfe (.v 4) ⟨true, .v 20⟩ ⟨false, .v 24⟩ false),
  (0x1894085F, .bfi (.v 4) ⟨true, .v 20⟩ ⟨false, .v 24⟩ true)] := by decide

theorem test_decode_integer_2 : Decodes [
  (0xDB940861, .iaddi (.v 4) ⟨true, .v 20⟩ 219 false), (0xDB940867, .andi (.v 4) ⟨true, .v 20⟩ 219 true),
  (0xDB940869, .ori (.v 4) ⟨true, .v 20⟩ 219 false), (0xDB94086F, .xori (.v 4) ⟨true, .v 20⟩ 219 true),
  (0x5B940871, .shli (.v 4) ⟨true, .v 20⟩ 91 false), (0x5B940877, .shri (.v 4) ⟨true, .v 20⟩ 91 true),
  (0x5B940879, .sari (.v 4) ⟨true, .v 20⟩ 91 false), (0x6DB6087F, .movi (.v 4) 28086 true),
  (0x6DB60881, .movhi (.v 4) 28086 false), (0x63101087, .icmp ⟨false, .v 16⟩ (.v 8) 3 3 true),
  (0x03940889, .iun (.v 4) ⟨true, .v 20⟩ 3 false), (0x1894088F, .idiv (.v 4) ⟨true, .v 20⟩ ⟨false, .v 24⟩ true),
  (0x18940891, .idivn (.v 4) ⟨true, .v 20⟩ ⟨false, .v 24⟩ false), (0x18940897, .irem (.v 4) ⟨true, .v 20⟩ ⟨false, .v 24⟩ true),
  (0x18940899, .iremn (.v 4) ⟨true, .v 20⟩ ⟨false, .v 24⟩ false)] := by decide

theorem test_decode_float : Decodes [
  (0x189408A1, .fadd (.v 4) ⟨true, .v 20⟩ ⟨false, .v 24⟩ false), (0x189408A7, .fsub (.v 4) ⟨true, .v 20⟩ ⟨false, .v 24⟩ true),
  (0x189408A9, .fmul (.v 4) ⟨true, .v 20⟩ ⟨false, .v 24⟩ false), (0x189408AF, .ffma (.v 4) ⟨true, .v 20⟩ ⟨false, .v 24⟩ true),
  (0x189408B1, .fmin (.v 4) ⟨true, .v 20⟩ ⟨false, .v 24⟩ false), (0x189408B7, .fmax (.v 4) ⟨true, .v 20⟩ ⟨false, .v 24⟩ true),
  (0x189408B9, .fdiv (.v 4) ⟨true, .v 20⟩ ⟨false, .v 24⟩ false), (0x189408BF, .fadd2 (.v 4) ⟨true, .v 20⟩ ⟨false, .v 24⟩ true),
  (0x189408C1, .fmul2 (.v 4) ⟨true, .v 20⟩ ⟨false, .v 24⟩ false),
  (0x189408C7, .ffma2 (.v 4) ⟨true, .v 20⟩ ⟨false, .v 24⟩ true),
  (0x189408C9, .fdot2 (.v 4) ⟨true, .v 20⟩ ⟨false, .v 24⟩ false), (0x631010CF, .fcmp ⟨false, .v 16⟩ (.v 8) 3 3 true),
  (0x239408D1, .funI (.v 4) ⟨true, .v 20⟩ 3 1 false), (0x609408D7, .cvtF2bf (.v 4) ⟨true, .v 20⟩ 3 true),
  (0x219408D5, .cvtBf2f (.v 4) ⟨true, .v 20⟩ true false), (0x629408D7, .cvtF2i (.v 4) ⟨true, .v 20⟩ 3 true),
  (0x639408D5, .cvtF2n (.v 4) ⟨true, .v 20⟩ 3 false), (0x649408D7, .cvtI2f (.v 4) ⟨true, .v 20⟩ 3 true),
  (0x659408D5, .cvtN2f (.v 4) ⟨true, .v 20⟩ 3 false), (0x669408D7, .cvtF2i64 (.v 4) ⟨true, .v 20⟩ 3 true),
  (0x679408D5, .cvtI642f (.v 4) ⟨true, .v 20⟩ 3 false)] := by decide

theorem test_decode_exchange : Decodes [
  (0x189408E3, .shfl (.v 4) ⟨true, .v 20⟩ ⟨false, .v 24⟩ true), (0x039408E5, .shflx (.v 4) ⟨true, .v 20⟩ 3 false),
  (0x039408EB, .rdlane (.v 4) ⟨true, .v 20⟩ 3 true), (0x039408ED, .wrlane (.v 4) ⟨true, .v 20⟩ 3 false),
  (0xC05A08F3, .voteAny (.v 4) 6 true), (0xC15A08F1, .voteAll (.v 4) 6 false), (0xC25A08F3, .voteBallot (.v 4) 6 true),
  (0xC35A08F1, .voteCount (.v 4) 6 false), (0x239408F7, .scan (.v 4) ⟨true, .v 20⟩ 3 true true),
  (0x039408F9, .reduce (.v 4) ⟨true, .v 20⟩ 3 false), (0x189408FF, .matchI (.v 4) ⟨true, .v 20⟩ ⟨false, .v 24⟩ true),
  (0x18940901, .hash (.v 4) ⟨true, .v 20⟩ ⟨false, .v 24⟩ false),
  (0x18940907, .hash64 (.v 4) ⟨true, .v 20⟩ ⟨false, .v 24⟩ true), (0x18940909, .crc (.v 4) ⟨true, .v 20⟩ ⟨false, .v 24⟩ false),
  (0x1894090F, .part (.v 4) ⟨true, .v 20⟩ ⟨false, .v 24⟩ true), (0xF4940911, .hist (.v 4) ⟨true, .v 20⟩ ⟨true, .s 20⟩ false),
  (0x18940917, .scmp (.v 4) ⟨true, .v 20⟩ ⟨false, .v 24⟩ true), (0x00940919, .shash (.v 4) ⟨true, .v 20⟩ false),
  (0x0194091B, .spfx (.v 4) ⟨true, .v 20⟩ true), (0x02940919, .slen (.v 4) ⟨true, .v 20⟩ false),
  (0x1894091F, .sfind (.v 4) ⟨true, .v 20⟩ ⟨false, .v 24⟩ true)] := by decide

theorem test_decode_memory : Decodes [
  (0x91960921, .ld (.v 4) 22 (.v 12) 1 2 false), (0x91960927, .st (.v 4) 22 (.v 12) 1 2 true),
  (0x11960929, .ldq (.v 4) 22 (.v 12) 1 false), (0x1196092F, .stq (.v 4) 22 (.v 12) 1 true),
  (0x91960931, .ldcv (.v 4) 22 (.v 12) 1 2 false), (0x91960937, .stcv (.v 4) 22 (.v 12) 1 2 true),
  (0xD1960939, .atom (.v 4) 22 (.v 12) 13 false), (0x3196093F, .red (.v 4) 22 (.v 12) 3 true),
  (0x710DB551, .pref 13 (.v 8) 3 1 false), (0x9CD60957, .mona (.v 4) 22 (.s 6) 1 2 true),
  (0x00F0B559, .waitm ⟨true, .s 16⟩ false), (0x9CD6C55F, .poll (.s 2) 22 (.s 6) 1 2 true)] := by decide

theorem test_decode_tiles : Decodes [
  (0x91960941, .tld (.v 4) 22 (.v 12) 1 2 false), (0x91960947, .tst (.v 4) 22 (.v 12) 1 2 true),
  (0x51960949, .tldt (.v 4) 22 (.v 12) 1 true false), (0xD196094F, .tatom (.v 4) 22 (.v 12) 13 true),
  (0xDB6DC561, .cpyin (.s 2) 22 27 13 true false), (0xDB6DC567, .cpyout (.s 2) 22 27 13 true true),
  (0xDB6DC569, .cpygg (.s 2) 22 27 13 true false), (0xDB6DC56F, .gather (.s 2) 22 27 13 true true),
  (0xDB6DC571, .scatter (.s 2) 22 27 13 true false), (0xDB6DC577, .pscat (.s 2) 22 27 13 true true),
  (0x03F0B579, .defarr ⟨true, .s 16⟩ 3 false), (0x00F2C57F, .cpyqStatus (.s 2) ⟨true, .s 18⟩ true),
  (0x015AC57D, .cpyqTl (.s 2) false), (0x02F2C57F, .cpyqDrop (.s 2) ⟨true, .s 18⟩ true),
  (0x1BF2C581, .tbind (.s 2) ⟨true, .s 18⟩ 27 false), (0x00F0B587, .tsetEmpty ⟨true, .s 16⟩ true),
  (0x01F0B585, .tsetFilling ⟨true, .s 16⟩ false), (0x02F0B587, .tsetReady ⟨true, .s 16⟩ true),
  (0x03F0B585, .tsetDraining ⟨true, .s 16⟩ false), (0x03F0B58B, .twait ⟨true, .s 16⟩ 3 true),
  (0x00F0B58D, .tfree ⟨true, .s 16⟩ false)] := by decide

theorem test_decode_spindle : Decodes [
  (0xB776C593, .mma (.s 2) 22 27 13 2 true), (0x005AC595, .mclose (.s 2) false),
  (0x01F2C597, .mcloseResume (.s 2) ⟨true, .s 18⟩ true), (0x005AC599, .mwait (.s 2) false), (0x005AC59F, .mabort (.s 2) true),
  (0xB776C5A1, .mepi (.s 2) 22 27 13 2 false), (0x06F0B5A7, .gset ⟨true, .s 16⟩ 6 true), (0x035AC5A9, .gget (.s 2) 3 false)] := by decide

theorem test_decode_control : Decodes [
  (0xDB6DA09F, .elseI 449389 true), (0xDB6DA0DB, .loop 449389 true), (0xDB6DA0DD, .endloop 449389 false),
  (0x6DB6DBD3, .bra 3595117 true), (0x6DB6DBD5, .brq 13 224694 false), (0x6DB6DBDB, .ifp 13 224694 true),
  (0x6DB6DBDD, .call 3595117 false), (0x005AB5E3, .endif true), (0x015AB5E1, .brk false), (0x025AB5E3, .cont true),
  (0x03F0B5E1, .ret ⟨true, .s 16⟩ false), (0x04F0B5E3, .jmpi ⟨true, .s 16⟩ true),
  (0x05F2C5E1, .calli (.s 2) ⟨true, .s 18⟩ false), (0x065AC5E3, .elect (.s 2) true), (0x075AB5E1, .yield false),
  (0x085AB5E3, .exit true), (0x095AB5E1, .nop false)] := by decide

theorem test_decode_sync : Decodes [
  (0xAB9409AF, .bar (.v 4) ⟨true, .v 20⟩ 11 5 true), (0x6610B5B1, .bara ⟨false, .v 16⟩ 6 3 false),
  (0x065A09B7, .barw (.v 4) 6 true), (0x60F2C5B9, .tktTake (.s 2) ⟨true, .s 18⟩ 3 false),
  (0xC15AC5BB, .tktWaitp (.s 2) 6 true), (0xC2F0B5B9, .tktPut ⟨true, .s 16⟩ 6 false), (0xA35AB5BB, .tktSkip 5 true),
  (0x06F0B5BD, .qpush ⟨true, .s 16⟩ 6 false), (0x065AC5C3, .qpop (.s 2) 6 true),
  (0x01F2C5C5, .tlwait (.s 2) ⟨true, .s 18⟩ 1 false), (0x015AC5CB, .tlrd (.s 2) true true),
  (0xBB9409CD, .nred (.v 4) ⟨true, .v 20⟩ 27 5 false), (0x03F2C5E7, .spawn (.s 2) ⟨true, .s 18⟩ 3 true)] := by decide

theorem test_decode_system : Decodes [
  (0x00F2C5E9, .uisend (.s 2) ⟨true, .s 18⟩ false), (0x01F2C5EB, .uimask (.s 2) ⟨true, .s 18⟩ true),
  (0x02F2C5E9, .uipend (.s 2) ⟨true, .s 18⟩ false), (0x03F2C5EB, .uiack (.s 2) ⟨true, .s 18⟩ true), (0x045AB5E9, .uiret false),
  (0x05F0B5EB, .uiwait ⟨true, .s 16⟩ true), (0x005AB5ED, .vacq false), (0x015AB5EF, .vrel true),
  (0x0210B5ED, .vkill ⟨false, .v 16⟩ false), (0x03F2C5EF, .rdlive (.s 2) ⟨true, .s 18⟩ true),
  (0x04D309ED, .uprd (.v 4) ⟨true, .o 3⟩ false), (0x0594A7EF, .upwr (.o 3) ⟨true, .v 20⟩ true),
  (0x00F0B5F1, .trap ⟨true, .s 16⟩ false), (0x015AB5F3, .tret true), (0x025AB5F1, .halt false),
  (0x03F2C5F3, .classq (.s 2) ⟨true, .s 18⟩ true), (0x045AB5F1, .evict false),
  (0x05F2C5F3, .faultreq (.s 2) ⟨true, .s 18⟩ true), (0x06F2C5F1, .waitf (.s 2) ⟨true, .s 18⟩ false),
  (0x035AC5F7, .rdsr (.s 2) 3 true), (0x03F0B5F9, .wrsr ⟨true, .s 16⟩ 3 false)] := by decide

theorem test_decode_short : DecodesShort [
  (0x20C2, .movH (.v 3) (.v 4) true), (0xB0C4, .movi5H (.v 3) 22 false), (0x20CA, .iaddH (.v 3) (.v 4) true),
  (0xB0CC, .iaddi5H (.v 3) 22 false), (0x20D2, .isubH (.v 3) (.v 4) true), (0x20D4, .imulH (.v 3) (.v 4) false),
  (0x20DA, .andH (.v 3) (.v 4) true), (0x20DC, .orH (.v 3) (.v 4) false), (0x20E2, .xorH (.v 3) (.v 4) true),
  (0xB0E4, .shli5H (.v 3) 22 false), (0xB0EA, .shri5H (.v 3) 22 true), (0xB0EC, .sari5H (.v 3) 22 false),
  (0x20F2, .faddH (.v 3) (.v 4) true), (0x20F4, .fmulH (.v 3) (.v 4) false), (0x20FA, .ffmaH (.v 3) (.v 4) true),
  (0x20FC, .fmaxH (.v 3) (.v 4) false)] := by decide
end Sys2Proof.Tests
end

namespace Sys2Proof

/-! ## Codes of operand names (R24, R27, R33) -/

@[simp] theorem Name.ofBits_bits (n : Name) : Name.ofBits n.bits = n := by
  cases n with
  | v n =>
    have h : n.val % 128 = n.val := by omega
    simp [Name.bits, Name.ofBits, h]
  | o n =>
    have h : (80 + n.val) % 128 = 80 + n.val := by omega
    have h1 : 80 + n.val < 88 := by omega
    simp [Name.bits, Name.ofBits, h, h1]
  | s n =>
    have h : (96 + n.val) % 128 = 96 + n.val := by omega
    have h1 : ¬ 96 + n.val < 80 := by omega
    have h2 : ¬ 96 + n.val < 88 := by omega
    simp [Name.bits, Name.ofBits, h, h1, h2]
  | _ => rfl

@[simp] theorem Short.ofBits_bits (n : Short) : Short.ofBits n.bits = n := by
  cases n with
  | v n =>
    have h : n.val % 32 = n.val := by omega
    simp [Short.bits, Short.ofBits, h]
  | o n =>
    have h : (16 + n.val) % 32 = 16 + n.val := by omega
    have h1 : 16 + n.val < 24 := by omega
    simp [Short.bits, Short.ofBits, h, h1]
  | s n =>
    have h : (27 + n.val) % 32 = 27 + n.val := by omega
    have h1 : ¬ 27 + n.val < 16 := by omega
    have h2 : ¬ 27 + n.val < 24 := by omega
    simp [Short.bits, Short.ofBits, h, h1, h2]
  | _ => rfl

@[simp] theorem SReg.ofBits_bits (r : SReg) : SReg.ofBits r.bits = r := by
  simp [SReg.bits, SReg.ofBits]

/-! ## Fields of joined bits (R23) -/

section
variable {v k start len : Nat} (x : BitVec v) (y : BitVec k)

/-- A field that lies in the upper part. Its uses name the two widths, which one number for their sum does not show. -/
theorem field_above (h : k ≤ start) : (x ++ y).extractLsb' start len = x.extractLsb' (start - k) len :=
  BitVec.extractLsb'_append_eq_of_le h

theorem field_within (h : start + len ≤ k) : (x ++ y).extractLsb' start len = y.extractLsb' start len :=
  BitVec.extractLsb'_append_eq_of_add_le h

theorem bit_above (h : k ≤ start) : (x ++ y).getLsbD start = x.getLsbD (start - k) := by
  rw [BitVec.getLsbD_append, if_neg (Nat.not_lt.2 h)]

theorem bit_within (h : start < k) : (x ++ y).getLsbD start = y.getLsbD start := by
  rw [BitVec.getLsbD_append, if_pos h]

end

@[simp] theorem Src.ofBits_bits (a : Src) : Src.ofBits a.bits = a := by
  have hd : a.bits.getLsbD 7 = a.dead := (bit_above (v := 1) (k := 7) _ _ (by decide)).trans (by simp)
  have hn : a.bits.extractLsb' 0 7 = a.name.bits := (field_within (v := 1) (k := 7) _ _ (by decide)).trans (by simp)
  rw [Src.ofBits, hd, hn, Name.ofBits_bits]

/-- What the decoder reads of a 32-bit word below its operands: bit 0, the switch marker and the major opcode. -/
structure Opens (w : Word) (op : BitVec 7) (sw : Bool) : Prop where
  first : w.getLsbD 0 = true
  sw : w[1] = sw
  low : w.extractLsb' 2 3 = op.extractLsb' 0 3
  high : w.extractLsb' 5 4 = op.extractLsb' 3 4

theorem opens_of_tail (hi : BitVec 23) (op : BitVec 7) (sw : Bool) : Opens (hi ++ op ++ BitVec.ofBool sw ++ 1#1) op sw where
  first := bit_within (v := 31) (k := 1) _ _ (by decide)
  sw := (bit_above (v := 31) (k := 1) _ _ (by decide)).trans ((bit_within (v := 30) (k := 1) _ _ (by decide)).trans (by simp))
  low := by simp [field_above (v := 31) (k := 1), field_above (v := 30) (k := 1), field_within (v := 23) (k := 7)]
  high := by simp [field_above (v := 31) (k := 1), field_above (v := 30) (k := 1), field_within (v := 23) (k := 7)]

/-- The operands stand in the upper 23 bits. -/
theorem field_operands (hi : BitVec 23) (op : BitVec 7) (sw : Bool) {start len : Nat} (h : 9 ≤ start) :
    BitVec.extractLsb' start len (hi ++ op ++ BitVec.ofBool sw ++ 1#1 : Word) = hi.extractLsb' (start - 9) len := by
  rw [field_above (v := 31) (k := 1) _ _ (by omega), field_above (v := 30) (k := 1) _ _ (by omega),
    field_above (v := 23) (k := 7) _ _ (by omega), Nat.sub_sub, Nat.sub_sub]

section
variable {op d : BitVec 7} {s : Bool} {w : Word}

theorem encF3_fields {b a : BitVec 8} (h : encF3 op s b a d = .long w) : Opens w op s ∧
    w.extractLsb' 9 7 = d ∧ w.extractLsb' 16 8 = a ∧ w.extractLsb' 24 8 = b := by
  obtain rfl := Enc.long.inj h
  refine ⟨opens_of_tail (b ++ a ++ d) op s, ?_⟩
  simp [field_operands, field_above (v := 16) (k := 7), field_within (v := 16) (k := 7), field_above (v := 8) (k := 8),
    field_within (v := 8) (k := 8)]

theorem encFI_fields {i a : BitVec 8} (h : encFI op s i a d = .long w) : Opens w op s ∧
    w.extractLsb' 9 7 = d ∧ w.extractLsb' 16 8 = a ∧ w.extractLsb' 24 8 = i ∧
    w.extractLsb' 24 7 = i.extractLsb' 0 7 ∧ w.extractLsb' 31 1 = i.extractLsb' 7 1 := by
  obtain rfl := Enc.long.inj h
  refine ⟨opens_of_tail (i ++ a ++ d) op s, ?_⟩
  simp [field_operands, field_above (v := 16) (k := 7), field_within (v := 16) (k := 7), field_above (v := 8) (k := 8),
    field_within (v := 8) (k := 8)]

theorem encFW_fields {i : BitVec 16} (h : encFW op s i d = .long w) : Opens w op s ∧
    w.extractLsb' 9 7 = d ∧ w.extractLsb' 16 16 = i := by
  obtain rfl := Enc.long.inj h
  refine ⟨opens_of_tail (i ++ d) op s, ?_⟩
  simp [field_operands, field_above (v := 16) (k := 7), field_within (v := 16) (k := 7)]

theorem encFC_fields {p : BitVec 3} {c : BitVec 5} {a : BitVec 8} (h : encFC op s p c a d = .long w) : Opens w op s ∧
    w.extractLsb' 9 7 = d ∧ w.extractLsb' 16 8 = a ∧ w.extractLsb' 24 5 = c ∧ w.extractLsb' 29 3 = p := by
  obtain rfl := Enc.long.inj h
  refine ⟨opens_of_tail (p ++ c ++ a ++ d) op s, ?_⟩
  simp [field_operands, field_above (v := 16) (k := 7), field_within (v := 16) (k := 7), field_above (v := 8) (k := 8),
    field_within (v := 8) (k := 8), field_above (v := 3) (k := 5), field_within (v := 3) (k := 5)]

/-- Format FX, whose minor and modifier some instructions divide further. -/
theorem encFX_fields {m : BitVec 3} {f : BitVec 5} {a : BitVec 8} (h : encFX op s m f a d = .long w) : Opens w op s ∧
    w.extractLsb' 9 7 = d ∧ w.extractLsb' 16 8 = a ∧ w.extractLsb' 24 5 = f ∧ w.extractLsb' 29 3 = m ∧
    (w.extractLsb' 24 1 = f.extractLsb' 0 1 ∧ w.extractLsb' 25 4 = f.extractLsb' 1 4) ∧
    (w.extractLsb' 24 3 = f.extractLsb' 0 3 ∧ w.extractLsb' 27 2 = f.extractLsb' 3 2) ∧
    (w.extractLsb' 24 4 = f.extractLsb' 0 4 ∧ w.extractLsb' 28 1 = f.extractLsb' 4 1) ∧
    w.extractLsb' 29 1 = m.extractLsb' 0 1 ∧ w.extractLsb' 30 2 = m.extractLsb' 1 2 := by
  obtain rfl := Enc.long.inj h
  refine ⟨opens_of_tail (m ++ f ++ a ++ d) op s, ?_⟩
  simp [field_operands, field_above (v := 16) (k := 7), field_within (v := 16) (k := 7), field_above (v := 8) (k := 8),
    field_within (v := 8) (k := 8), field_above (v := 3) (k := 5), field_within (v := 3) (k := 5)]

theorem encFM_fields {x c : BitVec 2} {v : BitVec 7} {b : BitVec 5} (h : encFM op s x c v b d = .long w) : Opens w op s ∧
    w.extractLsb' 9 7 = d ∧ w.extractLsb' 16 5 = b ∧ w.extractLsb' 21 7 = v ∧ w.extractLsb' 28 2 = c ∧ w.extractLsb' 30 2 = x ∧
    w.extractLsb' 30 1 = x.extractLsb' 0 1 ∧ w.extractLsb' 31 1 = x.extractLsb' 1 1 := by
  obtain rfl := Enc.long.inj h
  refine ⟨opens_of_tail (x ++ c ++ v ++ b ++ d) op s, ?_⟩
  simp [field_operands, field_above (v := 16) (k := 7), field_within (v := 16) (k := 7), field_above (v := 11) (k := 5),
    field_within (v := 11) (k := 5), field_above (v := 4) (k := 7), field_within (v := 4) (k := 7), field_above (v := 2) (k := 2),
    field_within (v := 2) (k := 2)]

theorem encFA_fields {o : BitVec 4} {v : BitVec 7} {b : BitVec 5} (h : encFA op s o v b d = .long w) : Opens w op s ∧
    w.extractLsb' 9 7 = d ∧ w.extractLsb' 16 5 = b ∧ w.extractLsb' 21 7 = v ∧ w.extractLsb' 28 4 = o := by
  obtain rfl := Enc.long.inj h
  refine ⟨opens_of_tail (o ++ v ++ b ++ d) op s, ?_⟩
  simp [field_operands, field_above (v := 16) (k := 7), field_within (v := 16) (k := 7), field_above (v := 11) (k := 5),
    field_within (v := 11) (k := 5), field_above (v := 4) (k := 7), field_within (v := 4) (k := 7)]

theorem encFB_fields {o : BitVec 19} {p : BitVec 4} (h : encFB op s o p = .long w) : Opens w op s ∧
    w.extractLsb' 9 4 = p ∧ w.extractLsb' 13 19 = o := by
  obtain rfl := Enc.long.inj h
  refine ⟨opens_of_tail (o ++ p) op s, ?_⟩
  simp [field_operands, field_above (v := 19) (k := 4), field_within (v := 19) (k := 4)]

theorem encFBL_fields {o : BitVec 23} (h : encFBL op s o = .long w) : Opens w op s ∧ w.extractLsb' 9 23 = o := by
  obtain rfl := Enc.long.inj h
  refine ⟨opens_of_tail o op s, ?_⟩
  simp [field_operands]

theorem encFK_fields {x : BitVec 1} {t k l : BitVec 5} (h : encFK op s x t k l d = .long w) : Opens w op s ∧
    w.extractLsb' 9 7 = d ∧ w.extractLsb' 16 5 = l ∧ w.extractLsb' 21 5 = k ∧ w.extractLsb' 26 5 = t ∧ w.extractLsb' 31 1 = x := by
  obtain rfl := Enc.long.inj h
  refine ⟨opens_of_tail (x ++ t ++ k ++ l ++ d) op s, ?_⟩
  simp [field_operands, field_above (v := 16) (k := 7), field_within (v := 16) (k := 7), field_above (v := 11) (k := 5),
    field_within (v := 11) (k := 5), field_above (v := 6) (k := 5), field_within (v := 6) (k := 5), field_above (v := 1) (k := 5),
    field_within (v := 1) (k := 5)]

theorem encFMM_fields {e : BitVec 2} {f : BitVec 4} {b a : BitVec 5} (h : encFMM op s e f b a d = .long w) : Opens w op s ∧
    w.extractLsb' 9 7 = d ∧ w.extractLsb' 16 5 = a ∧ w.extractLsb' 21 5 = b ∧ w.extractLsb' 26 4 = f ∧ w.extractLsb' 30 2 = e := by
  obtain rfl := Enc.long.inj h
  refine ⟨opens_of_tail (e ++ f ++ b ++ a ++ d) op s, ?_⟩
  simp [field_operands, field_above (v := 16) (k := 7), field_within (v := 16) (k := 7), field_above (v := 11) (k := 5),
    field_within (v := 11) (k := 5), field_above (v := 6) (k := 5), field_within (v := 6) (k := 5), field_above (v := 2) (k := 4),
    field_within (v := 2) (k := 4)]

end

theorem encH_fields {op : BitVec 4} {s : Bool} {b d : BitVec 5} {p : Parcel} (h : encH op s b d = .short p) :
    p.getLsbD 0 = false ∧ p[1] = s ∧ p.extractLsb' 2 4 = op ∧ p.extractLsb' 6 5 = d ∧ p.extractLsb' 11 5 = b := by
  obtain rfl := Enc.short.inj h
  refine ⟨bit_within (v := 15) (k := 1) _ _ (by decide),
    (bit_above (v := 15) (k := 1) _ _ (by decide)).trans ((bit_within (v := 14) (k := 1) _ _ (by decide)).trans (by simp)), ?_⟩
  simp [field_above (v := 15) (k := 1), field_above (v := 14) (k := 1), field_above (v := 10) (k := 4), field_within (v := 10) (k := 4),
    field_above (v := 5) (k := 5), field_within (v := 5) (k := 5)]

/-! ## Bytes and words (R18) -/

theorem word_of_bytes (w : Word) :
    w.extractLsb' 24 8 ++ w.extractLsb' 16 8 ++ w.extractLsb' 8 8 ++ w.extractLsb' 0 8 = w := by
  have h1 := BitVec.extractLsb'_append_extractLsb'_eq_extractLsb' (x := w) (start₂ := 24) (start₁ := 16) (len₁ := 8) (len₂ := 8) rfl
  have h2 := BitVec.extractLsb'_append_extractLsb'_eq_extractLsb' (x := w) (start₂ := 16) (start₁ := 8) (len₁ := 8) (len₂ := 16) rfl
  have h3 := BitVec.extractLsb'_append_extractLsb'_eq_extractLsb' (x := w) (start₂ := 8) (start₁ := 0) (len₁ := 8) (len₂ := 24) rfl
  rw [h1, h2, h3]
  exact BitVec.extractLsb'_eq_self

theorem parcel_of_bytes (p : Parcel) : p.extractLsb' 8 8 ++ p.extractLsb' 0 8 = p :=
  (BitVec.extractLsb'_append_extractLsb'_eq_extractLsb' (x := p) (start₂ := 8) (start₁ := 0) (len₁ := 8) (len₂ := 8) rfl).trans
    BitVec.extractLsb'_eq_self

theorem decodeBytes_long {w : Word} (h : w.getLsbD 0 = true) (rest : List Byte) :
    decodeBytes ((Enc.long w).bytes ++ rest) = (decodeWord w).map fun i => (i, rest) := by
  have h0 : (w.extractLsb' 0 8).getLsbD 0 = true := by simpa using h
  simp only [Enc.bytes, List.cons_append, List.nil_append, decodeBytes, h0, if_true, word_of_bytes]

theorem decodeBytes_short {p : Parcel} (h : p.getLsbD 0 = false) (rest : List Byte) :
    decodeBytes ((Enc.short p).bytes ++ rest) = (decodeParcel p).map fun i => (i, rest) := by
  have h0 : (p.extractLsb' 0 8).getLsbD 0 = false := by simpa using h
  simp only [Enc.bytes, List.cons_append, List.nil_append, decodeBytes, h0, Bool.false_eq_true, if_false, parcel_of_bytes]


/-! ## Decoding what was encoded -/

theorem decodeWord_encode {i : Instr} {w : Word} (h : encode i = .long w) :
    w.getLsbD 0 = true ∧ decodeWord w = .ok i := by
  cases i
  case iadd | isub | imul | imad | imulh | imulhn | imin | iminn | imax | imaxn | and | or | xor | andn | shl | shr | sar | rotl
    | iadd64 | isub64 | lea | sel | bfe | bfi | idiv | idivn | irem | iremn | fadd | fsub | fmul | ffma | fmin | fmax | fdiv |
    fadd2 | fmul2 | ffma2 | fdot2 | shfl | matchI | hash | hash64 | crc | part | hist | scmp | sfind =>
    obtain ⟨ho, hd, ha, hb⟩ := encF3_fields h
    exact ⟨ho.first, by simp [decodeWord, ho.sw, ho.low, ho.high, hd, ha, hb, decodeRow0, decodeRow1, decodeRow2,
      decodeRow4, decodeRow5, decodeRow6, decodeRow7, decodeRow8]⟩
  case iaddi | andi | ori | xori | shli | shri | sari | shflx | rdlane | wrlane | gget | rdsr | wrsr =>
    obtain ⟨ho, hd, ha, hi, hlow, htop⟩ := encFI_fields h
    exact ⟨ho.first, by simp [decodeWord, ho.sw, ho.low, ho.high, hd, ha, hi, hlow, htop, field_above (v := 1)
      (k := 7), field_within (v := 1) (k := 7), decodeRow3, decodeRow7, decodeRow13, decodeRow15]⟩
  case movi | movhi =>
    obtain ⟨ho, hd, hi⟩ := encFW_fields h
    exact ⟨ho.first, by simp [decodeWord, ho.sw, ho.low, ho.high, hd, hi, decodeRow3, decodeRow4]⟩
  case icmp | fcmp =>
    obtain ⟨ho, hd, ha, hc, hp⟩ := encFC_fields h
    exact ⟨ho.first, by simp [decodeWord, ho.sw, ho.low, ho.high, hd, ha, hc, hp, decodeRow4, decodeRow6]⟩
  case iun | funI | cvtF2bf | cvtBf2f | cvtF2i | cvtF2n | cvtI2f | cvtN2f | cvtF2i64 | cvtI642f | voteAny | voteAll | voteBallot
    | voteCount | scan | reduce | shash | spfx | slen | waitm | defarr | cpyqStatus | cpyqTl | cpyqDrop | tbind | tsetEmpty |
    tsetFilling | tsetReady | tsetDraining | twait | tfree | mclose | mcloseResume | mwait | mabort | gset | bar | bara | barw |
    tktTake | tktWaitp | tktPut | tktSkip | qpush | qpop | tlwait | tlrd | nred | endif | brk | cont | ret | jmpi | calli |
    elect | yield | exit | nop | spawn | uisend | uimask | uipend | uiack | uiret | uiwait | vacq | vrel | vkill | rdlive | uprd
    | upwr | trap | tret | halt | classq | evict | faultreq | waitf =>
    obtain ⟨ho, hd, ha, hf, hm, ⟨h1, h1z⟩, ⟨h3, h3z⟩, ⟨h4, h4z⟩, hx, hxz⟩ := encFX_fields h
    exact ⟨ho.first, by simp [decodeWord, ho.sw, ho.low, ho.high, hd, ha, hf, hm, h1, h1z, h3, h3z, h4, h4z, hx, hxz,
      field_above (v := 4) (k := 1), field_within (v := 4) (k := 1), field_above (v := 2) (k := 3), field_within
      (v := 2) (k := 3), field_above (v := 1) (k := 4), field_within (v := 1) (k := 4), field_above (v := 2) (k := 1),
      field_within (v := 2) (k := 1), decodeRow4, decodeRow6, decodeRow7, decodeRow8, decodeRow10, decodeRow11,
      decodeRow12, decodeRow13, decodeRow14, decodeRow15]⟩
  case ld | st | ldq | stq | ldcv | stcv | tld | tst | tldt | pref | mona | poll =>
    obtain ⟨ho, hd, hb, hv, hc, hw, hlow, htop⟩ := encFM_fields h
    exact ⟨ho.first, by simp [decodeWord, ho.sw, ho.low, ho.high, hd, hb, hv, hc, hw, hlow, htop, field_above (v := 1)
      (k := 1), field_within (v := 1) (k := 1), decodeRow9, decodeRow10]⟩
  case atom | red | tatom =>
    obtain ⟨ho, hd, hb, hv, hop⟩ := encFA_fields h
    exact ⟨ho.first, by simp [decodeWord, ho.sw, ho.low, ho.high, hd, hb, hv, hop, decodeRow9, decodeRow10]⟩
  case elseI | loop | endloop | brq | ifp =>
    obtain ⟨ho, hp, hoff⟩ := encFB_fields h
    exact ⟨ho.first, by simp [decodeWord, ho.sw, ho.low, ho.high, hp, hoff, decodeRow4, decodeRow6, decodeRow14]⟩
  case bra | call =>
    obtain ⟨ho, hoff⟩ := encFBL_fields h
    exact ⟨ho.first, by simp [decodeWord, ho.sw, ho.low, ho.high, hoff, decodeRow14]⟩
  case cpyin | cpyout | cpygg | gather | scatter | pscat =>
    obtain ⟨ho, hd, hl, hk, ht, hx⟩ := encFK_fields h
    exact ⟨ho.first, by simp [decodeWord, ho.sw, ho.low, ho.high, hd, hl, hk, ht, hx, decodeRow11]⟩
  case mma | mepi =>
    obtain ⟨ho, hd, ha, hb, hf, he⟩ := encFMM_fields h
    exact ⟨ho.first, by simp [decodeWord, ho.sw, ho.low, ho.high, hd, ha, hb, hf, he, decodeRow12, decodeRow13]⟩
  all_goals cases h

/-- The one 16-bit form whose bits would be the parcel 0x0000 is not well formed (R22). -/
theorem movH_ne_zero {d b : Short} {s : Bool} {p : Parcel} (h : encode (.movH d b s) = .short p)
    (hw : (Instr.movH d b s).WellFormed) : p ≠ 0 := by
  rintro rfl
  obtain ⟨-, hs, -, hd, hb⟩ := encH_fields h
  have hd0 : d = .v 0 := by rw [← Short.ofBits_bits d, ← hd]; rfl
  have hb0 : b = .v 0 := by rw [← Short.ofBits_bits b, ← hb]; rfl
  have hs0 : s = false := hs.symm
  subst hd0 hb0 hs0
  exact absurd hw (by unfold Instr.WellFormed; decide)

/-- A parcel whose opcode is not 0 is not the parcel 0x0000. -/
theorem ne_zero_of_opcode {p : Parcel} {op : BitVec 4} (h : p.extractLsb' 2 4 = op) (ho : op ≠ 0) : p ≠ 0 := by
  rintro rfl
  exact ho (h.symm.trans (by simp))

theorem decodeParcel_encode {i : Instr} {p : Parcel} (h : encode i = .short p) (hw : i.WellFormed) :
    p.getLsbD 0 = false ∧ decodeParcel p = .ok i := by
  cases i
  case movH d b s =>
    have h0 := movH_ne_zero h hw
    obtain ⟨hf, hs, hop, hd, hb⟩ := encH_fields h
    exact ⟨hf, by rw [decodeParcel, if_neg h0]; simp [hs, hop, hd, hb]⟩
  case movi5H | iaddH | iaddi5H | isubH | imulH | andH | orH | xorH | shli5H | shri5H | sari5H | faddH | fmulH | ffmaH | fmaxH =>
    obtain ⟨hf, hs, hop, hd, hb⟩ := encH_fields h
    have h0 := ne_zero_of_opcode hop (by decide)
    exact ⟨hf, by rw [decodeParcel, if_neg h0]; simp [hs, hop, hd, hb]⟩
  all_goals cases h

/-- Settles O57, by the length of the encoding: a word or a parcel is read back format by format, and the bytes behind it stay. -/
theorem decodeOfEncode : Obligations.DecodeOfEncode := by
  intro i rest hw hn
  cases h : encode i with
  | long w =>
    obtain ⟨h0, hd⟩ := decodeWord_encode h
    rw [decodeBytes_long h0, hd]
    rfl
  | short p =>
    obtain ⟨h0, hd⟩ := decodeParcel_encode h hw
    rw [decodeBytes_short h0, hd]
    rfl
  | none => exact absurd h hn

end Sys2Proof

namespace Sys2Proof.Machine

/-! ## Integer lane functions as arithmetic on their operands (R286, R287) -/

theorem sub_eq_ofInt {n : Nat} (x y : BitVec n) : x - y = BitVec.ofInt n (x.toNat - y.toNat) := by
  rw [Int.sub_eq_add_neg, BitVec.ofInt_add, BitVec.ofInt_neg, BitVec.ofInt_natCast, BitVec.ofInt_natCast, BitVec.ofNat_toNat,
    BitVec.ofNat_toNat, BitVec.setWidth_eq, BitVec.setWidth_eq, BitVec.sub_eq_add_neg]

theorem add_signExtend_eq_ofInt {n m : Nat} (x : BitVec n) (i : BitVec m) :
    x + i.signExtend n = BitVec.ofInt n (x.toInt + i.toInt) := by
  rw [BitVec.ofInt_add, BitVec.ofInt_toInt]
  rfl

theorem mul_eq_ofNat {n : Nat} (x y : BitVec n) : x * y = BitVec.ofNat n (x.toNat * y.toNat) :=
  BitVec.eq_of_toNat_eq (by rw [BitVec.toNat_mul, BitVec.toNat_ofNat])

theorem shl32_eq (x y : Word) : shl32 x y = BitVec.ofNat 32 (x.toNat * 2 ^ y.toNat) := by
  unfold shl32
  apply BitVec.eq_of_toNat_eq
  split
  · next h =>
    obtain ⟨k, hk⟩ := Nat.exists_eq_add_of_le h
    rw [hk, Nat.pow_add, Nat.mul_left_comm, BitVec.toNat_ofNat, Nat.mul_mod_right]
    rfl
  · simp [Nat.shiftLeft_eq]

theorem shr32_eq (x y : Word) : shr32 x y = BitVec.ofNat 32 (x.toNat / 2 ^ y.toNat) := by
  unfold shr32
  apply BitVec.eq_of_toNat_eq
  have hx := x.isLt
  split
  · next h =>
    have : x.toNat < 2 ^ y.toNat := Nat.lt_of_lt_of_le hx (Nat.pow_le_pow_right (by decide) h)
    simp [Nat.div_eq_of_lt this]
  · rw [BitVec.toNat_ofNat, Nat.mod_eq_of_lt (Nat.lt_of_le_of_lt (Nat.div_le_self _ _) hx), BitVec.toNat_ushiftRight,
      Nat.shiftRight_eq_div_pow]

/-- A shift by 31 or more fills with the sign, as the rounded quotient does. -/
theorem toInt_div_pow_of_le (x : Word) {n : Nat} (h : 31 ≤ n) : x.toInt / 2 ^ n = x.toInt / 2 ^ 31 := by
  have h1 := x.le_two_mul_toInt
  have h2 := x.two_mul_toInt_lt
  have hp : (2 : Int) ^ 31 ≤ 2 ^ n := by exact_mod_cast Nat.pow_le_pow_right (by decide) h
  by_cases hx : 0 ≤ x.toInt
  · rw [Int.ediv_eq_zero_of_lt hx (by omega), Int.ediv_eq_zero_of_lt hx (by omega)]
  · have hneg : ∀ m : Int, 2 ^ 31 ≤ m → x.toInt / m = -1 := fun m hm => by
      rw [Int.ediv_eq_iff_of_pos (by omega)]
      omega
    rw [hneg _ hp, hneg _ (Int.le_refl _)]

theorem sar32_eq (x y : Word) : sar32 x y = BitVec.ofInt 32 (x.toInt / 2 ^ y.toNat) := by
  have h : (x.sshiftRight (min y.toNat 31)).toInt = x.toInt / 2 ^ y.toNat := by
    rw [BitVec.toInt_sshiftRight, Int.shiftRight_eq_div_pow]
    by_cases hy : y.toNat ≤ 31
    · simp [Nat.min_eq_left hy]
    · rw [Nat.min_eq_right (by omega), toInt_div_pow_of_le x (n := y.toNat) (by omega)]
      rfl
  rw [← h, BitVec.ofInt_toInt]
  rfl

theorem toNat_setWidth_word {n : Nat} (i : BitVec n) (h : n ≤ 32) : (i.setWidth 32).toNat = i.toNat :=
  (BitVec.toNat_setWidth ..).trans (Nat.mod_eq_of_lt (Nat.lt_of_lt_of_le i.isLt (Nat.pow_le_pow_right (by decide) h)))

/-! ## Lane instructions of one and of two operands -/

theorem lane1_yields {i : Instr} {d : Name} (f g : Word → Word) (hu : DstUniform i d) (he : ∀ s, exec i s = lane1 i d f s)
    (hg : ∀ x, f x = g x) : Yields i d .one (fun v k => r32 (g (v.w 0 k))) :=
  (funext hg : f = g) ▸ lanePure_yields hu he

theorem lane2_yields {i : Instr} {d : Name} (f g : Word → Word → Word) (hu : DstUniform i d) (he : ∀ s, exec i s = lane2 i d f s)
    (hg : ∀ x y, f x y = g x y) : Yields i d .one (fun v k => r32 (g (v.w 0 k) (v.w 1 k))) :=
  (funext fun x => funext (hg x) : f = g) ▸ lanePure_yields hu he

/-- Settles O3, instruction by instruction: each is a lane instruction of the shape and the function of its 32-bit counterpart. -/
theorem shortIntegerYields : Obligations.ShortIntegerYields := by
  intro d b im sw
  refine ⟨?mov, ?movi, ?add, ?addi, ?sub, ?mul, ?and, ?or, ?xor, ?shl, ?shr, ?sar⟩
  case mov => exact lane1_yields id id (fun _ => rfl) (fun _ => rfl) fun _ => rfl
  case movi => exact lanePure_yields (fun _ => rfl) (fun _ => rfl)
  case add => exact lane2_yields (· + ·) (fun x y => BitVec.ofNat 32 (x.toNat + y.toNat)) (fun _ => rfl) (fun _ => rfl) BitVec.add_def
  case addi =>
    exact lane1_yields (· + im.signExtend 32) (fun x => BitVec.ofInt 32 (x.toInt + im.toInt)) (fun _ => rfl) (fun _ => rfl)
      fun x => add_signExtend_eq_ofInt x im
  case sub => exact lane2_yields (· - ·) (fun x y => BitVec.ofInt 32 (x.toNat - y.toNat)) (fun _ => rfl) (fun _ => rfl) sub_eq_ofInt
  case mul => exact lane2_yields (· * ·) (fun x y => BitVec.ofNat 32 (x.toNat * y.toNat)) (fun _ => rfl) (fun _ => rfl) mul_eq_ofNat
  case and => exact lane2_yields (· &&& ·) (· &&& ·) (fun _ => rfl) (fun _ => rfl) fun _ _ => rfl
  case or => exact lane2_yields (· ||| ·) (· ||| ·) (fun _ => rfl) (fun _ => rfl) fun _ _ => rfl
  case xor => exact lane2_yields (· ^^^ ·) (· ^^^ ·) (fun _ => rfl) (fun _ => rfl) fun _ _ => rfl
  case shl =>
    exact lane1_yields (shl32 · (im.setWidth 32)) (fun x => BitVec.ofNat 32 (x.toNat * 2 ^ im.toNat)) (fun _ => rfl) (fun _ => rfl)
      fun x => by rw [shl32_eq, toNat_setWidth_word im (by decide)]
  case shr =>
    exact lane1_yields (shr32 · (im.setWidth 32)) (fun x => BitVec.ofNat 32 (x.toNat / 2 ^ im.toNat)) (fun _ => rfl) (fun _ => rfl)
      fun x => by rw [shr32_eq, toNat_setWidth_word im (by decide)]
  case sar =>
    exact lane1_yields (sar32 · (im.setWidth 32)) (fun x => BitVec.ofInt 32 (x.toInt / 2 ^ im.toNat)) (fun _ => rfl) (fun _ => rfl)
      fun x => by rw [sar32_eq, toNat_setWidth_word im (by decide)]

end Sys2Proof.Machine

namespace Sys2Proof.Machine

/-! ## Uniform transfers (R357) -/

/-- A relative target, counted in parcels. -/
theorem Env.rel_eq {n : Nat} (v : Env) (o : BitVec n) : v.rel o = v.p.pc + BitVec.ofInt 64 (2 * o.toInt) := by
  unfold Env.rel
  rw [BitVec.shiftLeft_eq_mul_twoPow, BitVec.ofInt_mul, BitVec.mul_comm]
  rfl

theorem transferReg_even {s : State} {a : DWord} {ws : List Write} (h : a.getLsbD 0 = false) :
    transferReg s a ws = .done s { target := some a, writes := ws } := if_neg (by rw [h]; decide)

theorem transferReg_odd {s : State} {a : DWord} {ws : List Write} (h : a.getLsbD 0 = true) :
    transferReg s a ws = .trap causeALIGN a := if_pos h

/-- An instruction that goes to a register's value. -/
theorem transferReg_does {i : Instr} {ws : Env → List Write}
    (he : ∀ s, exec i s = issue i (fun v s => transferReg s (v.dw 0 0) (ws v)) s) :
    Does i (fun v _ => (v.dw 0 0).getLsbD 0 = false) (fun _ s => s) (fun v _ => { target := some (v.dw 0 0), writes := ws v }) :=
  does_of he fun _ _ h => transferReg_even h

theorem transferReg_traps {i : Instr} {ws : Env → List Write}
    (he : ∀ s, exec i s = issue i (fun v s => transferReg s (v.dw 0 0) (ws v)) s) :
    Traps i (fun v _ => (v.dw 0 0).getLsbD 0 = true) 0x09 (fun v _ => v.dw 0 0) :=
  traps_of he fun _ _ h => transferReg_odd h

/-- Settles O12, transfer by transfer; those to a register share what an even and an odd target do. -/
theorem transfersComplete : Obligations.TransfersComplete := by
  refine ⟨fun d a o p o' sw => ?_, fun d a sw i hi => ?_⟩
  · intro rel
    refine ⟨?bra, ?brqTaken, ?brqNot, ?call, ?calli, ?jmpi, ?ret, ?nop⟩
    case bra => exact does_of (fun _ => rfl) fun v s _ => by rw [v.rel_eq]; rfl
    case brqTaken => exact does_of (fun _ => rfl) fun v s h => by rw [if_pos (by simpa using h), v.rel_eq]; rfl
    case brqNot => exact does_of (fun _ => rfl) fun v s h => if_neg (by simpa using h)
    case call => exact does_of (fun _ => rfl) fun v s _ => by rw [v.rel_eq]
    case calli => exact transferReg_does fun _ => rfl
    case jmpi => exact transferReg_does (ws := fun _ => []) fun _ => rfl
    case ret => exact transferReg_does (ws := fun _ => []) fun _ => rfl
    case nop => exact does_of (fun _ => rfl) fun _ _ _ => rfl
  · simp only [List.mem_cons, List.not_mem_nil, or_false] at hi
    obtain rfl | rfl | rfl := hi
    · exact transferReg_traps (ws := fun v => dstWrites d .pair 1 [r64 (v.p.pc + 4)]) fun _ => rfl
    · exact transferReg_traps (ws := fun _ => []) fun _ => rfl
    · exact transferReg_traps (ws := fun _ => []) fun _ => rfl

end Sys2Proof.Machine

namespace Sys2Proof.Machine

/-! ## Fetch (R18 to R21) -/

theorem ofNat_valueOf_pair (lo hi : Byte) : BitVec.ofNat 16 (valueOf [lo, hi]) = hi ++ lo := by
  apply BitVec.eq_of_toNat_eq
  have h1 := lo.isLt
  have h2 := hi.isLt
  rw [BitVec.toNat_append, BitVec.toNat_ofNat, ← Nat.shiftLeft_add_eq_or_of_lt h1, Nat.shiftLeft_eq]
  simp [valueOf]
  omega

/-- The two bytes at a location, the lower one first. -/
theorem readLoc_two (s : State) (key loc : Nat) :
    BitVec.ofNat 16 (s.readLoc key loc 2) = s.readByte key (loc + 1) ++ s.readByte key loc :=
  ofNat_valueOf_pair (s.readByte key loc) (s.readByte key (loc + 1))

section
variable {s : State} {p : Ply} {a : Attr} {loc : Nat}

/-- With the bytes in the module, a parcel is what memory holds or what the instruction cache kept. -/
theorem parcelAt_of_codeHere (h : codeHere s p a loc = true) : ∃ q, parcelAt s p a loc = some q ∧
    (q = s.readByte a.key (loc + 1) ++ s.readByte a.key loc ∨ ∃ x, (s.core p.core).code.get? loc = some x ∧ q = x.parcel) := by
  rw [← readLoc_two]
  simp only [parcelAt, h, if_true]
  cases hc : (s.core p.core).code.get? loc with
  | none => exact ⟨_, rfl, .inl rfl⟩
  | some x =>
    by_cases hx : x.launch = p.ctx * 64 + p.lid ∧ x.key = a.key
    · simp only [hx, and_self, if_true]
      by_cases hn : x.parcel ≠ BitVec.ofNat 16 (s.readLoc a.key loc 2) ∧ Config.staleCode p.core s.cycle loc = true
      · exact ⟨x.parcel, by rw [if_pos hn], .inr ⟨x, rfl, rfl⟩⟩
      · exact ⟨_, by rw [if_neg hn], .inl rfl⟩
    · simp only [if_neg hx]
      exact ⟨_, rfl, .inl rfl⟩

theorem parcelAt_of_not_codeHere (h : codeHere s p a loc = false) (hc : (s.core p.core).code.get? loc = none) :
    parcelAt s p a loc = none := by
  simp [parcelAt, h, hc]

end

/-- The fetch of a parcel whose page the core can translate for this launch. -/
theorem fetchParcel_of_lookup {s : State} {p : Ply} {va : DWord} {loc : Nat} (hv : p.verdict = .retry) (hc : canonical va = true)
    (ht : (s.attrAt p.core p.ctx p.lid va).target = 0) (hb : attrBad (s.attrAt p.core p.ctx p.lid va) = false)
    (hr : replBad (s.attrAt p.core p.ctx p.lid va) loc = false)
    (hk : tierOf loc ≤ 1 → (s.attrAt p.core p.ctx p.lid va).key / 8 = (s.ctx p.ctx).tenant)
    (hl : lookup s p.core (s.ctx p.ctx).pasid va false false true = .ok loc) :
    fetchParcel s p va = (parcelAt s p (s.attrAt p.core p.ctx p.lid va) loc).elim (.line va loc) .ok := by
  have hbad : (decide (tierOf loc ≤ 1) && decide ((s.attrAt p.core p.ctx p.lid va).key / 8 ≠ (s.ctx p.ctx).tenant)) = false := by
    simpa using hk
  simp only [fetchParcel, hv, hc, ht, hb, hr, hl, hbad]
  cases parcelAt s p (s.attrAt p.core p.ctx p.lid va) loc <;> simp

theorem fetch_of_one {s : State} {p : Ply} {lo : Parcel} {i : Instr} (h : fetchParcel s p p.pc = .ok lo) (h0 : lo.getLsbD 0 = false)
    (hd : decodeBytes (parcelBytes lo) = .ok (i, [])) : fetch s p = .ok i := by
  simp only [fetch, h, h0, Bool.false_eq_true, if_false, decodeOr, hd]

theorem fetch_of_two {s : State} {p : Ply} {lo hi : Parcel} {i : Instr} (h : fetchParcel s p p.pc = .ok lo)
    (h0 : lo.getLsbD 0 = true) (h' : fetchParcel s p (p.pc + 2) = .ok hi)
    (hd : decodeBytes (parcelBytes lo ++ parcelBytes hi) = .ok (i, [])) : fetch s p = .ok i := by
  simp only [fetch, h, h0, if_true, h', decodeOr, hd]

/-! ## The step of a chosen ply (R384) -/

section
variable {s : State} {key : Nat} {turn : Turn} {p : Ply}

theorem step_of_chosen (hph : s.phase = .running) (hn : takeNet s = none) (hd : dueStep s = none)
    (hc : chooseTurn s = some (key, turn)) : step s = runPly s key turn := by
  simp only [step, stepOf, hph, hn, hd, hc, reduceCtorEq, if_false]

theorem runPly_next {i : Instr} {t : State} (hp : s.plies.get? key = some p) (hf : fetch s p = .ok i)
    (hs : stopsFor s key p turn i = false) (he : exec i (takeTurn (keepCode s p i) key p turn) = .next t) :
    runPly s key turn = .next (settle s key p i t) := by
  simp [runPly, hp, hf, hs, he]

theorem runPly_fault {i : Instr} {f : Fault} (hp : s.plies.get? key = some p) (hf : fetch s p = .ok i)
    (hs : stopsFor s key p turn i = false) (he : exec i (takeTurn (keepCode s p i) key p turn) = .fault f) :
    runPly s key turn = .fault f := by
  simp [runPly, hp, hf, hs, he]

theorem runPly_stops {i : Instr} (hp : s.plies.get? key = some p) (hf : fetch s p = .ok i)
    (hs : stopsFor s key p turn i = true) : runPly s key turn = .next (noteSerial s p.ctx key p) := by
  simp [runPly, hp, hf, hs]

theorem runPly_of_illegal {enc : DWord} (hp : s.plies.get? key = some p) (hf : fetch s p = .illegal enc) :
    runPly s key turn = .next (settleStop (takeTrap s key causeILLEGAL enc p.pc) key p) := by
  simp only [runPly, hp, hf]

end

theorem keepParcel_cores (s : State) (p : Ply) (va : DWord) : ∃ cs, keepParcel s p va = { s with cores := cs } := by
  unfold keepParcel
  split
  · simp only
    split
    · exact ⟨_, rfl⟩
    · exact ⟨s.cores, rfl⟩
  · exact ⟨s.cores, rfl⟩

theorem keepCode_cores (s : State) (p : Ply) (i : Instr) : ∃ cs, keepCode s p i = { s with cores := cs } := by
  obtain ⟨c1, h1⟩ := keepParcel_cores s p p.pc
  unfold keepCode
  simp only
  split
  · obtain ⟨c2, h2⟩ := keepParcel_cores (keepParcel s p p.pc) p (p.pc + 2)
    exact ⟨c2, by rw [h2, h1]⟩
  · exact ⟨c1, h1⟩

/-- Settles O54, clause by clause: what a parcel reads, what its parcels decode to, what the step does with it, what keeping it changes. -/
theorem stepRunsDecoded : Obligations.StepRunsDecoded := by
  refine ⟨fun s p va loc hv hc => ?_, fun s p lo hi i h => ⟨fetch_of_one h, fun h0 h' => fetch_of_two h h0 h'⟩, ?_, fun s p i => ?_⟩
  · intro a now ht hb hr hk hl
    have hf := fetchParcel_of_lookup hv hc ht hb hr hk hl
    refine ⟨fun hh hx => ?_, fun hh => ?_, fun hh hx => ?_⟩
    · obtain ⟨q, hq, rfl | ⟨x, hget, rfl⟩⟩ := parcelAt_of_codeHere hh
      · rw [hf, hq]
        rfl
      · rw [hf, hq, hx x hget]
        rfl
    · obtain ⟨q, hq, hor⟩ := parcelAt_of_codeHere hh
      exact ⟨q, by rw [hf, hq]; rfl, hor⟩
    · rw [hf, parcelAt_of_not_codeHere hh hx]
      rfl
  · intro s key turn p i hph hn hd hc hp hf
    rw [step_of_chosen hph hn hd hc]
    exact ⟨fun hs t => runPly_next hp hf hs, fun hs f => runPly_fault hp hf hs, runPly_stops hp hf⟩
  · obtain ⟨cs, h⟩ := keepCode_cores s p i
    rw [h]

/-! ## The launch of a ply through a trap (R432, R433) -/

section
variable {s : State} {key : Nat} {p q : Ply}

theorem launchRec_congr {t : State} (h : t.skeins = s.skeins) : t.launchRec q = s.launchRec q := by
  simp only [State.launchRec, State.skein?, h]

theorem killContext_skeins {kind : Nat} {cause pc val : DWord} : (killContext s p kind cause pc val).skeins = s.skeins := by
  unfold killContext
  cases s.ctxs.get? p.ctx with
  | none => rfl
  | some c => cases h : c.killed <;> simp [freezeCtx, h]

theorem tryTrapEntry_skeins : (tryTrapEntry s key).skeins = s.skeins := by
  unfold tryTrapEntry
  cases s.plies.get? key with
  | none => rfl
  | some p =>
    simp only
    split
    · split
      · rfl
      · split
        · rfl
        · split
          · exact killContext_skeins
          · rfl
    · rfl

theorem leaveQueues_launchRec : (leaveQueues s p key).launchRec q = s.launchRec q := by
  simp only [leaveQueues, State.launchRec, State.skein?, State.modSkein_skeins, State.modPart_skeins]
  by_cases h : q.skeinKey = p.skeinKey
  · rw [h, Table.get?_modify_self]
    cases s.skeins.get? p.skeinKey <;> rfl
  · rw [Table.get?_modify_other _ _ h]

theorem takeTrap_launchRec {cause : Nat} {val rpc : DWord} : (takeTrap s key cause val rpc).launchRec q = s.launchRec q := by
  unfold takeTrap
  cases s.plies.get? key with
  | none => rfl
  | some p =>
    simp only
    split
    · exact launchRec_congr killContext_skeins
    · rw [launchRec_congr tryTrapEntry_skeins, leaveQueues_launchRec]
      rfl

end

theorem settleStop_of_not_det {s : State} {key : Nat} {p : Ply} (h : s.det p = false) : settleStop s key p = s := by
  simp [settleStop, h]

theorem fetch_of_zero {s : State} {p : Ply} (h : fetchParcel s p p.pc = .ok 0) : fetch s p = .illegal 0 := by
  rw [fetch, h]
  rfl

/-- Settles O55: the parcel decodes to nothing, and a ply that is not deterministic has nothing to settle after its trap. -/
theorem zeroParcelTraps : Obligations.ZeroParcelTraps := by
  refine ⟨fun rest => rfl, fun s key turn p hph hn hd hc hp hf hdet => ?_⟩
  have hdet' : (takeTrap s key causeILLEGAL 0 p.pc).det p = false := by
    rw [State.det, takeTrap_launchRec]
    exact hdet
  rw [step_of_chosen hph hn hd hc, runPly_of_illegal hp (fetch_of_zero hf), settleStop_of_not_det hdet']
  rfl

end Sys2Proof.Machine

namespace Sys2Proof.Machine

/-- Settles O56: the decoder, run on each word, gives the instruction. -/
theorem decodeWords : Obligations.DecodeWords := by
  and_intros <;> rfl

end Sys2Proof.Machine

namespace Sys2Proof.Machine

/-! ## The checks before issue (R41) -/

/-- Every encoded instruction means an issue with a body of its own; IUN has one for its pair function and one for the others. -/
theorem exec_issues {i : Instr} (h : encode i ≠ .none) : ∃ body, ∀ s, exec i s = issue i body s := by
  cases i
  case iun d a f sw =>
    by_cases hf : f = 11
    · exact ⟨_, fun s => if_pos hf⟩
    · exact ⟨_, fun s => if_neg hf⟩
  case iadd | isub | imul | imad | imulh | imulhn | imin | iminn | imax | imaxn | and | or | xor | andn | shl
    | shr | sar | rotl | iadd64 | isub64 | lea | sel | bfe | bfi | idiv | idivn | irem | iremn | fadd | fsub |
    fmul | ffma | fmin | fmax | fdiv | fadd2 | fmul2 | ffma2 | fdot2 | shfl | matchI | hash | hash64 | crc |
    part | hist | scmp | sfind | iaddi | andi | ori | xori | shli | shri | sari | shflx | rdlane | wrlane |
    gget | rdsr | wrsr | movi | movhi | icmp | fcmp | funI | cvtF2bf | cvtBf2f | cvtF2i | cvtF2n | cvtI2f |
    cvtN2f | cvtF2i64 | cvtI642f | voteAny | voteAll | voteBallot | voteCount | scan | reduce | shash | spfx |
    slen | waitm | defarr | cpyqStatus | cpyqTl | cpyqDrop | tbind | tsetEmpty | tsetFilling | tsetReady |
    tsetDraining | twait | tfree | mclose | mcloseResume | mwait | mabort | gset | bar | bara | barw | tktTake
    | tktWaitp | tktPut | tktSkip | qpush | qpop | tlwait | tlrd | nred | endif | brk | cont | ret | jmpi |
    calli | elect | yield | exit | nop | spawn | uisend | uimask | uipend | uiack | uiret | uiwait | vacq |
    vrel | vkill | rdlive | uprd | upwr | trap | tret | halt | classq | evict | faultreq | waitf | ld | st |
    ldq | stq | ldcv | stcv | tld | tst | tldt | pref | mona | poll | atom | red | tatom | elseI | loop |
    endloop | brq | ifp | bra | call | cpyin | cpyout | cpygg | gather | scatter | pscat | mma | mepi | movH |
    movi5H | iaddH | iaddi5H | isubH | imulH | andH | orH | xorH | shli5H | shri5H | sari5H | faddH | fmulH |
    ffmaH | fmaxH =>
    exact ⟨_, fun _ => rfl⟩
  all_goals exact absurd rfl h

/-- The state in which an instruction is checked: the ply at its issue cycle, nothing read yet. -/
def checkedAt (i : Instr) (s : State) (key : Nat) (p : Ply) : State := { s.setPly key (issuePly i s p) with cycle := issueAt i s p }

section
variable {i : Instr} {s : State} {key : Nat} {p : Ply} (body : Env → State → Res)

/-- The statically and the dynamically legal instruction (R40). -/
def LegalAt (i : Instr) (s : State) (key : Nat) (p : Ply) : Prop :=
  i.legal = true ∧ dynIllegal (checkedAt i s key p) (issuePly i s p) i = false

/-- An instruction that passes ILLEGAL, PRIV and REGPOOL. -/
def Admitted (i : Instr) (s : State) (key : Nat) (p : Ply) : Prop :=
  LegalAt i s key p ∧ levelOf i ≤ p.tl ∧ (issuePly i s p).regpool i = none

theorem not_legalAt_iff : ¬ LegalAt i s key p ↔ (!i.legal || dynIllegal (checkedAt i s key p) (issuePly i s p) i) = true := by
  cases h : i.legal <;> simp [LegalAt, h]

theorem LegalAt.passes (h : LegalAt i s key p) : (!i.legal || dynIllegal (checkedAt i s key p) (issuePly i s p) i) = false := by
  simp [h.1, h.2]

theorem issueFor_of_illegal (hh : p.held = none) (h : ¬ LegalAt i s key p) :
    issueFor i body s key p = takeTrap (checkedAt i s key p) key causeILLEGAL (encode i).value p.pc := by
  have h' := not_legalAt_iff.1 h
  simp only [checkedAt, issuePly, issueAt] at h' ⊢
  simp only [issueFor, commit_held, hh, h', commit_pc, if_true]

theorem issueFor_of_priv (hh : p.held = none) (h : LegalAt i s key p) (hl : p.tl < levelOf i) :
    issueFor i body s key p = takeTrap (checkedAt i s key p) key causePRIV (encode i).value p.pc := by
  have h' := h.passes
  simp only [checkedAt, issuePly, issueAt] at h' ⊢
  simp only [issueFor, commit_held, hh, h', commit_pc, commit_tl, hl, if_true, Bool.false_eq_true, if_false]

theorem issueFor_of_regpool (hh : p.held = none) (h : LegalAt i s key p) (hl : levelOf i ≤ p.tl) {n : Nat}
    (hr : (issuePly i s p).regpool i = some n) :
    issueFor i body s key p = takeTrap (checkedAt i s key p) key causeREGPOOL (BitVec.ofNat 64 n) p.pc := by
  have h' := h.passes
  simp only [checkedAt, issuePly, issueAt] at h' hr ⊢
  simp only [issueFor, commit_held, hh, h', commit_pc, commit_tl, Nat.not_lt.2 hl, hr, Bool.false_eq_true, if_false]

theorem issueFor_of_strict (hh : p.held = none) (h : Admitted i s key p) (ha : afterStrict i = true) (hs : p.strict ≠ 0) :
    issueFor i body s key p = (checkedAt i s key p).modPly key fun q => q.waitOn (.quiet false) 0 none := by
  obtain ⟨hlegal, hl, hr⟩ := h
  have h' := hlegal.passes
  simp only [checkedAt, issuePly, issueAt] at h' hr ⊢
  simp only [issueFor, commit_held, hh, h', commit_tl, Nat.not_lt.2 hl, hr, Bool.false_eq_true, if_false, ha, commit_strict, hs, ne_eq,
    not_false_eq_true, decide_true, Bool.and_true, if_true]

/-- No strict access has to come back first (R150). -/
def QuietEnough (i : Instr) (p : Ply) : Prop := afterStrict i = true → p.strict = 0

theorem QuietEnough.passes (h : QuietEnough i p) : (afterStrict i && decide (p.strict ≠ 0)) = false := by
  cases ha : afterStrict i with
  | false => rfl
  | true => simp [h ha]

theorem issueFor_of_full (hh : p.held = none) (h : Admitted i s key p) (hq : QuietEnough i p) (hl : landsOf i = true)
    (ho : 8 ≤ p.out.length) :
    issueFor i body s key p = (checkedAt i s key p).modPly key fun q => q.waitOn .landRoom 0 none := by
  obtain ⟨hlegal, hlev, hr⟩ := h
  have h' := hlegal.passes
  have hq' := hq.passes
  simp only [checkedAt, issuePly, issueAt] at h' hr ⊢
  simp only [issueFor, commit_held, hh, h', commit_tl, Nat.not_lt.2 hlev, hr, Bool.false_eq_true, if_false, commit_strict, hq',
    commit_out, hl, ho, decide_true, Bool.and_true, if_true]

theorem issueFor_of_debugTrap (hh : p.held = none) (h : Admitted i s key p) (hq : QuietEnough i p)
    (hroom : landsOf i = true → p.out.length < 8) (hd : (checkedAt i s key p).debug (issuePly i s p) = true)
    (he : i.shape.thread = true → p.em ≠ 0) {cause : Nat} {val : DWord}
    (ht : (issuePly i s p).debugTrap (issueAt i s p) i = some (cause, val)) :
    issueFor i body s key p = takeTrap (checkedAt i s key p) key cause val p.pc := by
  obtain ⟨hlegal, hlev, hr⟩ := h
  have h' := hlegal.passes
  have hq' := hq.passes
  have hroom' : (landsOf i && decide (8 ≤ p.out.length)) = false := by simpa using hroom
  have he' : (i.shape.thread && decide (p.em = 0)) = false := by simpa using he
  simp only [checkedAt, issuePly, issueAt] at h' hr hd ht ⊢
  simp only [issueFor, commit_held, hh, h', commit_pc, commit_tl, Nat.not_lt.2 hlev, hr, Bool.false_eq_true, if_false, commit_strict, hq',
    commit_out, hroom', hd, commit_em, he', Bool.not_false, Bool.and_true, if_true, ht]

end

/-- Settles O41: every encoded instruction is an issue, whose checks stand in this order. -/
theorem issueChecksInOrder : Obligations.IssueChecksInOrder := by
  intro i s key p henc hcur hp hh
  obtain ⟨body, hx⟩ := exec_issues henc
  have hex : exec i s = .next (issueFor i body s key p) := by simp only [hx, issue, hcur, hp]
  intro q st traps waits legal ready
  refine ⟨fun h => ?_, fun h hl => ?_, fun n h hl hr => ?_, fun h ha hs => ?_, fun h hq hl ho => ?_, fun cause val h hq hr hd he ht => ?_, ?_⟩
  · exact hex.trans (congrArg _ (issueFor_of_illegal body hh h))
  · exact hex.trans (congrArg _ (issueFor_of_priv body hh h hl))
  · exact hex.trans (congrArg _ (issueFor_of_regpool body hh h hl hr))
  · exact hex.trans (congrArg _ (issueFor_of_strict body hh h ha hs))
  · exact hex.trans (congrArg _ (issueFor_of_full body hh h hq hl ho))
  · exact hex.trans (congrArg _ (issueFor_of_debugTrap body hh h hq hr hd he ht))
  · rw [hx]
    rfl

end Sys2Proof.Machine

namespace Sys2Proof.Machine

/-! ## The checks of a record (R374) -/

section
variable {s : State} {ctx q seq : Nat} {r : List DWord}

theorem badFields_of_skeins (h : recNskein r = 0 ∨ recNply r = 0 ∨ 32 < recNply r ∨ recTilemem r % 2048 ≠ 0 ∨ recWord r 15 ≠ 0) :
    badFields r = true := by
  simp only [badFields, Bool.or_eq_true, decide_eq_true_eq]
  obtain h | h | h | h | h := h
  · exact .inl (.inl (.inl (.inr (.inl h))))
  · exact .inl (.inl (.inl (.inr (.inr (.inl h)))))
  · exact .inl (.inl (.inl (.inr (.inr (.inr (.inl h))))))
  · exact .inl (.inl (.inl (.inr (.inr (.inr (.inr (.inr (.inr (.inr (.inr (.inr (.inl h))))))))))))
  · exact .inl (.inl (.inl (.inl (.inl (.inr (.inr (.inr (.inr (.inr (.inr (.inr (.inr h))))))))))))

theorem recordFault_of_badFields (h : badFields r = true) : recordFault s ctx q seq r = some 0x21 := if_pos h

/-- A free-running record in a deterministic context. -/
theorem recordFault_of_quantum (hb : badFields r = false) (hn : neverFits r = false) (hd : recDet r = false)
    (hq : (s.ctx ctx).detq.toNat % 2 ^ 17 ≠ 0) : recordFault s ctx q seq r = some 0x23 := by
  have hq' : fieldOf (s.ctx ctx).detq 0 17 ≠ 0 := by simpa [fieldOf] using hq
  simp [recordFault, hb, hn, hd, hq']

/-- A record without dependences whose skeins do not make whole gangs. -/
theorem recordFault_of_gang (hb : badFields r = false) (hn : neverFits r = false) (hd : recDet r = false)
    (hq : (s.ctx ctx).detq = 0) (hdep : ∀ k < 4, (recWord r (8 + k)).getLsbD 63 = false) (hg : recGang r ≠ 0)
    (hm : recNskein r % recGang r ≠ 0) : recordFault s ctx q seq r = some 0x25 := by
  have hq' : fieldOf (s.ctx ctx).detq 0 17 = 0 := by rw [hq]; rfl
  simp only [recordFault, hb, hn, hd, hq']
  rw [if_neg (by simp), if_neg (by simp), if_neg (by simp), if_neg, if_pos ⟨hg, hm⟩]
  simp only [List.any_eq_true, List.mem_range, not_exists, not_and, Bool.and_eq_true]
  intro k hk hbit
  rw [hdep k hk] at hbit
  cases hbit

end

/-! ## Bytes of words (R4) -/

@[simp] theorem length_bytesOf (n x : Nat) : (bytesOf n x).length = n := by simp [bytesOf]

theorem bytesOf_succ (n x : Nat) : bytesOf (n + 1) x = BitVec.ofNat 8 x :: bytesOf n (x / 2 ^ 8) := by
  simp only [bytesOf, List.range_succ_eq_map, List.map_cons, List.map_map, Nat.mul_zero, Nat.pow_zero, Nat.div_one]
  congr 1
  refine List.map_congr_left fun i _ => ?_
  rw [Nat.div_div_eq_div_mul, ← Nat.pow_add]
  rw [Function.comp_apply, Nat.mul_succ, Nat.add_comm (8 * i)]

theorem valueOf_bytesOf (n x : Nat) : valueOf (bytesOf n x) = x % 2 ^ (8 * n) := by
  induction n generalizing x with
  | zero => simp [bytesOf, valueOf, Nat.mod_one]
  | succ n ih =>
    rw [bytesOf_succ, valueOf, ih, BitVec.toNat_ofNat, Nat.mul_succ, Nat.add_comm (8 * n), Nat.pow_add, Nat.mod_mul]

theorem bytesOf_drop (k n x : Nat) : (bytesOf (k + n) x).drop k = bytesOf n (x / 2 ^ (8 * k)) := by
  induction k generalizing x with
  | zero => simp
  | succ k ih =>
    rw [Nat.succ_add, bytesOf_succ, List.drop_succ_cons, ih, Nat.div_div_eq_div_mul, ← Nat.pow_add, Nat.mul_succ, Nat.add_comm 8]

theorem bytesOf_take {k n : Nat} (h : k ≤ n) (x : Nat) : (bytesOf n x).take k = bytesOf k x := by
  rw [bytesOf, ← List.map_take, List.take_range, Nat.min_eq_left h]
  rfl

/-- A field of a word, read from its bytes. -/
theorem valueOf_field {k n : Nat} (h : k + n ≤ 8) (x : DWord) :
    valueOf (((w64 x).drop k).take n) = (x.extractLsb' (8 * k) (8 * n)).toNat := by
  obtain ⟨m, hm⟩ := Nat.exists_eq_add_of_le h
  have e : w64 x = bytesOf (k + (n + m)) x.toNat := congrArg (bytesOf · x.toNat) (hm.trans (Nat.add_assoc ..))
  rw [e, bytesOf_drop, bytesOf_take (Nat.le_add_right n m), valueOf_bytesOf, BitVec.extractLsb'_toNat,
    Nat.shiftRight_eq_div_pow]

theorem toNat_extract_fieldAt (lo v start len : Nat) (h : start + len ≤ 64) :
    ((fieldAt lo v).extractLsb' start len).toNat = v * 2 ^ lo / 2 ^ start % 2 ^ len := by
  rw [BitVec.extractLsb'_toNat, Nat.shiftRight_eq_div_pow, fieldAt, BitVec.toNat_ofNat]
  obtain ⟨m, hm⟩ := Nat.exists_eq_add_of_le h
  rw [hm, Nat.add_assoc, Nat.pow_add 2 start, Nat.mod_mul_right_div_self, Nat.mod_mod_of_dvd _ (Nat.pow_dvd_pow 2 (Nat.le_add_right _ _))]

/-! ## Completion records (R376) -/

/-- Status and code of a record. -/
def completionStatus (l : Launch) : Nat × Nat :=
  match l.st with
  | .refused c => (2, c)
  | _ => (if l.nfail ≠ 0 ∨ l.killed = true then 1 else 0, 0)

/-- The second word of a record: failures, starvation, code and status. -/
def completionCounts (l : Launch) : DWord :=
  fieldAt 56 (completionStatus l).1 ||| fieldAt 48 (completionStatus l).2 ||| fieldAt 32 (min l.starve 65535) |||
    fieldAt 0 (l.nfail % 2 ^ 32)

/-- The first failed skein, in the upper half of the last word. -/
def completionFirst (l : Launch) : Nat := (l.ffirst.map (· % 2 ^ 32)).getD 0xFFFFFFFF

theorem completionRecord_eq (l : Launch) : completionRecord l =
    n64 l.seq ++ w64 (completionCounts l) ++ w64 (recWord l.lrec 12) ++ w64 (fieldAt 32 (completionFirst l)) := by
  unfold completionRecord completionCounts completionStatus completionFirst
  cases l.st <;> cases l.ffirst <;> rfl

theorem completionCounts_field (l : Launch) {start len : Nat} (h : start + len ≤ 64) :
    ((completionCounts l).extractLsb' start len).toNat =
      ((completionStatus l).1 * 2 ^ 56 / 2 ^ start % 2 ^ len ||| (completionStatus l).2 * 2 ^ 48 / 2 ^ start % 2 ^ len) |||
        min l.starve 65535 * 2 ^ 32 / 2 ^ start % 2 ^ len ||| l.nfail % 2 ^ 32 * 2 ^ 0 / 2 ^ start % 2 ^ len := by
  simp only [completionCounts, BitVec.extractLsb'_or, BitVec.toNat_or, toNat_extract_fieldAt _ _ _ _ h]

@[simp] theorem length_w64 (x : DWord) : (w64 x).length = 8 := length_bytesOf 8 _
@[simp] theorem length_n64 (x : Nat) : (n64 x).length = 8 := length_bytesOf 8 _

theorem completionFirst_lt (l : Launch) : completionFirst l < 2 ^ 32 := by
  unfold completionFirst
  cases l.ffirst with
  | none => decide
  | some n => exact Nat.mod_lt _ (by decide)

theorem completionStatus_field {l : Launch} {status code : Nat} (h : completionStatus l = (status, code)) (hc : code < 256)
    (hs : status < 256) : ((completionCounts l).extractLsb' 48 16).toNat = status * 256 + code := by
  have h1 : status * 2 ^ 56 / 2 ^ 48 % 2 ^ 16 = status <<< 8 := by
    rw [show status * 2 ^ 56 = status * 2 ^ 8 * 2 ^ 48 by rw [Nat.mul_assoc, ← Nat.pow_add], Nat.mul_div_cancel _ (Nat.two_pow_pos 48), Nat.mod_eq_of_lt (by omega),
      Nat.shiftLeft_eq]
  have h2 : code * 2 ^ 48 / 2 ^ 48 % 2 ^ 16 = code := by
    rw [Nat.mul_div_cancel _ (Nat.two_pow_pos 48), Nat.mod_eq_of_lt (by omega)]
  have h3 (x : Nat) : min x 65535 * 2 ^ 32 / 2 ^ 48 % 2 ^ 16 = 0 := by
    rw [Nat.div_eq_of_lt (by omega), Nat.zero_mod]
  have h4 (x : Nat) : x % 2 ^ 32 * 2 ^ 0 / 2 ^ 48 % 2 ^ 16 = 0 := by omega
  simp only [completionCounts_field l (start := 48) (len := 16) (by decide), h, h1, h2, h3, h4, Nat.or_zero]
  rw [← Nat.shiftLeft_add_eq_or_of_lt hc, Nat.shiftLeft_eq]

theorem completion_nfail (l : Launch) : ((completionCounts l).extractLsb' 0 32).toNat = l.nfail % 2 ^ 32 := by
  have h1 (x : Nat) : x * 2 ^ 56 / 2 ^ 0 % 2 ^ 32 = 0 := by
    rw [Nat.pow_zero, Nat.div_one]
    exact Nat.mod_eq_zero_of_dvd (Nat.dvd_mul_left_of_dvd (Nat.pow_dvd_pow 2 (by decide)) x)
  have h2 (x : Nat) : x * 2 ^ 48 / 2 ^ 0 % 2 ^ 32 = 0 := by
    rw [Nat.pow_zero, Nat.div_one]
    exact Nat.mod_eq_zero_of_dvd (Nat.dvd_mul_left_of_dvd (Nat.pow_dvd_pow 2 (by decide)) x)
  have h3 (x : Nat) : x * 2 ^ 32 / 2 ^ 0 % 2 ^ 32 = 0 := by omega
  have h4 (x : Nat) : x % 2 ^ 32 * 2 ^ 0 / 2 ^ 0 % 2 ^ 32 = x % 2 ^ 32 := by omega
  simp only [completionCounts_field l (start := 0) (len := 32) (by decide), h1, h2, h3, h4, Nat.zero_or]

theorem completion_starve (l : Launch) : ((completionCounts l).extractLsb' 32 16).toNat = min l.starve 65535 := by
  have h1 (x : Nat) : x * 2 ^ 56 / 2 ^ 32 % 2 ^ 16 = 0 := by omega
  have h2 (x : Nat) : x * 2 ^ 48 / 2 ^ 32 % 2 ^ 16 = 0 := by omega
  have h3 (x : Nat) : min x 65535 * 2 ^ 32 / 2 ^ 32 % 2 ^ 16 = min x 65535 := by omega
  have h4 (x : Nat) : x % 2 ^ 32 * 2 ^ 0 / 2 ^ 32 % 2 ^ 16 = 0 := by omega
  simp only [completionCounts_field l (start := 32) (len := 16) (by decide), h1, h2, h3, h4, Nat.zero_or, Nat.or_zero]

/-- Bytes of the second word. -/
theorem completionRecord_counts (l : Launch) (k n : Nat) (h : k + n ≤ 8) :
    ((completionRecord l).drop (8 + k)).take n = ((w64 (completionCounts l)).drop k).take n := by
  rw [completionRecord_eq, List.append_assoc, List.append_assoc, List.drop_append, List.drop_of_length_le (by simp), List.nil_append,
    List.drop_append_of_le_length (by simp; omega), List.take_append_of_le_length (by simp; omega)]
  simp

theorem completionRecord_last (l : Launch) : (completionRecord l).drop 28 = (w64 (fieldAt 32 (completionFirst l))).drop 4 := by
  rw [completionRecord_eq, List.drop_append, List.drop_of_length_le (by simp), List.nil_append]
  simp

theorem completionRecord_tag (l : Launch) : ((completionRecord l).drop 16).take 8 = w64 (recWord l.lrec 12) := by
  rw [completionRecord_eq, List.append_assoc, List.append_assoc, ← List.append_assoc, List.drop_left' (by simp), List.take_left' (by simp)]

theorem valueOf_w64 (x : DWord) : valueOf (w64 x) = x.toNat := by
  rw [w64, valueOf_bytesOf]
  exact Nat.mod_eq_of_lt x.isLt

/-- What the fields of a record say. -/
theorem completionRecord_says (l : Launch) : (completionRecord l).length = 32 ∧ l.seq % 2 ^ 64 = valueOf ((completionRecord l).take 8) ∧
    valueOf (((completionRecord l).drop 8).take 4) = l.nfail % 2 ^ 32 ∧
    valueOf (((completionRecord l).drop 12).take 2) = min l.starve 65535 ∧
    valueOf (((completionRecord l).drop 16).take 8) = (recWord l.lrec 12).toNat ∧
    valueOf ((completionRecord l).drop 28) = completionFirst l := by
  refine ⟨?_, ?_, ?_, ?_, ?_, ?_⟩
  · simp [completionRecord_eq]
  · rw [completionRecord_eq, List.append_assoc, List.append_assoc, List.take_left' (length_n64 _), n64, valueOf_bytesOf]
  · rw [completionRecord_counts l 0 4 (by decide), valueOf_field (by decide), completion_nfail]
  · rw [completionRecord_counts l 4 2 (by decide), valueOf_field (by decide), completion_starve]
  · rw [completionRecord_tag, valueOf_w64]
  · rw [completionRecord_last, ← List.take_of_length_le (l := (w64 _).drop 4) (i := 4) (by simp), valueOf_field (by decide),
      toNat_extract_fieldAt _ _ _ _ (by decide)]
    have := completionFirst_lt l
    omega

theorem completionRecord_status {l : Launch} {status code : Nat} (h : completionStatus l = (status, code)) (hc : code < 256)
    (hs : status < 256) : valueOf (((completionRecord l).drop 14).take 2) = status * 256 + code := by
  rw [completionRecord_counts l 6 2 (by decide), valueOf_field (by decide)]
  exact completionStatus_field h hc hs

/-! ## Acceptance of a record (R372) -/

section
variable (s : State) (ctx q lid seq : Nat) (r : List DWord)

/-- The state in which a record has been taken: ACCEPTED written back, the launch in its slot. -/
def takenRecord (st : LaunchSt) (v : Variant) : State :=
  let put := svcPut s ctx lid (queueBase s ctx q + 8) (bytesOf 8 seq)
  { put with
    lqs := put.lqs.set (ctx * 8 + q) (seq, (put.lq ctx q).2)
    launches := put.launches.set (ctx * 64 + lid) (newLaunch put ctx lid q seq r st v) }

/-- A record that is taken, with the trees of its variant where it has some. -/
def acceptRecord (st : LaunchSt) (v : Variant) : State :=
  match v.trees with
  | some l => installTrees (takenRecord s ctx q lid seq r st v) ctx (recDet r) l
  | none => takenRecord s ctx q lid seq r st v

/-- What becomes of a record that is at hand. -/
def judgeRecord : State :=
  match recordFault s ctx q seq r with
  | some code => acceptRecord s ctx q lid seq r (.refused code) ⟨none, [], none⟩
  | none => match selectVariant s ctx lid r with
    | .need s => s
    | .refused code => acceptRecord s ctx q lid seq r (.refused code) ⟨none, [], none⟩
    | .chosen v => acceptRecord s ctx q lid seq r .dealing v

end

theorem selectVariant_of_none {s : State} {ctx lid : Nat} {r : List DWord} (h : recWord r 13 = 0) :
    selectVariant s ctx lid r = .chosen ⟨none, [], none⟩ := if_pos h

section
variable {s : State} {ctx q lid : Nat} {h : QueueHdr}

/-- A queue with a record whose words and whose ACCEPTED word are at hand. -/
theorem launchAcceptance_judges (ha : accepts s ctx q = true) (hl : freeLid s ctx = some lid) (hr : readQueue s ctx lid q = (some h, s))
    (h4 : 4 ≤ h.log2n) (h12 : h.log2n ≤ 12) (ht : (s.lq ctx q).1 < h.tail)
    (hrec : svcNeed s ctx lid false [(h.ring + BitVec.ofNat 64 (128 * ((s.lq ctx q).1 % 2 ^ h.log2n)), 128)] = none)
    (hword : svcNeed s ctx lid true [(queueBase s ctx q + 8, 8)] = none) :
    exec (.launchAcceptance ctx q) s = .next (judgeRecord s ctx q lid ((s.lq ctx q).1 + 1)
      (svcWords s ctx lid (h.ring + BitVec.ofNat 64 (128 * ((s.lq ctx q).1 % 2 ^ h.log2n))) 16)) := by
  change execLaunchAcceptance ctx q s = _
  have hbad : ¬ (h.log2n < 4 ∨ 12 < h.log2n ∨ h.tail ≤ (s.lq ctx q).1) := by omega
  simp only [execLaunchAcceptance, ha, hl, hr, hbad, hrec, hword, Bool.not_true, Bool.false_eq_true, if_false, Option.or_none, judgeRecord]
  cases recordFault s ctx q ((s.lq ctx q).1 + 1) (svcWords s ctx lid (h.ring + BitVec.ofNat 64 (128 * ((s.lq ctx q).1 % 2 ^ h.log2n))) 16) with
  | some code => rfl
  | none =>
    cases selectVariant s ctx lid (svcWords s ctx lid (h.ring + BitVec.ofNat 64 (128 * ((s.lq ctx q).1 % 2 ^ h.log2n))) 16) with
    | need t => rfl
    | refused code => rfl
    | chosen v => cases hv : v.trees <;> simp only [acceptRecord, hv] <;> rfl

end

section
variable {s : State} {ctx q lid seq : Nat} {r : List DWord}

theorem judgeRecord_of_fault {code : Nat} (h : recordFault s ctx q seq r = some code) :
    judgeRecord s ctx q lid seq r = takenRecord s ctx q lid seq r (.refused code) ⟨none, [], none⟩ := by
  simp only [judgeRecord, h, acceptRecord]

/-- A record that names no variant table. -/
theorem judgeRecord_of_plain (h : recordFault s ctx q seq r = none) (hv : recWord r 13 = 0) :
    judgeRecord s ctx q lid seq r = takenRecord s ctx q lid seq r .dealing ⟨none, [], none⟩ := by
  simp only [judgeRecord, h, selectVariant_of_none hv, acceptRecord]

theorem judgeRecord_of_refused {code : Nat} (h : recordFault s ctx q seq r = none) (hv : selectVariant s ctx lid r = .refused code) :
    judgeRecord s ctx q lid seq r = takenRecord s ctx q lid seq r (.refused code) ⟨none, [], none⟩ := by
  simp only [judgeRecord, h, hv, acceptRecord]

theorem judgeRecord_of_trees {v : Variant} {l : List (List DWord)} (h : recordFault s ctx q seq r = none)
    (hv : selectVariant s ctx lid r = .chosen v) (ht : v.trees = some l) :
    judgeRecord s ctx q lid seq r = installTrees (takenRecord s ctx q lid seq r .dealing v) ctx (recDet r) l := by
  simp only [judgeRecord, h, hv, acceptRecord, ht]

end

/-! ## Completion records (R376, R514) -/

theorem completionRecordWrite_writes {s : State} {ctx q key : Nat} {l : Launch} {h : QueueHdr} (hn : nextToComplete s ctx q = some (key, l))
    (hr : readQueue s ctx l.lid q = (some h, s))
    (hs : svcNeed s ctx l.lid true [(h.cring + BitVec.ofNat 64 (32 * ((l.seq - 1) % 2 ^ h.log2n)), 32), (queueBase s ctx q + 16, 8)] = none) :
    let put := svcPut (svcPut s ctx l.lid (h.cring + BitVec.ofNat 64 (32 * ((l.seq - 1) % 2 ^ h.log2n))) (completionRecord l)) ctx l.lid
      (queueBase s ctx q + 16) (bytesOf 8 l.seq)
    exec (.completionRecordWrite ctx q) s = .next { put with
      lqs := put.lqs.set (ctx * 8 + q) ((put.lq ctx q).1, l.seq)
      launches := put.launches.erase key } := by
  change execCompletionRecordWrite ctx q s = _
  simp only [execCompletionRecordWrite, hn, hr, hs]

/-! ## Dealing (R378) -/

theorem nextPlace_of_alive {s : State} (hc : s.cursor < 128) (ha : s.alive (dealCore s.cursor) = true) : nextPlace s = some s.cursor := by
  rw [nextPlace, List.range_succ_eq_map, List.map_cons, List.find?_cons_of_pos] <;> rw [Nat.add_zero, Nat.mod_eq_of_lt hc]
  exact ha

theorem modHw_hwOf_self (s : State) (c : Nat) (f : CoreHw → CoreHw) : (s.modHw c f).hwOf c = f (s.hwOf c) := by
  simp [State.modHw, State.hwOf, Table.getD]

/-- A launch without dependences or with each met, no gang and not deterministic, deals its next skein to the cursor's core. -/
theorem skeinDeal_deals {s : State} {ctx lid : Nat} {l : Launch} (hl : s.launches.get? (ctx * 64 + lid) = some l) (hst : l.st = .dealing)
    (hdep : depsMet s l = true) (hdet : recDet l.lrec = false) (hg : recGang l.lrec = 0) (hn : l.next < recNskein l.lrec)
    (hb : l.bound = none) (hc : s.cursor < 128) (ha : s.alive (dealCore s.cursor) = true)
    (hq : queueLen s (dealCore s.cursor) (s.launchClass l.ctx l.lid) < 64) :
    exec (.skeinDeal ctx lid) s = .next (dealtOne (enqueue { s with cursor := (s.cursor + 1) % 128 } (dealCore s.cursor) (tcbOf s l l.next))
      (ctx * 64 + lid)) := by
  change execSkeinDeal ctx lid s = _
  have hd : deals s l = true := by simp [deals, hst, hdep, hg, hn]
  have hq' : queueLen { s with cursor := (s.cursor + 1) % 128 } (dealCore s.cursor) (tcbOf s l l.next).pcls < 64 := hq
  simp only [execSkeinDeal, hl, hd, hb, hdet, nextPlace_of_alive hc ha, if_pos hq', Bool.not_true, Bool.false_eq_true, if_false]

theorem dealtOne_launch {s : State} {key : Nat} {l : Launch} (hl : s.launches.get? key = some l) (hst : l.st = .dealing)
    (hb : l.bound = none) : (dealtOne s key).launches.get? key =
      some { l with next := l.next + 1, st := if l.next + 1 = recNskein l.lrec then .dealt else .dealing } := by
  simp [dealtOne, State.modLaunch, hl, hst, ← hb]

theorem enqueue_queues (s : State) (core : Nat) (t : Tcb) :
    ((enqueue s core t).hwOf core).queues = (s.hwOf core).queues.modify t.pcls fun q => q ++ [t] := by
  rw [enqueue, modHw_hwOf_self]

/-- The TCB of a skein of a launch that is neither deterministic nor a gang's. -/
theorem tcbOf_plain {s : State} {l : Launch} (hdet : recDet l.lrec = false) (hg : recGang l.lrec = 0) (i : Nat) :
    tcbOf s l i = ⟨l.ctx, l.lid, s.launchClass l.ctx l.lid, false, false, recNskein l.lrec, i, none⟩ := by
  simp [tcbOf, hdet, hg]

theorem modify_of_get? {α : Type} {t : Table α} {k : Nat} {x : α} (f : α → α) (h : t.get? k = some x) : t.modify k f = t.set k (f x) := by
  rw [Table.modify, h]

theorem modLaunch_of_get? {s : State} {key : Nat} {l : Launch} (f : Launch → Launch) (h : s.launches.get? key = some l) :
    s.modLaunch key f = { s with launches := s.launches.set key (f l) } := by
  rw [State.modLaunch, modify_of_get? f h]

/-- The words of a launch's descriptor are those of its acceptance, whatever becomes of the launch. -/
theorem modLaunch_launchWord {f : Launch → Launch} (hf : ∀ l, (f l).desc = l.desc) (s : State) (key ctx lid n : Nat) :
    (s.modLaunch key f).launchWord ctx lid n = s.launchWord ctx lid n := by
  unfold State.launchWord State.modLaunch
  by_cases hl : lid < 64
  · simp only [hl, if_true]
    by_cases hk : ctx * 64 + lid = key
    · rw [hk, Table.get?_modify_self]
      cases s.launches.get? key with
      | none => rfl
      | some l => simp [hf]
    · rw [Table.get?_modify_other _ _ hk]
      rfl
  · simp only [hl, if_false]
    rfl

/-! ## Gangs that wait (R383) -/

section
variable {s : State} {ctx lid : Nat} {l : Launch}

theorem gangPlacement_waits (hl : s.launches.get? (ctx * 64 + lid) = some l) (hg : gangs s l = true) (hp : gangPlace s l = none)
    (hn : l.gangAt = none) : exec (.gangPlacement ctx lid) s = .next { s with
      launches := s.launches.set (ctx * 64 + lid) { l with gangAt := some s.tick } } := by
  change execGangPlacement ctx lid s = _
  simp only [execGangPlacement, hl, hg, hp, Bool.not_true, Bool.false_eq_true, if_false, modLaunch_of_get? _ hl, hn]

/-- The skeins that a reservation asks to leave. -/
def askedToLeave (s : State) (l : Launch) (cores : List Nat) : List (Nat × Skein) :=
  List.filter (fun k => cores.contains (k.1 / 16) && mayPreempt s l k.2) s.skeins

/-- A list of messages goes out in its order. -/
theorem foldl_send {α : Type} (f : α → Instr) (l : List α) (s : State) :
    l.foldl (fun s x => s.send (f x)) s = { s with net := s.net ++ l.map f } := by
  induction l generalizing s with
  | nil => simp
  | cons x l ih => rw [List.foldl_cons, ih]; simp [State.send]

theorem gangReservation_reserves {cores : List Nat} (hl : s.launches.get? (ctx * 64 + lid) = some l) (hd : reservationDue s l = true)
    (hc : gangCores s l = some cores) : exec (.gangReservation ctx lid) s = .next { s with
      launches := s.launches.set (ctx * 64 + lid) { l with held := cores, gangAt := some s.tick }
      net := s.net ++ (askedToLeave s l cores).map fun k => .preemptRequest k.1 true } := by
  change execGangReservation ctx lid s = _
  have hw := modLaunch_launchWord (f := fun l => { l with held := cores, gangAt := some s.tick }) (fun _ => rfl) s (ctx * 64 + lid)
  simp only [execGangReservation, hl, hd, hc, Bool.not_true, Bool.false_eq_true, if_false, foldl_send, mayPreempt, State.launchClass, hw]
  rw [modLaunch_of_get? _ hl]
  rfl

/-- A resident skein of a lower class that may leave is asked to. -/
theorem mem_askedToLeave {cores : List Nat} {x : Nat × Skein} (hx : x ∈ s.skeins) (hc : x.1 / 16 ∈ cores)
    (hcls : s.launchClass x.2.ctx x.2.lid < s.launchClass l.ctx l.lid) (hpin : (s.launchWord x.2.ctx x.2.lid 0).getLsbD 51 = false)
    (hsave : x.2.save ≠ 0) : x ∈ askedToLeave s l cores := by
  have hmay : mayPreempt s l x.2 = true := by
    rw [mayPreempt, decide_eq_true hcls, hpin, decide_eq_true hsave]
    rfl
  simpa [askedToLeave, hx, hmay] using hc

theorem starveCount_counts {n : Nat} (hl : s.launches.get? (ctx * 64 + lid) = some l) (hd : starveDue s l = true)
    (hn : l.gangAt = some n) (hx : ∃ x ∈ s.skeins, x.1 / 16 ∈ l.held ∧ x.2.save = 0) :
    exec (.starveCount ctx lid) s = .next { s with
      launches := s.launches.set (ctx * 64 + lid) { l with starve := min 65535 (l.starve + 1), gangAt := some (n + 100000) } } := by
  change execStarveCount ctx lid s = _
  obtain ⟨x, hmem, hheld, hsave⟩ := hx
  have hstuck : (s.skeins.any fun k => l.held.contains (k.1 / 16) && !mayPreempt s l k.2) = true :=
    List.any_eq_true.2 ⟨x, hmem, by simp [hheld, mayPreempt, hsave]⟩
  simp only [execStarveCount, hl, hd, hstuck, Bool.not_true, Bool.false_eq_true, if_false, if_true, modLaunch_of_get? _ hl, hn,
    Option.map_some]

end

/-! ## The kernel boundary (R168) -/

section
variable {s : State}

theorem pump_of_no_txns (n : Nat) (h : s.txns = []) : pump n s = s := by
  cases n with
  | zero => rfl
  | succ n => rw [pump, h]; rfl

theorem pumpAll_of_no_txns (h : s.txns = []) : s.pumpAll = s := pump_of_no_txns _ h

/-- Homes with one request, which its first move ends. -/
theorem pumpAll_of_one {t : Txn} {s' : State} (h : s.txns = [t]) (hm : txnStep s [] t = some s') (h' : s'.txns = []) : s.pumpAll = s' := by
  rw [State.pumpAll, h]
  change pump (79 + 1) s = s'
  rw [pump, h, firstMove, hm]
  exact pump_of_no_txns _ h'

/-- The removal of a SHARED entry of a granule that is not withdrawn needs no drain. -/
theorem txnStep_drop_shared {t : Txn} {e : ClassEntry} (hst : t.stage = .classify) (hk : t.kind = .drop)
    (he : s.classes.get? t.gran = some e) (hc : e.cls = .shared) (hw : e.wd = false) :
    txnStep s [] t = some (endTxn { s with classes := s.classes.erase t.gran } t) := by
  have hd : drainsFor e t = [] := by simp [drainsFor, hc]
  have ha : applyClass s t = endTxn { s with classes := s.classes.erase t.gran } t := by
    simp [applyClass, hk, dropClass, Table.getD, he, hw]
  have hcl : t.classified = true := by simp [Txn.classified, hk]
  simp only [txnStep, hst, classStep, hcl, he, hd, ha, List.any_nil, Bool.and_false, Bool.not_true, Bool.false_eq_true, if_false]

variable {ctx lid : Nat} {l : Launch}

theorem kernelBoundary_collects (hl : s.launches.get? (ctx * 64 + lid) = some l) (hst : l.st = .dealt) (he : l.ended = recNskein l.lrec)
    (hd : l.draining = 0) (hg : grainsLeft s l = []) (ht : s.txns = []) : exec (.kernelBoundary ctx lid) s = .next { s with
      launches := s.launches.set (ctx * 64 + lid) { l with draining := 1 } } := by
  change execKernelBoundary ctx lid s = _
  simp only [execKernelBoundary, hl, if_pos (And.intro hst he), if_pos hd, hg]
  rw [show askCollect s [] = s from rfl, pumpAll_of_no_txns (s := State.modLaunch ..) ht, modLaunch_of_get? _ hl]

/-- With the partials collected, the class entries go. -/
theorem kernelBoundary_drops (hl : s.launches.get? (ctx * 64 + lid) = some l) (hst : l.st = .dealt) (he : l.ended = recNskein l.lrec)
    (hd : l.draining = 1) (ht : s.txns = []) : exec (.kernelBoundary ctx lid) s =
      .next ((dropClasses s ctx lid).modLaunch (ctx * 64 + lid) fun l => { l with draining := 2 }).pumpAll := by
  change execKernelBoundary ctx lid s = _
  have hd0 : ¬ l.draining = 0 := by omega
  simp only [execKernelBoundary, hl, if_pos (And.intro hst he), if_neg hd0, if_pos hd, ht, List.any_nil, Bool.false_eq_true, if_false]

theorem kernelBoundary_finishes (hl : s.launches.get? (ctx * 64 + lid) = some l) (hst : l.st = .dealt) (he : l.ended = recNskein l.lrec)
    (hd : l.draining = 2) (hc : classesLeft s ctx lid = false) :
    let noCode (m : CoreMem) : CoreMem := { m with code := m.code.filter fun _ x => decide (x.launch ≠ ctx * 64 + lid) }
    exec (.kernelBoundary ctx lid) s = .next { s with
      cores := List.map (fun (c : Nat × CoreMem) => (c.1, noCode c.2)) s.cores
      launches := s.launches.set (ctx * 64 + lid) { l with st := .finished } } := by
  change execKernelBoundary ctx lid s = _
  have hd0 : ¬ l.draining = 0 := by omega
  have hd1 : ¬ l.draining = 1 := by omega
  simp only [execKernelBoundary, hl, if_pos (And.intro hst he), if_neg hd0, if_neg hd1, hc, Bool.false_eq_true, if_false]
  rw [modLaunch_of_get? _ (by exact hl)]

theorem dropClasses_of_none (hc : s.classes = []) (hcores : s.cores = []) : dropClasses s ctx lid = s := by
  simp only [dropClasses, hc, hcores, List.filter_nil, List.foldl_nil, List.map_nil]
  rw [← hcores, ← hc]

/-- The only class entry is the launch's: its home is asked to remove it. -/
theorem dropClasses_of_one {g : Nat} {e : ClassEntry} (hc : s.classes = [(g, e)]) (hctx : e.ctx = ctx) (hlid : e.lid = lid)
    (ht : s.txns = []) : ∃ t, (dropClasses s ctx lid).txns = [t] ∧ t.stage = .classify ∧ t.kind = .drop ∧ t.gran = g ∧
      (dropClasses s ctx lid).classes = s.classes ∧ (dropClasses s ctx lid).launches = s.launches ∧ (dropClasses s ctx lid).mem = s.mem := by
  have hgone : List.filter (fun (x : Nat × ClassEntry) => decide (x.2.ctx = ctx ∧ x.2.lid = lid)) s.classes = [(g, e)] := by
    rw [hc]
    simp [hctx, hlid]
  simp only [dropClasses, hgone, List.foldl_cons, List.foldl_nil, ht, List.any_nil, Bool.false_eq_true, if_false]
  exact ⟨_, rfl, rfl, rfl, rfl, rfl, rfl, rfl⟩

theorem kernelBoundary_drops_shared {g : Nat} {e : ClassEntry} (hl : s.launches.get? (ctx * 64 + lid) = some l) (hst : l.st = .dealt)
    (he : l.ended = recNskein l.lrec) (hd : l.draining = 1) (hc : s.classes = [(g, e)]) (hctx : e.ctx = ctx) (hlid : e.lid = lid)
    (hcls : e.cls = .shared) (hwd : e.wd = false) (ht : s.txns = []) :
    ∃ t, exec (.kernelBoundary ctx lid) s = .next t ∧ t.classes = [] ∧ t.txns = [] ∧ t.mem = s.mem ∧
      t.launches.get? (ctx * 64 + lid) = some { l with draining := 2 } := by
  obtain ⟨t, htx, hstage, hkind, hgran, hclasses, hlaunches, hmem⟩ := dropClasses_of_one hc hctx hlid ht
  have hget : (dropClasses s ctx lid).classes.get? t.gran = some e := by simp [hclasses, hc, hgran, Table.get?]
  have hmove := txnStep_drop_shared (s := (dropClasses s ctx lid).modLaunch (ctx * 64 + lid) fun l => { l with draining := 2 })
    hstage hkind hget hcls hwd
  refine ⟨_, (kernelBoundary_drops hl hst he hd ht).trans (congrArg _ (pumpAll_of_one htx hmove ?_)), ?_, ?_, ?_, ?_⟩
  · simp [endTxn, State.modLaunch, htx]
  · simp [endTxn, State.modLaunch, hclasses, hc, hgran, Table.erase]
  · simp [endTxn, State.modLaunch, htx]
  · simp [endTxn, State.modLaunch, hmem]
  · simp [endTxn, State.modLaunch, hlaunches, hl]

end

/-! ## What the start of a skein changes (R128, R215, R332, R379) -/

/-- A slice of zeros leaves no cells in its window. -/
theorem cellsOf_replicate_zero (a n : Nat) : cellsOf a (List.replicate n 0) = [] := by
  induction n generalizing a with
  | zero => rfl
  | succ n ih => rw [List.replicate_succ, cellsOf, ih]; rfl

theorem read_append_of_below {m r : Memory} {a : Nat} (h : ∀ c ∈ m, c.1 < a) : Memory.read (m ++ r) a = r.read a := by
  induction m with
  | nil => rfl
  | cons e m ih =>
    obtain ⟨b, x⟩ := e
    have hb : b < a := h (b, x) (List.mem_cons_self ..)
    rw [List.cons_append, Memory.read, if_neg (by omega), if_neg (by omega)]
    exact ih fun c hc => h c (List.mem_cons_of_mem _ hc)

/-- A cleared window reads as zeros (R215). -/
theorem read_splice_zeros {m : Memory} (h : m.wf = true) {a n i : Nat} (hi : i < n) :
    (m.splice a (List.replicate n 0)).read (a + i) = 0 := by
  obtain ⟨-, hd⟩ := Memory.dropWhile_wf h (a + n)
  rw [Memory.splice, cellsOf_replicate_zero, List.append_nil, List.length_replicate, read_append_of_below]
  · exact Memory.read_below fun c hc => by have := hd c hc; omega
  · intro c hc
    have : c.1 < a := of_decide_eq_true (List.all_eq_true.mp (List.all_takeWhile (l := m)) c hc)
    omega

theorem sendWb_net (s : State) (h : Hdr) (blk : Nat) (l : L1Line) (sd : BitVec 16) : ∃ net, sendWb s h blk l sd = { s with net := net } := by
  by_cases hsd : sd = 0
  · exact ⟨s.net, by rw [sendWb, if_pos hsd]⟩
  · exact ⟨_, by rw [sendWb, if_neg hsd]; rfl⟩

theorem evictL1_frame (s : State) (core blk : Nat) : ∃ net cs, evictL1 s core blk = { s with net := net, cores := cs } ∧
    ∀ c, c ≠ core → cs.getD c CoreMem.empty = s.core c := by
  unfold evictL1
  cases (s.core core).l1.get? blk with
  | none => exact ⟨s.net, s.cores, rfl, fun _ _ => rfl⟩
  | some l =>
    obtain ⟨net, hnet⟩ := sendWb_net s (homeHdr s core l.ten blk) blk l l.sd
    exact ⟨net, s.cores.set core { s.core core with l1 := (s.core core).l1.erase blk }, by simp only [hnet]; rfl,
      fun c hc => by simp [State.core, Table.getD, hc]⟩

theorem foldl_evictL1_frame (core : Nat) (l : List Nat) (s : State) :
    ∃ net cs, l.foldl (fun s b => evictL1 s core b) s = { s with net := net, cores := cs } ∧
      ∀ c, c ≠ core → cs.getD c CoreMem.empty = s.core c := by
  induction l generalizing s with
  | nil => exact ⟨s.net, s.cores, rfl, fun _ _ => rfl⟩
  | cons b l ih =>
    obtain ⟨n1, c1, h1, hc1⟩ := evictL1_frame s core b
    obtain ⟨n2, c2, h2, hc2⟩ := ih (evictL1 s core b)
    refine ⟨n2, c2, by rw [List.foldl_cons, h2, h1], fun c hc => (hc2 c hc).trans ?_⟩
    rw [h1]
    exact hc1 c hc

/-- With no partials of departed tenants, clearing a core writes lines back and drops them. -/
theorem clearAbsent_frame {s : State} {core ten : Nat} (h : absentGrains s core ten = []) :
    ∃ net cs, clearAbsent s core ten = { s with net := net, cores := cs } ∧ ∀ c, c ≠ core → cs.getD c CoreMem.empty = s.core c := by
  rw [clearAbsent, h]
  exact foldl_evictL1_frame core (absentLines s core ten) s

theorem prepareCore_frame (s : State) (core wbase wsize ctx lid : Nat) : ∃ hw, prepareCore s core wbase wsize ctx lid = { s with
    hw := hw, launches := s.launches.modify (ctx * 64 + lid) fun l => { l with ran := l.ran ||| (1#128 <<< core) } } := ⟨_, rfl⟩

theorem prepareCore_hwOf (s : State) (core wbase wsize ctx lid : Nat) :
    ((prepareCore s core wbase wsize ctx lid).hwOf core).queues = (s.hwOf core).queues ∧
      ((prepareCore s core wbase wsize ctx lid).hwOf core).tile = (s.hwOf core).tile.splice wbase (List.replicate wsize 0) := by
  have e (t : State) (f : Launch → Launch) (k c : Nat) : (t.modLaunch k f).hwOf c = t.hwOf c := rfl
  simp only [prepareCore, e, setEnergy, modHw_hwOf_self, and_self]

/-! ## The state in which a skein has started (R48, R379) -/

/-- The save area a skein takes, 0 for none. -/
def startArea (s : State) (ctx : Nat) : Nat := if hasSave (s.ctx ctx) then (freeArea (s.ctx ctx) (s.ctx ctx).saves).getD 0 else 0

/-- A save area noted at its context. -/
def withSave (s : State) (ctx area : Nat) : State := if area = 0 then s else s.modCtx ctx fun c => { c with saves := c.saves ++ [area] }

theorem withSave_frame (s : State) (ctx area : Nat) : ∃ cs, withSave s ctx area = { s with ctxs := cs } := by
  unfold withSave
  split
  · exact ⟨s.ctxs, rfl⟩
  · exact ⟨_, rfl⟩

/-- A context's descriptor is as it was. -/
theorem withSave_word (s : State) (ctx area c n : Nat) : ((withSave s ctx area).ctx c).word n = (s.ctx c).word n := by
  unfold withSave
  split
  · rfl
  · by_cases h : c = ctx
    · subst h
      simp only [State.ctx, Table.getD, State.modCtx, Table.get?_modify_self]
      cases s.ctxs.get? c <;> rfl
    · simp only [State.ctx, Table.getD, State.modCtx, Table.get?_modify_other _ _ h]

theorem withSave_launchWord (s : State) (ctx area c lid n : Nat) : (withSave s ctx area).launchWord c lid n = s.launchWord c lid n := by
  have hl : (withSave s ctx area).launches = s.launches := by
    obtain ⟨cs, h⟩ := withSave_frame s ctx area
    rw [h]
  simp only [State.launchWord, hl, withSave_word]

/-- A core made ready for a skein, and the skein's save area taken. -/
def readied (s : State) (core wbase : Nat) (t : Tcb) (r : List DWord) : State :=
  withSave (prepareCore s core wbase (recTilemem r) t.ctx t.lid) t.ctx (startArea s t.ctx)

theorem readied_frame (s : State) (core wbase : Nat) (t : Tcb) (r : List DWord) : ∃ hw cs, readied s core wbase t r = { s with
    hw := hw, ctxs := cs, launches := s.launches.modify (t.ctx * 64 + t.lid) fun l => { l with ran := l.ran ||| (1#128 <<< core) } } := by
  obtain ⟨hw, hp⟩ := prepareCore_frame s core wbase (recTilemem r) t.ctx t.lid
  obtain ⟨cs, h⟩ := withSave_frame (prepareCore s core wbase (recTilemem r) t.ctx t.lid) t.ctx (startArea s t.ctx)
  exact ⟨hw, cs, by rw [readied, h, hp]⟩

theorem readied_hwOf (s : State) (core wbase : Nat) (t : Tcb) (r : List DWord) :
    ((readied s core wbase t r).hwOf core).queues = (s.hwOf core).queues ∧
      ((readied s core wbase t r).hwOf core).tile = (s.hwOf core).tile.splice wbase (List.replicate (recTilemem r) 0) := by
  obtain ⟨cs, h⟩ := withSave_frame (prepareCore s core wbase (recTilemem r) t.ctx t.lid) t.ctx (startArea s t.ctx)
  rw [readied, h]
  exact prepareCore_hwOf s core wbase (recTilemem r) t.ctx t.lid

theorem readied_word (s : State) (core wbase : Nat) (t : Tcb) (r : List DWord) (c n : Nat) :
    ((readied s core wbase t r).ctx c).word n = (s.ctx c).word n := withSave_word _ _ _ _ _

theorem readied_launchWord (s : State) (core wbase : Nat) (t : Tcb) (r : List DWord) (c lid n : Nat) :
    (readied s core wbase t r).launchWord c lid n = s.launchWord c lid n := by
  rw [readied, withSave_launchWord]
  exact modLaunch_launchWord (f := fun l => { l with ran := l.ran ||| (1#128 <<< core) }) (fun _ => rfl)
    (setEnergy (s.modHw core _) core t.ctx _) _ c lid n

/-- The plies of a skein are put in place; none depends on those before it. -/
theorem foldl_setPly (base : Nat) (f : State → Nat → Ply) (hf : ∀ s k q p, f (s.setPly k q) p = f s p) (l : List Nat) (s : State) :
    l.foldl (fun s p => s.setPly (base + p) (f s p)) s =
      { s with plies := l.foldl (fun t p => t.set (base + p) (f s p)) s.plies } := by
  induction l generalizing s with
  | nil => rfl
  | cons x l ih =>
    rw [List.foldl_cons, ih, List.foldl_cons]
    simp only [hf]
    rfl

theorem get?_foldl_set {α : Type} (base : Nat) (f : Nat → α) (t : Table α) {n m : Nat} (h : n < m) :
    ((List.range m).foldl (fun t p => t.set (base + p) (f p)) t).get? (base + n) = some (f n) := by
  induction m with
  | zero => omega
  | succ m ih =>
    rw [List.range_succ, List.foldl_append, List.foldl_cons, List.foldl_nil, Table.get?_set]
    by_cases hn : n = m
    · rw [hn, if_pos rfl]
    · rw [if_neg (by omega), ih (by omega)]

theorem startNew_eq (s : State) (core slot wbase : Nat) (t : Tcb) (r : List DWord) : startNew s core slot wbase t r =
    let s1 := readied s core wbase t r
    { s1 with
      skeins := s.skeins.set (core * 16 + slot) (freshSkein t r (startArea s t.ctx) wbase)
      plies := (List.range (recNply r)).foldl (fun q p => q.set (core * 512 + slot * 32 + p) (freshPly s1 core slot p t r)) s.plies } := by
  have hs : (readied s core wbase t r).skeins = s.skeins ∧ (readied s core wbase t r).plies = s.plies := by
    obtain ⟨hw, cs, h⟩ := readied_frame s core wbase t r
    rw [h]
    exact ⟨rfl, rfl⟩
  change (List.range (recNply r)).foldl (fun s p => s.setPly (core * 512 + slot * 32 + p) (freshPly s core slot p t r))
    { readied s core wbase t r with
      skeins := (readied s core wbase t r).skeins.set (core * 16 + slot) (freshSkein t r (startArea s t.ctx) wbase) } = _
  rw [foldl_setPly (core * 512 + slot * 32) (fun s p => freshPly s core slot p t r) (fun _ _ _ _ => rfl), hs.1, ← hs.2]
  rfl

section
variable (s : State) (core slot wbase : Nat) (t : Tcb) (r : List DWord)

theorem startNew_skeins : (startNew s core slot wbase t r).skeins =
    s.skeins.set (core * 16 + slot) (freshSkein t r (startArea s t.ctx) wbase) := by rw [startNew_eq]

theorem startNew_launches : (startNew s core slot wbase t r).launches =
    s.launches.modify (t.ctx * 64 + t.lid) fun l => { l with ran := l.ran ||| (1#128 <<< core) } := by
  obtain ⟨hw, cs, h⟩ := readied_frame s core wbase t r
  simp only [startNew_eq, h]

theorem startNew_cores : (startNew s core slot wbase t r).cores = s.cores ∧ (startNew s core slot wbase t r).dir = s.dir := by
  obtain ⟨hw, cs, h⟩ := readied_frame s core wbase t r
  simp only [startNew_eq, h, and_self]

theorem startNew_word (c n : Nat) : ((startNew s core slot wbase t r).ctx c).word n = (s.ctx c).word n := by
  rw [startNew_eq]
  exact readied_word s core wbase t r c n

theorem startNew_hwOf : ((startNew s core slot wbase t r).hwOf core).queues = (s.hwOf core).queues ∧
    ((startNew s core slot wbase t r).hwOf core).tile = (s.hwOf core).tile.splice wbase (List.replicate (recTilemem r) 0) := by
  rw [startNew_eq]
  exact readied_hwOf s core wbase t r

theorem startNew_ply {n : Nat} (h : n < recNply r) : (startNew s core slot wbase t r).plies.get? (core * 512 + slot * 32 + n) =
    some (freshPly (readied s core wbase t r) core slot n t r) := by
  rw [startNew_eq]
  exact get?_foldl_set (core * 512 + slot * 32) (fun p => freshPly (readied s core wbase t r) core slot p t r) _ h

end

/-- A core cleared of the tenants that have left, for a TCB. -/
def clearedFor (s : State) (core : Nat) (t : Tcb) : State := clearAbsent s core (s.ctx t.ctx).tenant

theorem clearedFor_frame {s : State} {core : Nat} {t : Tcb} (h : absentGrains s core (s.ctx t.ctx).tenant = []) :
    ∃ net cs, clearedFor s core t = { s with net := net, cores := cs } ∧ ∀ c, c ≠ core → cs.getD c CoreMem.empty = s.core c :=
  clearAbsent_frame h

/-- A TCB that is not saved starts where its slot, its window and the partials of departed tenants allow it. -/
theorem startTcb_starts {s : State} {core slot wbase : Nat} {t : Tcb} (hsaved : t.saved = none)
    (hslot : freeSlot (skeinsOn s core) core = some slot) (hwin : freeWindow (skeinsOn s core) (recTilemem (tcbRec s t)) = some wbase)
    (habs : absentGrains s core (s.ctx t.ctx).tenant = []) :
    startTcb s core t = (startNew (clearedFor s core t) core slot wbase t (tcbRec s t), true) := by
  simp only [startTcb, hslot, hwin, habs, hsaved, ne_eq, not_true_eq_false, if_false, clearedFor]

theorem settleBoost_frame (s : State) (ctx : Nat) : ∃ cs, settleBoost s ctx = { s with ctxs := cs } := by
  unfold settleBoost
  split
  · exact ⟨_, rfl⟩
  · exact ⟨s.ctxs, rfl⟩

/-! ## The start of the next skein of a core (R48, R379) -/

section
variable {s : State} {core q slot wbase : Nat} {x : Tcb}

/-- A core whose class queue `q` has given up a TCB. -/
def CoreHw.without (h : CoreHw) (q : Nat) (x : Tcb) : CoreHw := { h with queues := h.queues.modify q fun l => l.erase x }

/-- The state after a skein has started from its class queue. -/
def skeinStarted (s : State) (core q slot wbase : Nat) (x : Tcb) : State :=
  settleBoost ((startNew (clearedFor s core x) core slot wbase x (tcbRec s x)).modHw core (·.without q x)) x.ctx

theorem skeinStart_starts (hn : nextStart s core = some (q, x)) (hsaved : x.saved = none)
    (hslot : freeSlot (skeinsOn s core) core = some slot) (hwin : freeWindow (skeinsOn s core) (recTilemem (tcbRec s x)) = some wbase)
    (habs : absentGrains s core (s.ctx x.ctx).tenant = []) :
    exec (.skeinStart core) s = .next (skeinStarted s core q slot wbase x) := by
  change execSkeinStart core s = _
  simp only [execSkeinStart, hn, startTcb_starts hsaved hslot hwin habs, skeinStarted, CoreHw.without]

theorem skeinStarted_frame (s : State) (core q slot wbase : Nat) (x : Tcb) : ∃ cs, skeinStarted s core q slot wbase x =
    { (startNew (clearedFor s core x) core slot wbase x (tcbRec s x)).modHw core (·.without q x) with ctxs := cs } := settleBoost_frame _ _

theorem skeinStarted_skein : (skeinStarted s core q slot wbase x).skeins.get? (core * 16 + slot) =
    some (freshSkein x (tcbRec s x) (startArea (clearedFor s core x) x.ctx) wbase) := by
  obtain ⟨cs, h⟩ := skeinStarted_frame s core q slot wbase x
  have hs : (skeinStarted s core q slot wbase x).skeins = (startNew (clearedFor s core x) core slot wbase x (tcbRec s x)).skeins := by
    rw [h]
    rfl
  rw [hs, startNew_skeins, Table.get?_set_self]

theorem skeinStarted_hwOf (habs : absentGrains s core (s.ctx x.ctx).tenant = []) :
    ((skeinStarted s core q slot wbase x).hwOf core).queues = (s.hwOf core).queues.modify q (fun l => l.erase x) ∧
      ((skeinStarted s core q slot wbase x).hwOf core).tile =
        (s.hwOf core).tile.splice wbase (List.replicate (recTilemem (tcbRec s x)) 0) := by
  obtain ⟨cs, h⟩ := skeinStarted_frame s core q slot wbase x
  obtain ⟨net, cores, hc, -⟩ := clearedFor_frame habs
  obtain ⟨hq, ht⟩ := startNew_hwOf (clearedFor s core x) core slot wbase x (tcbRec s x)
  have hs : (clearedFor s core x).hwOf core = s.hwOf core := by rw [hc]; rfl
  have hh : (skeinStarted s core q slot wbase x).hwOf core =
      ((startNew (clearedFor s core x) core slot wbase x (tcbRec s x)).hwOf core).without q x := by
    rw [h]
    exact modHw_hwOf_self (startNew (clearedFor s core x) core slot wbase x (tcbRec s x)) core (·.without q x)
  rw [hh]
  exact ⟨by rw [CoreHw.without, hq, hs], by rw [CoreHw.without, ht, hs]⟩

theorem skeinStarted_ply (habs : absentGrains s core (s.ctx x.ctx).tenant = []) {n : Nat} (hn : n < recNply (tcbRec s x)) :
    ∃ s1 : State, s1.launchWord x.ctx x.lid 2 = s.launchWord x.ctx x.lid 2 ∧
      (skeinStarted s core q slot wbase x).plies.get? (core * 512 + slot * 32 + n) = some (freshPly s1 core slot n x (tcbRec s x)) := by
  obtain ⟨cs, h⟩ := skeinStarted_frame s core q slot wbase x
  obtain ⟨net, cores, hc, -⟩ := clearedFor_frame habs
  have hp : (skeinStarted s core q slot wbase x).plies = (startNew (clearedFor s core x) core slot wbase x (tcbRec s x)).plies := by
    rw [h]
    rfl
  refine ⟨readied (clearedFor s core x) core wbase x (tcbRec s x), ?_, by rw [hp, startNew_ply _ _ _ _ _ _ hn]⟩
  rw [readied_launchWord, hc]
  rfl

end

/-! ## Gangs that start (R382) -/

theorem filter_set_other {α : Type} (f : Nat → Bool) (t : Table α) {k : Nat} (x : α) (h : f k = false) :
    List.filter (fun e => f e.1) (t.set k x) = List.filter (fun e => f e.1) t := by
  induction t with
  | nil => simp [Table.set, h]
  | cons e t ih =>
    obtain ⟨j, a⟩ := e
    rw [Table.set]
    split
    · rw [List.filter_cons, List.filter_cons, ih]
    · split
      · next hj =>
        subst hj
        simp [h]
      · simp [h]

theorem hasTenant_eq_any (s : State) (core ten : Nat) :
    hasTenant s core ten = (skeinsOn s core).any fun x => decide ((s.ctx x.2.ctx).tenant = ten) := by
  rw [skeinsOn, List.any_filter]
  rfl

/-- What the start of a skein on another core finds unchanged on a core. -/
structure LeavesCore (s t : State) (c : Nat) : Prop where
  skeins : skeinsOn t c = skeinsOn s c
  skein : ∀ k, k / 16 = c → t.skeins.get? k = s.skeins.get? k
  core : t.core c = s.core c
  dir : t.dir = s.dir
  tenant : ∀ x, (t.ctx x).tenant = (s.ctx x).tenant

theorem LeavesCore.refl (s : State) (c : Nat) : LeavesCore s s c := ⟨rfl, fun _ _ => rfl, rfl, rfl, fun _ => rfl⟩

theorem LeavesCore.trans {s t u : State} {c : Nat} (h : LeavesCore s t c) (h' : LeavesCore t u c) : LeavesCore s u c where
  skeins := h'.skeins.trans h.skeins
  skein k hk := (h'.skein k hk).trans (h.skein k hk)
  core := h'.core.trans h.core
  dir := h'.dir.trans h.dir
  tenant x := (h'.tenant x).trans (h.tenant x)

theorem LeavesCore.hasTenant {s t : State} {c : Nat} (h : LeavesCore s t c) (ten : Nat) : hasTenant t c ten = hasTenant s c ten := by
  simp only [hasTenant_eq_any, h.skeins, h.tenant]

theorem LeavesCore.absentGrains {s t : State} {c : Nat} (h : LeavesCore s t c) (ten : Nat) :
    absentGrains t c ten = absentGrains s c ten := by
  have hd (g : Nat) : t.dirOf g = s.dirOf g := by rw [State.dirOf, h.dir, State.dirOf]
  unfold Machine.absentGrains
  rw [h.core, funext hd, funext h.hasTenant]

/-- A member starts on one core and leaves the others. -/
theorem startNew_leaves {s : State} {core slot wbase : Nat} {t : Tcb} {r : List DWord}
    (habs : absentGrains s core (s.ctx t.ctx).tenant = []) (hslot : slot < 16) {c : Nat} (hc : c ≠ core) :
    LeavesCore s (startNew (clearedFor s core t) core slot wbase t r) c := by
  obtain ⟨net, cs, h, hcs⟩ := clearedFor_frame habs
  obtain ⟨hcores, hdir⟩ := startNew_cores (clearedFor s core t) core slot wbase t r
  have hk : (core * 16 + slot) / 16 = core := by omega
  have hsk : (clearedFor s core t).skeins = s.skeins := by rw [h]
  refine ⟨?_, fun k hkc => ?_, ?_, ?_, fun x => ?_⟩
  · rw [skeinsOn, startNew_skeins, hsk]
    exact filter_set_other (fun k => decide (k / 16 = c)) s.skeins _ (by simp [hk, Ne.symm hc])
  · rw [startNew_skeins, hsk]
    exact Table.get?_set_other _ _ (by omega)
  · rw [State.core, hcores, h]
    exact hcs c hc
  · rw [hdir, h]
  · rw [Ctx.tenant, startNew_word, h]
    rfl

/-- A core on which a member of a launch's gang can start. -/
structure CanStart (s : State) (l : Launch) (c : Nat) : Prop where
  below : c < 128
  slot : (freeSlot (skeinsOn s c) c).isSome = true
  window : (freeWindow (skeinsOn s c) (recTilemem l.lrec)).isSome = true
  clear : absentGrains s c (s.ctx l.ctx).tenant = []

theorem LeavesCore.canStart {s t : State} {l : Launch} {c : Nat} (h : LeavesCore s t c) (hc : CanStart s l c) : CanStart t l c := by
  obtain ⟨hb, hs, hw, ha⟩ := hc
  exact ⟨hb, h.skeins ▸ hs, h.skeins ▸ hw, by rw [h.absentGrains, h.tenant, ha]⟩

/-- A member of a launch's gang stands on a core. -/
def MemberAt (s : State) (l : Launch) (c n : Nat) : Prop :=
  ∃ slot k, slot < 16 ∧ s.skeins.get? (c * 16 + slot) = some k ∧ k.ctx = l.ctx ∧ k.lid = l.lid ∧ k.index = n ∧ k.gang = true

theorem LeavesCore.memberAt {s t : State} {l : Launch} {c n : Nat} (h : LeavesCore s t c) (hm : MemberAt s l c n) : MemberAt t l c n := by
  obtain ⟨slot, k, hs, hk, hrest⟩ := hm
  exact ⟨slot, k, hs, (h.skein _ (by omega)).trans hk, hrest⟩

theorem freeSlot_lt {on : List (Nat × Skein)} {core slot : Nat} (h : freeSlot on core = some slot) : slot < 16 := by
  unfold freeSlot leastBelow at h
  exact List.mem_range.1 (List.mem_of_find?_eq_some h)

section
variable {l : Launch} {s : State}

/-- The start of one member. -/
theorem startTcb_member {c n : Nat} {r : BitVec 128} (hg : recGang l.lrec ≠ 0) (hd : recDet l.lrec = false)
    (hl : s.launches.get? (l.ctx * 64 + l.lid) = some { l with ran := r }) (hc : CanStart s l c) :
    (startTcb s c (tcbOf s l n)).1.launches.get? (l.ctx * 64 + l.lid) = some { l with ran := r ||| (1#128 <<< c) } ∧
      MemberAt (startTcb s c (tcbOf s l n)).1 l c n ∧ ∀ d, d ≠ c → LeavesCore s (startTcb s c (tcbOf s l n)).1 d := by
  obtain ⟨slot, hslot⟩ := Option.isSome_iff_exists.1 hc.slot
  obtain ⟨wbase, hwin⟩ := Option.isSome_iff_exists.1 hc.window
  have hrec : tcbRec s (tcbOf s l n) = l.lrec := by simp only [tcbRec, tcbOf, hl]
  have habs : absentGrains s c (s.ctx (tcbOf s l n).ctx).tenant = [] := hc.clear
  obtain ⟨net, cs, hclear, -⟩ := clearedFor_frame habs
  have hlaunches : (clearedFor s c (tcbOf s l n)).launches = s.launches := by rw [hclear]
  rw [startTcb_starts rfl hslot (hrec ▸ hwin) habs]
  refine ⟨?_, ⟨slot, freshSkein (tcbOf s l n) (tcbRec s (tcbOf s l n)) (startArea (clearedFor s c (tcbOf s l n)) l.ctx) wbase, freeSlot_lt hslot,
    ?_, rfl, rfl, rfl, ?_⟩, fun d hne => startNew_leaves habs (freeSlot_lt hslot) hne⟩
  · rw [startNew_launches, hlaunches]
    simp [tcbOf, hl]
  · rw [startNew_skeins, Table.get?_set_self]
    rfl
  · simp [freshSkein, tcbOf, hg, hd]

/-- The members of a gang on their cores, counted from `i`. -/
def startMembers (l : Launch) (s : State) (cores : List (Nat × Nat)) : State :=
  cores.foldl (fun s x => (startTcb s x.1 (tcbOf s l (l.next + x.2))).1) s

theorem startMembers_start (hg : recGang l.lrec ≠ 0) (hd : recDet l.lrec = false) (cores : List Nat) (i : Nat) (r : BitVec 128)
    (hl : s.launches.get? (l.ctx * 64 + l.lid) = some { l with ran := r }) (hnd : cores.Nodup) (hc : ∀ c ∈ cores, CanStart s l c) :
    (∃ r', (startMembers l s (cores.zipIdx i)).launches.get? (l.ctx * 64 + l.lid) = some { l with ran := r' } ∧
      (∀ b, r.getLsbD b = true → r'.getLsbD b = true) ∧ ∀ c ∈ cores, r'.getLsbD c = true) ∧
    (∀ j c, cores[j]? = some c → MemberAt (startMembers l s (cores.zipIdx i)) l c (l.next + (i + j))) ∧
    ∀ d, d ∉ cores → LeavesCore s (startMembers l s (cores.zipIdx i)) d := by
  induction cores generalizing s i r with
  | nil => exact ⟨⟨r, hl, fun _ h => h, by simp⟩, by simp, fun d _ => LeavesCore.refl s d⟩
  | cons c cores ih =>
    obtain ⟨hnot, hnd⟩ := List.nodup_cons.1 hnd
    have hcc := hc c (List.mem_cons_self ..)
    obtain ⟨hl1, hm1, hleave1⟩ := startTcb_member (n := l.next + i) hg hd hl hcc
    have hother : ∀ d ∈ cores, d ≠ c := fun d hd' he => hnot (he ▸ hd')
    obtain ⟨⟨r', hl2, hold, hbits⟩, hm2, hleave2⟩ := ih (i + 1) _ hl1 hnd
      fun d hd' => (hleave1 d (hother d hd')).canStart (hc d (List.mem_cons_of_mem _ hd'))
    have hbit : r'.getLsbD c = true := hold c (by simp [hcc.below])
    refine ⟨⟨r', hl2, fun b hb => hold b (by simp [hb]), ?_⟩, fun j d hj => ?_, fun d hdn => ?_⟩
    · rintro d (_ | ⟨_, hd'⟩)
      · exact hbit
      · exact hbits d hd'
    · cases j with
      | zero =>
        obtain rfl : c = d := by simpa using hj
        exact (hleave2 c hnot).memberAt hm1
      | succ j =>
        have := hm2 j d (by simpa using hj)
        rwa [show i + 1 + j = i + (j + 1) by omega] at this
    · have hne : d ≠ c := fun he => hdn (he ▸ List.mem_cons_self ..)
      exact (hleave1 d hne).trans (hleave2 d fun h => hdn (List.mem_cons_of_mem _ h))

/-- The cores a gang is placed on are cores of the module, all different, and fit. -/
theorem gangPlace_fits {cores : List Nat} (h : gangPlace s l = some cores) :
    cores.Nodup ∧ ∀ c ∈ cores, c < 128 ∧ fits s c (tcbOf s l l.next) = true := by
  unfold gangPlace at h
  dsimp only at h
  split at h
  · cases h
  · obtain ⟨cs, hfind, rfl⟩ := Option.map_eq_some_iff.1 h
    obtain ⟨d, hd, rfl⟩ := List.mem_map.1 (List.mem_of_find?_eq_some hfind)
    have hd4 : d < 4 := List.mem_range.1 hd
    refine ⟨?_, fun c hc => ?_⟩
    · refine List.Nodup.sublist ((List.take_sublist ..).trans List.filter_sublist) (List.pairwise_map.2 ?_)
      exact List.Pairwise.imp (fun hne heq => hne (Nat.add_left_cancel heq)) (List.nodup_range (n := 32))
    · obtain ⟨hmem, hok⟩ := List.mem_filter.1 (List.mem_of_mem_take hc)
      obtain ⟨k, hk, rfl⟩ := List.mem_map.1 hmem
      have hk32 : k < 32 := List.mem_range.1 hk
      simp only [Bool.and_eq_true] at hok
      exact ⟨by omega, hok.2⟩

theorem fits_canStart {c : Nat} (hl : s.launches.get? (l.ctx * 64 + l.lid) = some l) (hc : c < 128)
    (hf : fits s c (tcbOf s l l.next) = true) (ha : absentGrains s c (s.ctx l.ctx).tenant = []) : CanStart s l c := by
  have hrec : tcbRec s (tcbOf s l l.next) = l.lrec := by simp only [tcbRec, tcbOf, hl]
  simp only [fits, fitsWith, hrec, Bool.and_eq_true] at hf
  obtain ⟨-, ⟨⟨⟨hslot, -⟩, hwin⟩, -⟩, -⟩ := hf
  exact ⟨hc, hslot, hwin, ha⟩

end

theorem gangs_says {s : State} {l : Launch} (h : gangs s l = true) : l.st = .dealing ∧ recDet l.lrec = false ∧ recGang l.lrec ≠ 0 := by
  simp only [gangs, Bool.and_eq_true, decide_eq_true_eq, Bool.not_eq_true'] at h
  obtain ⟨⟨⟨⟨hst, -⟩, hdet⟩, hgang⟩, -⟩ := h
  exact ⟨hst, hdet, hgang⟩

/-- A launch of which a gang of `n` has started. -/
def Launch.placed (l : Launch) (n : Nat) : Launch := { l with
  next := l.next + n, gangAt := none, held := []
  st := if l.next + n = recNskein l.lrec then .dealt else l.st }

theorem gangPlacement_starts {s : State} {ctx lid : Nat} {l : Launch} {cores : List Nat}
    (hl : s.launches.get? (ctx * 64 + lid) = some l) (hg : gangs s l = true) (hp : gangPlace s l = some cores)
    (ha : ∀ c ∈ cores, absentGrains s c (s.ctx ctx).tenant = []) :
    exec (.gangPlacement ctx lid) s = .next ((startMembers l s cores.zipIdx).modLaunch (ctx * 64 + lid) (·.placed cores.length)) := by
  change execGangPlacement ctx lid s = _
  have hu : cores.filter (fun c => decide (absentGrains s c (s.ctx ctx).tenant ≠ [])) = [] := by
    rw [List.filter_eq_nil_iff]
    intro c hc
    simp [ha c hc]
  simp only [execGangPlacement, hl, hg, hp, hu, Bool.not_true, Bool.false_eq_true, if_false, ne_eq, not_true_eq_false]
  rfl

/-- What the members of a placed gang leave: the launch has run on their cores, and each stands on its own. -/
theorem startMembers_of_gangPlace {s : State} {l : Launch} {cores : List Nat} (hl : s.launches.get? (l.ctx * 64 + l.lid) = some l)
    (hg : gangs s l = true) (hp : gangPlace s l = some cores) (ha : ∀ c ∈ cores, absentGrains s c (s.ctx l.ctx).tenant = []) :
    (∃ r, (startMembers l s cores.zipIdx).launches.get? (l.ctx * 64 + l.lid) = some { l with ran := r } ∧
      ∀ c ∈ cores, r.getLsbD c = true) ∧
    ∀ j c, cores[j]? = some c → MemberAt (startMembers l s cores.zipIdx) l c (l.next + j) := by
  obtain ⟨-, hdet, hgang⟩ := gangs_says hg
  obtain ⟨hnd, hfit⟩ := gangPlace_fits hp
  have hcan : ∀ c ∈ cores, CanStart s l c := fun c hc => fits_canStart hl (hfit c hc).1 (hfit c hc).2 (ha c hc)
  obtain ⟨⟨r, hr, -, hbits⟩, hmem, -⟩ := startMembers_start hgang hdet cores 0 l.ran hl hnd hcan
  exact ⟨⟨r, hr, hbits⟩, fun j c hj => by simpa using hmem j c hj⟩

/-- Settles O46, clause by clause: acceptance and its checks, the deal, gangs, the start of a skein, the kernel boundary, completion. -/
theorem launchesProceed : Obligations.LaunchesProceed := by
  refine ⟨?accept, ?faults, ?deal, ?gang, ?waits, ?reserve, ?starve, ?start, ?boundary, ?complete, ?record⟩
  case accept =>
    intro s ctx q lid h ha hl hr h4 h12 ht seq va word r hrec hword put taken does
    have hj := launchAcceptance_judges ha hl hr h4 h12 ht hrec hword
    exact ⟨fun code hf => hj.trans (congrArg _ (judgeRecord_of_fault hf)), fun hf h13 => hj.trans (congrArg _ (judgeRecord_of_plain hf h13)),
      fun code hf hv => hj.trans (congrArg _ (judgeRecord_of_refused hf hv)),
      fun v l hf hv ht => hj.trans (congrArg _ (judgeRecord_of_trees hf hv ht))⟩
  case faults =>
    intro s ctx q seq r
    exact ⟨fun h => recordFault_of_badFields (badFields_of_skeins h), fun hb hn => ⟨fun hd hq => recordFault_of_quantum hb hn hd hq,
      fun hd hq hdep hg hm => recordFault_of_gang hb hn hd hq hdep hg hm⟩⟩
  case deal =>
    intro s ctx lid l hl hst hdep hdet hg hn hb hc core cls ha hq
    refine ⟨_, skeinDeal_deals hl hst hdep hdet hg hn hb hc ha hq, rfl, ?_, dealtOne_launch hl hst hb, rfl, rfl⟩
    rw [← tcbOf_plain hdet hg]
    exact enqueue_queues _ core (tcbOf s l l.next)
  case gang =>
    intro s ctx lid l cores hl hg hctx hlid hp habs
    obtain ⟨hst, -, -⟩ := gangs_says hg
    subst hctx hlid
    obtain ⟨⟨r, hr, hbits⟩, hmem⟩ := startMembers_of_gangPlace hl hg hp habs
    refine ⟨_, { l with ran := r }.placed cores.length, gangPlacement_starts hl hg hp habs, ?_, ?_, hbits, fun j core hj => ?_⟩
    · rw [State.modLaunch, Table.get?_modify_self, hr, Option.map_some]
    · simp only [Launch.placed, hst]
    · obtain ⟨slot, k, -, hk, hrest⟩ := hmem j core hj
      exact ⟨slot, k, hk, hrest⟩
  case waits =>
    intro s ctx lid l hl hg hp hn
    exact gangPlacement_waits hl hg hp hn
  case reserve =>
    intro s ctx lid l cores hl hd hc
    exact ⟨_, gangReservation_reserves hl hd hc, rfl, rfl, fun x hx hmem hcls hpin hsave =>
      ⟨_, rfl, List.mem_map.2 ⟨x, mem_askedToLeave hx hmem hcls hpin hsave, rfl⟩⟩⟩
  case starve =>
    intro s ctx lid n l hl hd hn hx
    exact starveCount_counts hl hd hn hx
  case start =>
    intro s core q slot wbase x hn hsaved hslot hwin hwf habs r
    obtain ⟨hqueues, htile⟩ := skeinStarted_hwOf (q := q) (slot := slot) (wbase := wbase) habs
    refine ⟨_, _, skeinStart_starts hn hsaved hslot hwin habs, skeinStarted_skein, rfl, rfl, rfl, rfl, rfl, rfl, hqueues, ?_, ?_⟩
    · intro i hi
      rw [htile, read_splice_zeros hwf hi]
    · intro n hn
      obtain ⟨s1, hword, hp⟩ := skeinStarted_ply (q := q) (slot := slot) (wbase := wbase) habs hn
      refine ⟨_, hp, rfl, rfl, rfl, rfl, rfl, rfl, rfl, ?_, rfl, rfl, rfl, rfl, rfl, rfl, rfl, rfl, rfl, rfl⟩
      rw [← hword]
      rfl
  case boundary =>
    intro s ctx lid l hl hst he
    refine ⟨kernelBoundary_collects hl hst he, fun hd hc hcores ht => ?_, ?_, kernelBoundary_finishes hl hst he⟩
    · rw [kernelBoundary_drops hl hst he hd ht, dropClasses_of_none hc hcores, pumpAll_of_no_txns (s := State.modLaunch ..) ht,
        modLaunch_of_get? _ hl]
    · intro g e hd hc hctx hlid hcls hwd ht
      exact kernelBoundary_drops_shared hl hst he hd hc hctx hlid hcls hwd ht
  case complete =>
    intro s ctx q key l h hn hr slot word hneed
    exact completionRecordWrite_writes hn hr hneed
  case record =>
    intro l
    obtain ⟨hlen, hseq, hnfail, hstarve, htag, hfirst⟩ := completionRecord_says l
    refine ⟨hlen, hseq, hnfail, hstarve, htag, hfirst, fun code hc hst => ?_, fun hst => ?_⟩
    · exact completionRecord_status (by simp only [completionStatus, hst]) hc (by decide)
    · by_cases hf : l.nfail ≠ 0 ∨ l.killed = true
      · rw [if_pos hf]
        exact completionRecord_status (status := 1) (code := 0) (by simp only [completionStatus, hst, if_pos hf]) (by decide) (by decide)
      · rw [if_neg hf]
        exact completionRecord_status (status := 0) (code := 0) (by simp only [completionStatus, hst, if_neg hf]) (by decide) (by decide)

end Sys2Proof.Machine

namespace Sys2Proof.Machine

/-! ## Results that land -/

theorem landDone_nil (s : State) (d : Name) (x : DWord) : landDone s d x [] =
    .done s.use { land := some ⟨s.uses, true, 0, dstWrites d .pair 1 [r64 x]⟩ } := by
  simp only [landDone, landNow, List.append_nil, r64]

theorem fieldAt_zero (n : Nat) : fieldAt 0 n = BitVec.ofNat 64 n := by simp [fieldAt]

/-! ## CLASSQ (R445) -/

/-- The class table's word of a granule, field by field. -/
theorem classWord_eq (s : State) (key loc : Nat) :
    let g := granuleOf loc
    let c := s.classes.getD g ClassEntry.zero
    classWord s key loc =
      BitVec.ofNat 64 (if c.cls = .unseen then 0 else if c.cls = .priv then 1 else if c.cls = .readonly then 2 else 3) |||
        BitVec.ofNat 64 (if c.wd = true ∨ g ∈ s.withdrawn then 4 else 0) |||
        BitVec.ofNat 64 (if c.cls = .priv ∧ c.owner = some (.ply key) then 8 else 0) ||| BitVec.ofNat 64 (c.mig * 2 ^ 4) := by
  intro g c
  have hcode : fieldAt 0 c.cls.code =
      BitVec.ofNat 64 (if c.cls = .unseen then 0 else if c.cls = .priv then 1 else if c.cls = .readonly then 2 else 3) := by
    cases c.cls <;> rfl
  have hwd : fieldAt 2 (c.wd || s.withdrawn.contains g).toNat = BitVec.ofNat 64 (if c.wd = true ∨ g ∈ s.withdrawn then 4 else 0) := by
    by_cases h : c.wd = true ∨ g ∈ s.withdrawn
    · rw [if_pos h, show (c.wd || s.withdrawn.contains g) = true by simpa using h]; rfl
    · rw [if_neg h, show (c.wd || s.withdrawn.contains g) = false by simpa using h]; rfl
  have hown : fieldAt 3 (decide (c.cls = .priv) && decide (c.owner = some (.ply key))).toNat =
      BitVec.ofNat 64 (if c.cls = .priv ∧ c.owner = some (.ply key) then 8 else 0) := by
    rw [← Bool.decide_and]
    by_cases h : c.cls = .priv ∧ c.owner = some (.ply key)
    · rw [if_pos h, decide_eq_true h]; rfl
    · rw [if_neg h, decide_eq_false h]; rfl
  rw [← hcode, ← hwd, ← hown]
  rfl

/-! ## FAULTREQ, WAITF (R446) -/

theorem cachedFor_of_ats {s : State} {core pasid page : Nat} {r w x : Bool} {e : TlbEnt} (h : tlbFind s.ats pasid page = some e)
    (ha : e.allows r w x = true) : cachedFor s core pasid page r w x = true := by
  simp only [cachedFor, h, ha, Bool.or_true]

/-- A buffer of whose 4,096 records none is free, and none is the page's, takes no fault (R78). -/
theorem openRecord_of_full {s : State} {core ctx page : Nat} {r w x : Bool} (hr : recordOf s (s.ctx ctx).pasid page = none)
    (hf : ∀ i < 4096, ∃ f ∈ s.faults, f.idx = i ∧ f.st ≠ .free) : openRecord s core ctx page r w x = none := by
  have hfree : freeRecord s = none := by
    refine List.find?_eq_none.2 fun i hi => ?_
    obtain ⟨f, hm, hs⟩ := hf i (List.mem_range.1 hi)
    have hany : (s.faults.any fun f => decide (f.idx = i ∧ f.st ≠ .free)) = true := List.any_eq_true.2 ⟨f, hm, decide_eq_true hs⟩
    simp only [hany, Bool.not_true, Bool.false_eq_true, not_false_eq_true]
  simp only [openRecord, openFor, hr, hfree]

theorem recordOf_of_others {s : State} {pasid page : Nat} (h : ∀ f ∈ s.faults, f.pasid ≠ pasid ∨ f.vpage ≠ page) :
    recordOf s pasid page = none := by
  refine List.find?_eq_none.2 fun f hf => ?_
  simp only [decide_eq_true_eq]
  rintro ⟨hp, hv, -⟩
  exact (h f hf).elim (absurd hp) (absurd hv)

/-! ## SPAWN (R394) -/

section
variable {d : Name} {q : Nat} {v : Env} {image : List QWord} {s : State} {h : QueueHdr}

/-- The state after the distributor's stores for an append: the image to its slot, the new TAIL to the header. -/
def appended (s : State) (v : Env) (q : Nat) (h : QueueHdr) (image : List QWord) : State :=
  let base := queueBase s v.p.ctx q
  let slot := h.ring + BitVec.ofNat 64 (128 * (h.tail % 2 ^ h.log2n))
  let note (s : State) (va : DWord) : State := noteStore s v.p.core v.p.ctx (svcAttr s v.p.ctx v.p.lid va) va
  let s := note (svcPut s v.p.ctx v.p.lid slot (image.flatMap fun x => bytesOf 16 x.toNat)) slot
  note (svcPut s v.p.ctx v.p.lid base (bytesOf 8 (h.tail + 1))) base

theorem appendRecord_full (ho : svcRefused s v.p.ctx v.p.lid (queueBase s v.p.ctx q) true = false)
    (hr : readQueue s v.p.ctx v.p.lid q = (some h, s)) (hfull : 2 ^ h.log2n ≤ h.tail - (s.lq v.p.ctx q).1) :
    appendRecord d q v image s = landDone (s.modPly v.key fun p => { p with work := none }) d 0#64 [setQ 7 true] := by
  simp only [appendRecord, ho, hr, hfull, Bool.false_eq_true, if_false, if_true]

theorem appendRecord_appends (ho : svcRefused s v.p.ctx v.p.lid (queueBase s v.p.ctx q) true = false)
    (hr : readQueue s v.p.ctx v.p.lid q = (some h, s)) (hroom : h.tail - (s.lq v.p.ctx q).1 < 2 ^ h.log2n)
    (hs : svcRefused s v.p.ctx v.p.lid (h.ring + BitVec.ofNat 64 (128 * (h.tail % 2 ^ h.log2n))) true = false)
    (hn : svcNeed s v.p.ctx v.p.lid true [(h.ring + BitVec.ofNat 64 (128 * (h.tail % 2 ^ h.log2n)), 128),
      (queueBase s v.p.ctx q, 8)] = none) :
    appendRecord d q v image s = landDone ((appended s v q h image).modPly v.key fun p => { p with work := none }) d
      (BitVec.ofNat 64 (h.tail + 1)) [setQ 7 false] := by
  simp only [appendRecord, ho, hr, hs, hn, Nat.not_le.2 hroom, Bool.false_eq_true, if_false]
  rfl

end

/-! ## What the service die's stores touch (R61) -/

/-- Memory, what the homes keep of it, and messages may differ; every other part of the state is equal. -/
def MemorySide (s t : State) : Prop :=
  t = { s with
    mem := t.mem, keyed := t.keyed, replicated := t.replicated, dir := t.dir, tags := t.tags, mons := t.mons, net := t.net }

namespace MemorySide

theorem refl (s : State) : MemorySide s s := rfl

theorem write (s : State) (mem : Memory) (keyed : Table Nat) : MemorySide s { s with mem := mem, keyed := keyed } := rfl
theorem write_home (s : State) (dir : Table DirEntry) (tags : Table TagEntry) : MemorySide s { s with dir := dir, tags := tags } := rfl
theorem wake (s : State) (mons : List (Nat × Nat × Nat)) (net : List Instr) : MemorySide s { s with mons := mons, net := net } := rfl

theorem trans {s t u : State} (h : MemorySide s t) (g : MemorySide t u) : MemorySide s u := by
  unfold MemorySide at *
  rw [g, h]

theorem foldl {β : Type} {f : State → β → State} (hf : ∀ s x, MemorySide s (f s x)) (l : List β) (s : State) :
    MemorySide s (l.foldl f s) := by
  induction l generalizing s with
  | nil => exact refl s
  | cons x l ih => exact (hf s x).trans (ih _)

variable {s t : State} (h : MemorySide s t)
include h

theorem plies : t.plies = s.plies := by rw [h]
theorem skeins : t.skeins = s.skeins := by rw [h]

end MemorySide

theorem noteStore_memorySide (s : State) (core ctx : Nat) (a : Attr) (va : DWord) : MemorySide s (noteStore s core ctx a va) := by
  unfold noteStore
  split <;> rfl

theorem rekey_memorySide (s : State) (key sec : Nat) : MemorySide s (s.rekey key sec) := by
  unfold State.rekey
  split
  · split
    · exact .refl s
    · exact .write s _ _
  · exact .write s _ _

theorem putBytes_memorySide (s : State) (key loc : Nat) (l : List Byte) : MemorySide s (s.putBytes key loc l) := by
  have hkeys (l : List Nat) : MemorySide s (l.foldl (fun s sec => s.rekey key sec) s) := MemorySide.foldl (rekey_memorySide · key ·) l s
  simp only [State.putBytes]
  split
  · exact .write s _ _
  · exact (hkeys _).trans (.write _ _ _)

theorem monWake_memorySide (s : State) (loc size : Nat) : MemorySide s (monWake s loc size) :=
  MemorySide.foldl (fun s _ => .wake s _ _) _ s

theorem noteReplicas_memorySide (s : State) (loc repl : Nat) : MemorySide s (noteReplicas s loc repl) := by
  unfold noteReplicas
  split <;> rfl

theorem perform_memorySide (s : State) (key loc : Nat) (bytes : List Byte) (repl : Nat) (g : BitVec 2) :
    MemorySide s (s.perform key loc bytes repl g) :=
  (noteReplicas_memorySide s loc repl).trans (MemorySide.foldl (fun s l =>
    ((putBytes_memorySide s key l bytes).trans (monWake_memorySide _ l _)).trans (.write_home _ _ _)) _ _)

theorem svcPut_memorySide (s : State) (ctx lid : Nat) (va : DWord) (bytes : List Byte) : MemorySide s (svcPut s ctx lid va bytes) := by
  refine MemorySide.foldl (fun s i => ?_) _ s
  dsimp only
  split
  · exact (perform_memorySide s _ _ _ _ _).trans (.write_home _ _ _)
  · exact MemorySide.refl s

theorem saveStore_memorySide (s : State) (core ctx lid : Nat) (va : DWord) (bytes : List Byte) :
    MemorySide s (saveStore s core ctx lid va bytes) :=
  (noteStore_memorySide s core ctx _ va).trans (svcPut_memorySide _ ctx lid va bytes)

/-! ## What issuing keeps of the ply -/

section
variable (p : Ply) (t : Nat) (b : Bool)
@[simp] theorem commit_overlapped : (p.commit t b).overlapped = p.overlapped := by rw [commit_keeps]
@[simp] theorem commit_tileAt : (p.commit t b).tileAt = p.tileAt := by rw [commit_keeps]
@[simp] theorem commit_spinAt : (p.commit t b).spinAt = p.spinAt := by rw [commit_keeps]
end

section
variable (i : Instr) (s : State) (key : Nat) (p : Ply)
theorem envOf_ctx : (envOf i s key p).p.ctx = p.ctx := commit_ctx _ _ _
theorem envOf_lid : (envOf i s key p).p.lid = p.lid := commit_lid _ _ _
theorem envOf_plyid : (envOf i s key p).p.plyid = p.plyid := commit_plyid _ _ _
theorem envOf_partKey : (envOf i s key p).p.partKey = p.partKey := commit_partKey _ _ _
theorem envOf_skeinKey : (envOf i s key p).p.skeinKey = p.skeinKey := commit_skeinKey _ _ _

/-- The spindle of the ply at issue is the one it had before. -/
theorem spindle_atIssue : (baseOf i s key p).spindle (envOf i s key p).p.core (envOf i s key p).p.part = s.spindle p.core p.part := by
  rw [envOf_p, issuePly, commit_core, Ply.part, commit_plyid]
  rfl

end

/-! ## EVICT (R448) -/

section
variable {s : State} {key : Nat} {p : Ply}

@[simp] theorem releaseExt_skeins : (releaseExt s key p).skeins = s.skeins := by
  unfold releaseExt
  split <;> rfl

theorem releaseExt_plies_other {q : Nat} (h : q ≠ key) : (releaseExt s key p).plies.get? q = s.plies.get? q := by
  unfold releaseExt
  split
  · exact Table.get?_modify_other _ _ h
  · rfl

theorem part_modPart_self (s : State) (k : Nat) (f : Part → Part) : (s.modPart k f).part k = f (s.part k) := by
  simp [State.part, Table.getD]

/-- A ply that opened no batch closes none. -/
theorem closeBatch_of_others {t : Nat} {part : Bool} (h : ∀ b, (s.spindle p.core p.part).opened = some b → b.owner ≠ key) :
    closeBatch s key p t part = some (s, none) := by
  cases ho : (s.spindle p.core p.part).opened with
  | none => simp only [closeBatch, ho]
  | some b => simp only [closeBatch, ho, ne_eq, h b ho, not_false_eq_true, if_true]

theorem batchesDone_of_others (h : ∀ b, (s.spindle p.core p.part).drain = some b → b.owner ≠ key) : batchesDone s key p = true := by
  unfold batchesDone
  cases hd : (s.spindle p.core p.part).drain with
  | none => rfl
  | some b => exact decide_eq_true (h b hd)

theorem quietWait_of_quiet {v : Env} (hs : v.p.strict = 0) (htile : v.p.tileAt ≤ v.t) (hspin : v.p.spinAt ≤ v.t) (spin : Bool) :
    quietWait v spin = none := by
  simp [quietWait, hs, htile, hspin]

/-- A ply is not the last to leave while another of its skein neither has retired nor has left. -/
theorem lastToLeave_of_other {k : Skein} {plyid j : Nat} (hj : j < recNply k.lrec) (hne : j ≠ plyid) (hr : k.retired.getLsbD j = false)
    (hl : k.left.getLsbD j = false) : lastToLeave k plyid = false := by
  refine List.all_eq_false.2 ⟨j, List.mem_range.2 hj, ?_⟩
  simp [hr, hl, hne]

theorem svcNeed_of_ready {ctx lid : Nat} {w : Bool} {va : DWord} {n : Nat} (h : svcReady s ctx lid va n w = true) :
    svcNeed s ctx lid w [(va, n)] = none := by
  have hold : svcHold s ctx lid va n w = none := Option.isNone_iff_eq_none.1 h
  simp [svcNeed, hold]

/-- The state after a ply that is not the last of its skein has left its slot, its block saved. -/
def leftSlot (s : State) (key : Nat) (p : Ply) (block : DWord) : State :=
  let s := noteAway (saveStore s p.core p.ctx p.lid block (plyImage p)) p
  let s := releaseExt s key p
  let s := { s with mons := s.mons.filter fun m => m.1 ≠ key, plies := s.plies.erase key }
  let s := s.modPart p.partKey fun pt => { pt with
    banks := pt.banks.map fun b => if b = some key then none else b
    current := if pt.current = some key then none else pt.current }
  s.modSkein p.skeinKey fun k => { k with left := k.left ||| (1#32 <<< p.plyid) }

theorem leftSlot_skein {k : Skein} {block : DWord} (h : s.skeins.get? p.skeinKey = some k) :
    (leftSlot s key p block).skeins.get? p.skeinKey = some { k with left := k.left ||| (1#32 <<< p.plyid) } := by
  have hs := (saveStore_memorySide s p.core p.ctx p.lid block (plyImage p)).skeins
  simp [leftSlot, noteAway, hs, h]

theorem leftSlot_part (block : DWord) : ((leftSlot s key p block).part p.partKey).current ≠ some key ∧
    ∀ b ∈ ((leftSlot s key p block).part p.partKey).banks, b ≠ some key := by
  have hpart (t : State) (f : Part → Part) (g : Skein → Skein) :
      ((t.modPart p.partKey f).modSkein p.skeinKey g).part p.partKey = f (t.part p.partKey) := part_modPart_self t _ f
  simp only [leftSlot, hpart, List.mem_map]
  refine ⟨?_, ?_⟩
  · split
    · exact (Option.some_ne_none key).symm
    · assumption
  · rintro b ⟨c, -, rfl⟩
    split
    · exact (Option.some_ne_none key).symm
    · assumption

theorem leftSlot_plies {q : Nat} (block : DWord) (h : q ≠ key) : (leftSlot s key p block).plies.get? q = s.plies.get? q := by
  have hs := (saveStore_memorySide s p.core p.ctx p.lid block (plyImage p)).plies
  simp only [leftSlot, State.modSkein_plies, State.modPart_plies, Table.get?_erase_other _ h, releaseExt_plies_other h, noteAway, hs]

end

section
variable {sw : Bool} {s : State} {key : Nat} {p : Ply} {k : Skein}

theorem evict_kills (h : Ready (.evict sw) s key p) (hk : (baseOf (.evict sw) s key p).skein? (envOf (.evict sw) s key p).p = some k)
    (hkill : (envOf (.evict sw) s key p).p.tl ≠ 1 ∨ k.save = 0) :
    exec (.evict sw) s = .next (killContext (baseOf (.evict sw) s key p) (envOf (.evict sw) s key p).p 3 0 p.pc 0) := by
  have hpc : (envOf (.evict sw) s key p).p.pc = p.pc := commit_pc _ _ _
  refine (issue_ready h _).trans ?_
  simp only [hk, if_pos hkill, hpc]

/-- EVICT at TL1 by a ply with nothing outstanding, its block of the save area at hand, that is not the last of its skein: whatever the
skein's entry holds afterwards, the ply has left its slot. -/
theorem evict_leaves (h : Ready (.evict sw) s key p) {v : Env} {t : State} (hv : envOf (.evict sw) s key p = v)
    (ht : baseOf (.evict sw) s key p = t) (hk : t.skein? v.p = some k) (htl : v.p.tl = 1) (hsave : k.save ≠ 0) (hout : v.p.out = [])
    (hover : v.p.overlapped = []) (hquiet : quietWait v true = none)
    (hopen : ∀ b, (t.spindle v.p.core v.p.part).opened = some b → b.owner ≠ v.key)
    (hdrain : ∀ b, (t.spindle v.p.core v.p.part).drain = some b → b.owner ≠ v.key) (hlast : lastToLeave k v.p.plyid = false)
    (hready : svcReady t v.p.ctx v.p.lid (k.save + BitVec.ofNat 64 (0x2000 + 1024 * v.p.plyid)) 1024 true = true) :
    exec (.evict sw) s = .next (leftSlot t v.key v.p (k.save + BitVec.ofNat 64 (0x2000 + 1024 * v.p.plyid))) := by
  have hstay : ¬ (v.p.tl ≠ 1 ∨ k.save = 0) := not_or.2 ⟨fun hne => hne htl, hsave⟩
  refine (issue_ready h _).trans ?_
  rw [hv, ht]
  simp only [hk, hstay, closeBatch_of_others hopen, hout, hover, hquiet, batchesDone_of_others hdrain, hlast, svcNeed_of_ready hready,
    if_false, ne_eq, not_true_eq_false, List.isEmpty_nil, Bool.not_true, Bool.false_and, Bool.or_self, Bool.false_eq_true]
  generalize hu : State.modSkein _ _ _ = u
  cases u.skeins.get? v.p.skeinKey <;> exact congrArg _ hu.symm

end

/-- Settles O40, instruction by instruction; each case names what decides it. -/
theorem faultRequestsAndEvictionComplete : Obligations.FaultRequestsAndEvictionComplete := by
  intro d a n sw k x e
  dsimp only
  refine ⟨?classq, ?inAts, ?opened, ?full, ?preempted, ?prot, ?resolved, ?noRecord, ?recorded, ?spawn, ?notDevice, ?unaligned, ?noQueue,
    ?kills, ?leaves⟩
  case classq =>
    refine does_of (fun _ => rfl) fun v s ⟨hp, ht⟩ => ?_
    simp only [Env.dw] at hp ht ⊢
    simp only [hp, pageOf, ht, classWord_eq]
    rfl
  case inAts => exact does_of (fun _ => rfl) fun v s ⟨ht, ha⟩ => if_pos (cachedFor_of_ats ht ha)
  case opened =>
    refine fun f => does_of (fun _ => rfl) fun v s ⟨hc, ho⟩ => ?_
    simp only [Env.dw] at hc ho
    simp only [fieldOf, hc, ho, landDone_nil, Bool.false_eq_true, if_false]
  case full =>
    refine does_of (fun _ => rfl) fun v s ⟨hc, hr, hf⟩ => ?_
    simp only [Env.dw] at hc hr
    simp only [fieldOf, hc, openRecord_of_full hr hf, Bool.false_eq_true, if_false]
    rfl
  case preempted => exact does_of (fun _ => rfl) fun v s h => if_pos h
  case prot =>
    refine does_of (fun _ => rfl) fun v s ⟨hp, hst, hv⟩ => ?_
    simp only [hp, hst, hv, Option.isSome_none, Bool.false_eq_true, if_false, if_true]
    rfl
  case resolved =>
    refine does_of (fun _ => rfl) fun v s ⟨hp, hst, hv⟩ => ?_
    simp only [hp, hst, hv, Option.isSome_none, Bool.false_eq_true, if_false, if_true]
    rfl
  case noRecord =>
    refine does_of (fun _ => rfl) fun v s ⟨hp, hst, hf⟩ => ?_
    have hr := recordOf_of_others hf
    simp only [Env.dw] at hr
    simp only [hp, hst, fieldOf, hr, Option.isSome_none, Bool.false_eq_true, if_false]
    rfl
  case recorded =>
    refine fun f => waits_of (fun _ => rfl) fun v s ⟨hp, hst, hr, hw⟩ => ?_
    simp only [Env.dw] at hr ⊢
    simp only [hp, hst, fieldOf, hr, hw, Option.isSome_none, Bool.false_eq_true, if_false, if_true]
  case spawn =>
    intro h w
    refine ⟨?full, ?appends⟩
    case full =>
      refine does_of (fun _ => rfl) fun v s ⟨⟨hst, hw, hl, ho, hr⟩, hn⟩ => ?_
      simp only [hst, hw, hl, if_true, if_false]
      exact appendRecord_full ho hr hn
    case appends =>
      refine does_of (fun _ => rfl) fun v s ⟨⟨hst, hw, hl, ho, hr⟩, hn, hs, hneed⟩ => ?_
      simp only [hst, hw, hl, if_true, if_false]
      exact appendRecord_appends ho hr hn hs hneed
  case notDevice =>
    refine fun h => traps_of (fun _ => rfl) fun v s ⟨hst, hal, hb, ho, hr, hdev⟩ => ?_
    simp only [Env.dw] at hal
    simp only [hst, hal, hb, ho, hr, hdev, ne_eq, not_true_eq_false, Bool.false_eq_true, Bool.not_false, if_false, if_true,
      fieldAt_zero]
    rfl
  case unaligned =>
    refine traps_of (fun _ => rfl) fun v s ⟨hst, hal⟩ => ?_
    simp only [Env.dw] at hal ⊢
    simp only [hst, if_pos hal, if_false]
    rfl
  case noQueue =>
    refine traps_of (fun _ => rfl) fun v s ⟨hst, hal, hb⟩ => ?_
    simp only [Env.dw] at hal
    simp only [hst, hal, hb, ne_eq, not_true_eq_false, if_false, if_true, fieldAt_zero]
    rfl
  case kills => exact fun s key p h ⟨hk, hkill⟩ => evict_kills h hk hkill
  case leaves =>
    intro s key p j h hk htl hsave hout hover hstrict htile hspin hopen hdrain hj hne hret hleft hready _
    have hskein : (baseOf (.evict sw) s key p).skeins.get? (envOf (.evict sw) s key p).p.skeinKey = some k := by rwa [envOf_skeinKey]
    have hlast := lastToLeave_of_other hj hne hret hleft
    have hquiet := quietWait_of_quiet (v := envOf (.evict sw) s key p) ((commit_strict _ _ _).trans hstrict)
      ((commit_tileAt _ _ _).symm ▸ htile) ((commit_spinAt _ _ _).symm ▸ hspin) true
    have hx := evict_leaves h rfl rfl hskein ((commit_tl _ _ _).trans htl) hsave ((commit_out _ _ _).trans hout)
      ((commit_overlapped _ _ _).trans hover) hquiet (by rwa [spindle_atIssue]) (by rwa [spindle_atIssue]) (by rwa [envOf_plyid])
      (by rwa [envOf_ctx, envOf_lid])
    obtain ⟨hcur, hbanks⟩ := leftSlot_part (s := baseOf (.evict sw) s key p) (key := key) (p := (envOf (.evict sw) s key p).p)
      (k.save + BitVec.ofNat 64 (0x2000 + 1024 * (envOf (.evict sw) s key p).p.plyid))
    rw [envOf_partKey] at hcur hbanks
    have hafter := leftSlot_skein (key := key) (block := k.save + BitVec.ofNat 64 (0x2000 + 1024 * (envOf (.evict sw) s key p).p.plyid))
      hskein
    rw [envOf_skeinKey] at hafter
    exact ⟨_, _, hx, hafter, by rw [envOf_plyid], rfl, hcur, hbanks, fun q hq => (leftSlot_plies _ hq).trans (baseOf_others _ _ _ _ hq)⟩

end Sys2Proof.Machine
